-- ==== Sys2Proof/Word.lean ====
section
/-!
DEFINITION. The plain words of the NK4-T512 model: bytes, registers of 16, 32 and 64 bits, and the sparse
table that every addressed store of the machine uses (memory, slates, reels, cores, ports …).
-/
namespace Sys2Proof

abbrev Byte := BitVec 8
abbrev Half := BitVec 16
abbrev Word := BitVec 32
abbrev Dword := BitVec 64

/-- A sparse table in ONE canonical form: keys strictly rising, no entry equal to what an unlisted key reads as.
An HBM memory `Tab Byte` is a list of `Host.Cell`. -/
abbrev Tab (α : Type) := List (Nat × α)

end Sys2Proof
end

