-- ==== Sys2Proof/Machine/Shot.lean ====
section
/-!
DEFINITION. The data that commands and the state share: names of units, a decoded shot (R261 to R265), a Burou packet
(R364) and a BAR access (R488). No meaning stands here.
-/
namespace Sys2Proof

/-- A physical core: core p (0–33) of compute die d (0–15), R9 and R122. -/
structure CoreId where
  die  : Fin 16
  core : Fin 34
deriving DecidableEq, Repr

/-- The key of a physical core in the table of cores. -/
def CoreId.key (c : CoreId) : Nat := c.die.val * 34 + c.core.val

/-- The name of a tracked shot: its reel and its sequence number (R266, R274). -/
structure ShotRef where
  reel : Fin 1024
  seq  : Word
deriving DecidableEq, Repr

/-- The predicate extension of Table 5-9 (R147), or the condition of WAIT_FLAG (Table 10-8). -/
structure Pred where
  flagAddr : BitVec 40
  op       : BitVec 4
  half     : Bool
  span     : BitVec 12
  mask     : Word
  value    : Word
deriving DecidableEq, Repr

/-- A shot as its units give it (R261, Table 10-1): header, extensions, body bytes. -/
structure Shot where
  opcode  : BitVec 12
  version : BitVec 4
  len16   : Nat
  flags   : Byte
  seq     : Word
  sref    : Dword
  pred    : Option Pred
  chk     : Option (BitVec 3)
  body    : List Byte
deriving DecidableEq, Repr

/-- A Burou packet: the header of Table 13-10 and the bytes after it. -/
structure Packet where
  ptype   : Byte
  pflags  : Byte
  dst     : Half
  src     : Half
  groupid : Word
  cser    : Word
  dhash   : Word
  chunk   : Half
  blk     : Half
  arg     : Dword
  payload : List Byte
deriving DecidableEq, Repr

/-- One PCIe access: the port, whether it arrived in a Secure IDE stream (R489), the offset within its BAR, its size in
bytes and, for a write, its value (R488). -/
structure BarAccess where
  port : Fin 2
  ide  : Bool
  off  : Nat
  size : Nat
  val  : Dword
  /-- it arrives as a poisoned TLP (R490) -/
  poison : Bool := false
deriving DecidableEq, Repr

/-- Who writes a mailbox (R283, Table 10-16); a posted write may arrive as a poisoned TLP (R490). -/
inductive Sender where
  | pcie (port : Fin 2) (fn : Byte) (ide : Bool) (poison : Bool := false)
  | controlDie (cd : Fin 2)
  | stagehand (c : CoreId)
  | peer (dev : Half)
deriving DecidableEq, Repr

/-- A read of host memory ends with UR, CA or poison at these host addresses (R490): what the host answers a COPY. -/
abbrev HostErrors := List Nat

/-- A COPY shot as it runs, with what the host answers. -/
structure CopyRun where
  ref : ShotRef
  bad : HostErrors := []
deriving DecidableEq, Repr

/-- A COPY instruction as it runs, with what the host answers. -/
structure CopyWord where
  iw  : Dword
  bad : HostErrors := []
deriving DecidableEq, Repr

/-- What a memory read is for (Table 11-5). -/
inductive ReadKind where
  | cueOperand | flagRead | mailboxBody | ebtorRead
  | operand | organFill | collectiveChunk
  | load | deviceCopy | merge
  | checkpoint | hostCopy | scrub
deriving DecidableEq, Repr

/-- Whose read or write it is: a core's, that of a part of a shot on no core, the checkpoint stream's, Ebtor's own. -/
inductive Party where
  | core (c : CoreId)
  | part (r : ShotRef) (p : Nat)
  | stream
  | ebtor
deriving DecidableEq, Repr

/-- The requester of a memory access: its tenant (R426), and whose part fails with it (R302). -/
structure Asker where
  tenant : BitVec 6
  who    : Party := .ebtor
deriving DecidableEq, Repr

/-- What the fetches of a sector meet (R300): the stack's report of an on-die correction, and how many symbols are in error on the first
fetch and on those that follow it. -/
structure SectorErr where
  onDie : Bool := false
  first : Nat := 0
  again : List Nat := []
deriving DecidableEq, Repr

/-- A block's transfers to a hub (R312): the CRC the writer sends with it and, when the hub asks for the block again, what then comes. -/
structure SendCrc where
  crc   : Dword
  again : Option (List Byte × Dword) := none
deriving DecidableEq, Repr

/-- A slate (Table 12-1). FLAGS bits [7:1] are always 0 and are not held. -/
structure Slate where
  crc   : Dword := 0
  gen   : Half := 0
  kind  : BitVec 4 := 0
  fmt   : BitVec 4 := 0
  stale : Bool := false
  tidf  : Word := 0
deriving DecidableEq, Repr

/-- The value a ledger holds (R75, R76, R88): the integer L, the window base and the status bits of Table 3-2. `wide` marks
a WIDE ledger (Table 3-4, STATUS bit 5). -/
structure Ledger where
  l     : Int := 0
  wbase : Int := 0
  wloss : Bool := false
  sat   : Bool := false
  nan   : Bool := false
  nz    : Bool := false
  empty : Bool := true
  wide  : Bool := false
deriving DecidableEq, Repr

/-- One contribution to a ledger (R77, R83): a finite value num × 2^exp, a signed infinity, a NaN or a −0. -/
inductive Contrib where
  | fin (num : Int) (exp : Int)
  | negZero
  | inf (neg : Bool)
  | nan
deriving DecidableEq, Repr

/-- A stationary tile as loaded (R102 to R104, R128): element codes by column, scale bytes by column, indices by column, SPAT, and
the generations of the blocks it was read from (R117). -/
structure StatTile where
  tfd    : Half := 0
  codes  : List (List Half) := []
  scales : List (List Byte) := []
  index  : List (List (BitVec 2)) := []
  spat   : BitVec 2 := 0
  gens   : List (Nat × Half) := []
deriving DecidableEq, Repr

/-- A streaming row as delivered to one array (R107, R135): its format, element codes, scale bytes and the absent elements. -/
structure StreamRow where
  row    : Nat
  tfd    : Half := 0
  codes  : List Half := []
  scales : List Byte := []
  absent : List Nat := []
deriving DecidableEq, Repr

/-- The output tile that a swap begins, as the core's sequencer has it from the instruction or the shot that runs (R109, assumption 47):
accumulator mode, STAT, the product descriptor, the output tile's first streaming row and first stationary column, its rows, the number
of its column range (R324), the stationary tiles of its reduction, its window base (R79), and the LEDGER96 blocks it expects (NBLK). -/
structure TileStart where
  acc   : BitVec 2 := 0
  stat  : Bool := false
  desc  : List Byte := []
  row0  : Nat := 0
  col0  : Nat := 0
  rows  : Nat := 1
  range : Nat := 0
  tiles : Nat := 1
  wbase : Int := 0
  nblk  : Nat := 0
deriving DecidableEq, Repr

/-- What a swap brings in beside the tile: the output tile it begins, if it begins one, and the streaming rows due for the new stationary
tile, numbered within the output tile (R105, R109, R137). -/
structure SwapIn where
  first : Option TileStart := none
  rows  : List Nat := []
deriving DecidableEq, Repr

/-- An NVMe command by its kind and logical block (R208). -/
inductive NvmeCmd where
  | read (lba : Nat)
  | write (lba : Nat)
  | flush
deriving DecidableEq, Repr

/-- A completion from an NVMe target: the command it answers, the admin shot that sent it, and the data of a read. -/
structure NvmeRsp where
  cmd  : NvmeCmd
  ref  : ShotRef
  data : List Byte := []
deriving DecidableEq, Repr

/-- What crosses the package boundary outward, for an observer (the model's own record of the device's outputs). -/
inductive OutMsg where
  | msix (port : Fin 2) (vector : Nat)
  | aerCompleterAbort (port : Fin 2) (off : Nat)
  | aerPoisoned (port : Fin 2)
  | busError (c : CoreId)
  | busErrorCd (cd : Fin 2)
  | packet (p : Packet)
  | ctrl (port : Fin 20) (ctype : Byte) (content : List Byte)
  | flits (port : Fin 20) (fseqs : List Nat)
  | ethernet (port : Fin 4) (bytes : List Byte)
  | nvmeConnect (target port depth : Nat) (io : Bool)
  | nvmeWrite (target : Nat) (lba : Nat) (bytes : List Byte)
  | nvmeFlush (target : Nat)
  | nvmeRead (target : Nat) (lba : Nat)
  | aerIde (port : Fin 2) (stream : Nat)
  | spdm (channel : Nat) (bytes : List Byte)
  | spdmError (channel : Nat) (code : Nat)
  | secured (session : Nat) (status : Half)
  | entropy (bits : Nat) (status : Half)
  | uart (cd : Fin 2) (bytes : List Byte)
  | i3cPlant (target : Byte) (bytes : List Byte)
  | mctp (bytes : List Byte)
  | tdo (bits : Dword)
  | resetReport (reel : Fin 1024) (aborted : Nat)
deriving DecidableEq, Repr

end Sys2Proof
end

