-- ==== Sys2Proof/Syntax.lean ====
section
/-!
DEFINITION. The commands of the block: one constructor per row of spec/opcode_table.json, in the table's order. An operand is
what the command names (a unit, an address, a written value) or, for an event, what the outside world delivers with it (a
packet, an ECC outcome, a sensor reading).
-/
namespace Sys2Proof

/-- The region arguments of REGION_CLAIM (Table 15-5). -/
structure RegionReq where
  base  : Nat
  len   : Nat
  kind  : BitVec 2
  owner : BitVec 6
  slot  : Fin 32
  tweak : Word
deriving DecidableEq, Repr

/-- What STAGE finds when it reads the image at GLB_FWU_ADDR (R475, Table 17-4). The three booleans are the outcomes of
the signature check, the digest check and the header check, which rest on published cryptography. -/
structure ImageInfo where
  headerOk  : Bool
  sigOk     : Bool
  digestsOk : Bool
  version   : Dword
  svn       : Byte
  raise     : Bool
  digests   : List (BitVec 384)
  /-- the header's board record (R486), whose place Table 17-4 does not give -/
  board     : Option (Half × Half) := none
deriving DecidableEq, Repr

inductive Instr where
  /-- DOORBELL (R275): A 64-bit doorbell write to a reel's BAR2 page is checked and, if accepted, publishes the units up to TAIL − 1. -/
  | doorbell (a : BarAccess)
  /-- DISPATCH (R274): Ebtor picks a ready shot by priority and round robin, journals it to the standby, and dispatches it. -/
  | dispatch
  /-- SHOT_COMPLETE (R266): Once all effects of a shot have landed, its completion record is written and an optional COMPLETION event is posted. -/
  | shotComplete (r : ShotRef)
  /-- NOP (R269): The NOP shot has no effect. -/
  | nop (r : ShotRef)
  /-- PROGRAM (R230): The PROGRAM shot loads a core program into a range of logical cores and runs it. -/
  | program (r : ShotRef)
  /-- MATMUL (R102): The MATMUL shot runs a matrix product from its product descriptor. -/
  | matmul (r : ShotRef)
  /-- CONV (R119): The CONV shot runs a convolution as a matrix product built by address generation. -/
  | conv (r : ShotRef)
  /-- SCATTER (R146): The SCATTER shot adds gated expert output rows into token ledgers. -/
  | scatter (r : ShotRef)
  /-- CONVERT (R60): The CONVERT shot converts a source into its destination formats, with base-note split and pruning. -/
  | convert (r : ShotRef)
  /-- ROUTE (R140): The ROUTE shot turns routing logits into per-expert token lists, gates, counts and a routing record. -/
  | route (r : ShotRef)
  /-- LSCHECK (R198): The loss-scale check reads the LSCHK sillage records and writes the overflow flag word. -/
  | lscheck (r : ShotRef)
  /-- COPY (R294): The COPY shot copies memory, including to or from a host window. -/
  | copy (r : CopyRun)
  /-- FILL (R269): The FILL shot writes a repeated 8-byte pattern. -/
  | fill (r : ShotRef)
  /-- CLEAR_RECORD (R73): The CLEAR_RECORD shot writes identity records. -/
  | clearRecord (r : ShotRef)
  /-- FLAG_WRITE (R269): The FLAG_WRITE shot performs an atomic masked write of a 64-bit flag word. -/
  | flagWrite (r : ShotRef)
  /-- BROADCAST (R384): The BROADCAST shot opens and runs a broadcast collective, or a feed. -/
  | broadcast (r : ShotRef)
  /-- REDUCE (R384): The REDUCE shot runs a two-pass chained reduction to the root. -/
  | reduce (r : ShotRef)
  /-- ALLREDUCE (R384): The ALLREDUCE shot runs a chained reduction followed by a broadcast. -/
  | allreduce (r : ShotRef)
  /-- TOKEN_EXCHANGE (R388): The TOKEN_EXCHANGE shot sends each slice directly to its member. -/
  | tokenExchange (r : ShotRef)
  /-- BARRIER (R384): The BARRIER shot runs OPEN and CONFIRM passes only. -/
  | barrier (r : ShotRef)
  /-- STEP_END (R273): The STEP_END shot marks the end of a step on its reel and completes at the end of the step-end actions. -/
  | stepEnd (r : ShotRef)
  /-- WAIT_FLAG (R271): The WAIT_FLAG shot holds its reel until a flag-word condition holds. -/
  | waitFlag (r : ShotRef)
  /-- WAIT_FLAG_POLL (R271): A waiting WAIT_FLAG rereads its flag word at least every 1 µs. -/
  | waitFlagPoll (r : ShotRef)
  /-- LAUNCH_AT (R405): The LAUNCH_AT shot holds its reel until an agreed clapper count, decoding the shots behind it. -/
  | launchAt (r : ShotRef)
  /-- LAUNCH_TARGET (R407): At count TARGET + 250 the next shot starts its core work, or the launch is missed. -/
  | launchTarget (r : ShotRef)
  /-- EVENT (R284): The EVENT shot posts an immediate word to an outbound mailbox. -/
  | event (r : ShotRef)
  /-- RECIPE_BIND (R184): The RECIPE_BIND admin shot binds or unbinds a job's recipe table. -/
  | recipeBind (r : ShotRef)
  /-- RECIPE_WRITE (R184): The RECIPE_WRITE admin shot stages a whole entry or header for the next step boundary. -/
  | recipeWrite (r : ShotRef)
  /-- EVAL_SNAPSHOT (R206): The EVAL_SNAPSHOT admin shot requests an evaluation snapshot at the next step boundary. -/
  | evalSnapshot (r : ShotRef)
  /-- CHECKPOINT (R208): The two-phase CHECKPOINT admin shot stages, then commits, a checkpoint to an NVMe-oF target. -/
  | checkpoint (r : ShotRef)
  /-- RESTORE (R213): The two-phase RESTORE admin shot reads and verifies a checkpoint and binds its table. -/
  | restore (r : ShotRef)
  /-- CAST_WRITE (R376): The CAST_WRITE admin shot writes or clears a cast entry. -/
  | castWrite (r : ShotRef)
  /-- STEP_BOUNDARY (R34): When every reel of a job has reached STEP_END and the prior shots have completed, Ebtor runs the step-boundary work. -/
  | stepBoundary (job : Word)
  /-- CHECKPOINT_SHADOW_COPY (R210): A write to a pending block copies the block and its slate to the shadow area, waiting for room if needed. -/
  | checkpointShadowCopy (blk : Nat)
  /-- CHECKPOINT_BLOCK_SEND (R210): The checkpoint stream sends one block to the target and clears its pending bit. -/
  | checkpointBlockSend (blk : Nat)
  /-- CHECKPOINT_MANIFEST_WRITE (R211): After a Flush the manifest is written, and the checkpoint completes on its write completion. -/
  | checkpointManifestWrite
  /-- FLUSH (R276): Writing FLUSH discards undispatched shots, sets HEAD to TAIL and advances EPOCH. -/
  | flush (reel : Fin 1024)
  /-- RELEASE (R272): Writing RELEASE ends a reel hold. -/
  | release (reel : Fin 1024)
  /-- REEL_ENABLE (R273): A GLB_REEL_CFG write that sets EN makes the reel accept doorbells and dispatch. -/
  | reelEnable (reel : Fin 1024) (v : Word)
  /-- REEL_DISABLE (R273): A GLB_REEL_CFG write that clears EN stops dispatch and flushes the reel. -/
  | reelDisable (reel : Fin 1024) (v : Word)
  /-- MAILBOX_WRITE (R283): A write to a mailbox is accepted or refused and, if accepted, sets the word, SENDER and FULL. -/
  | mailboxWrite (src : Sender) (m : Fin 64) (size : Nat) (w : Dword)
  /-- MAILBOX_RECEIVER_READ (R281): A read by the receiver returns the word and clears FULL. -/
  | mailboxReceiverRead (m : Fin 64)
  /-- EVENT_QUEUE_DELIVER (R284): Ebtor moves the head word of an outbound queue into its mailbox when FULL is 0. -/
  | eventQueueDeliver (m : Fin 64)
  /-- REGISTER_WRITE (R10): A BAR0 write to a register without its own row follows the access codes and the reserved-value checks. -/
  | registerWrite (a : BarAccess)
  /-- GLB_DEVICE_ID_WRITE (R289): A write to GLB_DEVICE_ID sets the ID and may lock it. -/
  | glbDeviceIdWrite (v : Word)
  /-- GLB_MEM_CFG_WRITE (R292): A change of PIN64 makes the hubs reinitialise every slate to UNWRITTEN. -/
  | glbMemCfgWrite (v : Word)
  /-- SLATE_REINIT_COMPLETE (R292): Slate reinitialisation finishes and BUSY clears. -/
  | slateReinitComplete
  /-- CLEAR (R508): Writing CLEAR to GLB_CNT_CTRL clears every R125 counter at one instant. -/
  | clear
  /-- GLB_CLAP_CFG_WRITE (R399): A write that changes ROLE or PARENT returns the clapper to ACQUIRING. -/
  | glbClapCfgWrite (v : Word)
  /-- EDG_TABLES_WRITE (R374): A write to EDG_TABLES makes Ebtor read the Ethernet configuration area. -/
  | edgTablesWrite (v : Dword)
  /-- PWR_PLAN_WRITE (R454): A write to PWR_PLAN checks the grant plan and binds it, or rejects it. -/
  | pwrPlanWrite (v : Dword)
  /-- RETRAIN (R362): Writing RETRAIN retrains a Burou port at full width. -/
  | retrain (p : Fin 20)
  /-- MMA (R237): The MMA instruction runs a matrix product from its descriptor. -/
  | mma (c : CoreId) (w : Dword)
  /-- CONV_INSTRUCTION (R239): The CONV instruction runs a convolution from product and convolution descriptors. -/
  | convInstruction (c : CoreId) (w : Dword)
  /-- SCAT (R240): The SCAT instruction runs a scatter-add into ledgers. -/
  | scat (c : CoreId) (w : Dword)
  /-- LX_EXP (R242): LX EXP writes each row's larger exponent P of the held set. -/
  | lxExp (c : CoreId) (w : Dword)
  /-- LX_OUT (R242): LX OUT converts the held rows to LEDGER96 at a given BEXP, optionally combining with arriving blocks. -/
  | lxOut (c : CoreId) (w : Dword)
  /-- LX_SPILL (R242): LX SPILL writes spill images of the held set. -/
  | lxSpill (c : CoreId) (w : Dword)
  /-- LX_RELOAD (R242): LX RELOAD loads spill images into a new held set. -/
  | lxReload (c : CoreId) (w : Dword)
  /-- LX_RELEASE (R242): LX RELEASE drains the held set through an epilogue. -/
  | lxRelease (c : CoreId) (w : Dword)
  /-- LX_ADD (R242): LX ADD adds LEDGER96 blocks into the held set. -/
  | lxAdd (c : CoreId) (w : Dword)
  /-- LX_DISCARD (R242): LX DISCARD clears the held set. -/
  | lxDiscard (c : CoreId) (w : Dword)
  /-- VOP (R244): The VOP instruction performs an arithmetic or function operation on tiles. -/
  | vop (c : CoreId) (w : Dword) (agree : Bool)
  /-- VCMP (R244): The VCMP instruction performs an IEEE comparison. -/
  | vcmp (c : CoreId) (w : Dword) (agree : Bool)
  /-- VROW (R178): The VROW instruction accumulates, clears or reads the row accumulators. -/
  | vrow (c : CoreId) (w : Dword) (agree : Bool)
  /-- VCVT (R244): The VCVT instruction rounds a tile to the values of a plain TFD. -/
  | vcvt (c : CoreId) (w : Dword) (agree : Bool)
  /-- VLD (R245): The VLD instruction loads a tile register. -/
  | vld (c : CoreId) (w : Dword) (agree : Bool)
  /-- VST (R246): The VST instruction stores a tile register by its TFD. -/
  | vst (c : CoreId) (w : Dword) (agree : Bool)
  /-- VRAND (R215): The VRAND instruction writes lane-generator draws. -/
  | vrand (c : CoreId) (w : Dword) (agree : Bool)
  /-- VMASK (R245): The VMASK instruction masks elements by logical index. -/
  | vmask (c : CoreId) (w : Dword) (agree : Bool)
  /-- VTOPK (R245): The VTOPK instruction merges or reads the routing top-k state. -/
  | vtopk (c : CoreId) (w : Dword) (agree : Bool)
  /-- BSCL (R245): The BSCL instruction chooses block scales for a tile. -/
  | bscl (c : CoreId) (w : Dword) (agree : Bool)
  /-- LOAD (R247): The LOAD instruction moves memory to the scratchpad. -/
  | load (c : CoreId) (w : Dword)
  /-- STORE (R247): The STORE instruction moves the scratchpad to memory. -/
  | store (c : CoreId) (w : Dword)
  /-- COPY_INSTRUCTION (R247): The COPY instruction moves memory to memory. -/
  | copyInstruction (c : CoreId) (w : CopyWord)
  /-- OFILL (R179): The OFILL instruction starts an organ fill. -/
  | ofill (c : CoreId) (w : Dword)
  /-- ORGAN_FILL_COMPLETE (R179): A fill lands and its slot moves from FILLING to VALID, or back to EMPTY on a slate failure. -/
  | organFillComplete (c : CoreId) (slot : Fin 64)
  /-- OEVICT (R180): The OEVICT instruction empties an organ slot. -/
  | oevict (c : CoreId) (w : Dword)
  /-- DLOAD (R247): The DLOAD instruction loads descriptor slots. -/
  | dload (c : CoreId) (w : Dword)
  /-- PLOAD (R247): The PLOAD instruction loads a parameter register from the scratchpad. -/
  | pload (c : CoreId) (w : Dword)
  /-- PSTORE (R247): The PSTORE instruction stores a parameter register to the scratchpad. -/
  | pstore (c : CoreId) (w : Dword)
  /-- TPUT (R248): The TPUT instruction adds tokens to a count queue. -/
  | tput (c : CoreId) (w : Dword)
  /-- TWAIT (R248): The TWAIT instruction waits for tokens or for a delivery chunk. -/
  | twait (c : CoreId) (w : Dword)
  /-- FENCE (R249): The FENCE instruction waits for every earlier instruction. -/
  | fence (c : CoreId) (w : Dword)
  /-- CCHK (R389): The CCHK instruction runs one collective chunk and posts its delivery token. -/
  | cchk (c : CoreId) (w : Dword)
  /-- SCLR (R247): The SCLR instruction writes an identity record. -/
  | sclr (c : CoreId) (w : Dword)
  /-- NOP_INSTRUCTION (R235): The NOP instruction has no effect. -/
  | nopInstruction (c : CoreId) (w : Dword)
  /-- END (R249): The END instruction completes the program after every earlier instruction commits. -/
  | endProgram (c : CoreId) (w : Dword)
  /-- PSET (R247): The PSET instruction sets a parameter register from an immediate. -/
  | pset (c : CoreId) (w : Dword)
  /-- PADD (R247): The PADD instruction adds an immediate to a parameter register. -/
  | padd (c : CoreId) (w : Dword)
  /-- LOOP (R247): The LOOP instruction decrements a register and branches. -/
  | loop (c : CoreId) (w : Dword)
  /-- BR (R247): The BR instruction branches on a register condition. -/
  | br (c : CoreId) (w : Dword)
  /-- TOKEN_TIMEOUT (R250): An engine's token wait exceeds CORE_PG_WDOG, and every engine of the core stops. -/
  | tokenTimeout (c : CoreId)
  /-- SHADOW_LOAD_COMPLETE (R105): The elements, scales and indices of the next stationary tile are all in the shadow set. -/
  | shadowLoadComplete (c : CoreId) (t : StatTile)
  /-- TILE_SWAP (R105): In the first cycle where load, rows and grant allow, all four arrays swap stationary tiles at a tile boundary. -/
  | tileSwap (c : CoreId) (due : SwapIn) (cycles : Nat)
  /-- ROW_LATCH (R108): An array latches a streaming row, and its contributions land in the ledgers six cycles later. -/
  | rowLatch (c : CoreId) (arr : Fin 4) (x : StreamRow)
  /-- TILE_CHECK (R323): In the cycle after a tile's last contribution lands, the checks compare exact sums and the tile commits or is retaken. -/
  | tileCheck (c : CoreId) (agree : Bool)
  /-- MIRROR_VOTE (R327): Partner cores exchange CRCs of their pending sums and commit, retake or vote. -/
  | mirrorVote (c : CoreId) (mine theirs : Dword) (third : Option (CoreId × Dword))
  /-- LEDGER_DRAIN (R110): A finished ledger set or WIDE group drains through the epilogue. -/
  | ledgerDrain (c : CoreId) (agree : Bool)
  /-- ARRIVING_SUM_ADD (R114): An arriving LEDGER96 block or scatter-add row is added into a tile's ledgers in one ledger-add cycle. -/
  | arrivingSumAdd (c : CoreId) (row : Nat) (block : List Byte) (agree : Bool)
  /-- SHARE_PASS (R510): A committed tile passes its share of a split block to the tile that holds the block's last column, which writes the block. -/
  | sharePass (src dst : CoreId) (blk : Nat)
  /-- CUT_REQUEST (R251): Ebtor requests a cut; issue stops and each engine runs on to its next cut point. -/
  | cutRequest (c : CoreId) (why : Fin 3)
  /-- CUT_COMPLETE (R253): Every engine has stopped and the core saves its context. -/
  | cutComplete (c : CoreId)
  /-- RESUME (R254): The context is loaded and the cursor records are re-issued in SEQ order. -/
  | resume (c : CoreId) (ctx : Nat)
  /-- HANDOVER (R341): At a tile boundary a due or laggard core's work moves to a free stand-in and the core runs the blotter. -/
  | handover (c : CoreId)
  /-- DAILIES_DUE (R341): A core falls due for the blotter after PERIOD hours. -/
  | dailiesDue (c : CoreId)
  /-- TEST_DEFER_MAX (R342): A deferred test passes TEST_DEFER_MAX and Ebtor preempts the core to test it. -/
  | testDeferMax (c : CoreId)
  /-- BLOTTER_RESULT (R341): A blotter run ends, and the core becomes a free stand-in or is fenced. -/
  | blotterResult (c : CoreId) (pass : Bool)
  /-- CANARY_TRIP (R344): A canary's slack falls below 0 and the die clock drops by 25 MHz. -/
  | canaryTrip (d : Fin 16)
  /-- MARGIN_REPLAN (R345): Every 30 days Ebtor raises the voltage offset or lowers FMAX of each die; `slack` is the smallest of the period in ps, `after` that at the offset `vofs` Ebtor ends at. -/
  | marginReplan (d : Fin 16) (slack : Int) (vofs : BitVec 4) (after : Int)
  /-- HUB_READ (R314): A hub serves a read, checking ECC and the slate, and answers by class. -/
  | hubRead (h : Fin 8) (addr len : Nat) (kind : ReadKind) (by_ : Asker) (ecc : SectorErr) (xfer : Nat)
  /-- HUB_WRITE (R312): A hub places a whole-block or partial write with a new slate. -/
  | hubWrite (h : Fin 8) (addr : Nat) (bytes : List Byte) (kind fmt : BitVec 4) (tidf : Word) (by_ : Asker) (crc : SendCrc)
  /-- SILLAGE_MERGE (R71): The hub merges a sillage record atomically. -/
  | sillageMerge (addr : BitVec 40) (rec : List Byte)
  /-- ROUTING_RECORD_MERGE (R144): The hub merges a routing record atomically. -/
  | routingRecordMerge (addr : BitVec 40) (rec : List Byte)
  /-- PATROL_SCRUB (R303): Patrol scrub reads a sector as class 3 and handles its errors. -/
  | patrolScrub (h : Fin 8) (blk : Nat) (ecc : SectorErr) (last : Bool)
  /-- REFRESH (R304): A bank is refreshed per-bank on the HBM4 schedule, or postponed. -/
  | refresh (h : Fin 8) (postponed : Bool) (hot : Bool)
  /-- SPPR (R305): The SPPR repair command soft-remaps a row. -/
  | sppr (h : Fin 8)
  /-- HPPR (R305): The HPPR repair command remaps a row permanently. -/
  | hppr (h : Fin 8)
  /-- SPPR_UNDO (R305): The SPPR_UNDO repair command removes a soft repair. -/
  | spprUndo (h : Fin 8)
  /-- MAP (R305): The MAP repair command writes the spare-row map to the buffer. -/
  | map (h : Fin 8)
  /-- REPAIR_DONE (R305): A repair command ends, RESULT is set and BUSY clears. -/
  | repairDone (h : Fin 8) (geometryOk spare ok : Bool) (map : List Byte)
  /-- FLIT_RECEIVE (R353): A flit arrives, is checked by FEC and CRC, and is accepted or discarded with a NAK. -/
  | flitReceive (p : Fin 20) (bytes : List Byte) (fecBytes : Nat) (fecOk : Bool)
  /-- NAK (R356): A received NAK makes the sender go back and resend from the expected FSEQ. -/
  | nak (p : Fin 20) (fseq : BitVec 11)
  /-- CTRL_SEND (R354): A port sends a CTRL flit when idle and at least every 64 flits. -/
  | ctrlSend (p : Fin 20)
  /-- PORT_RX_TIMEOUT (R357): A port that receives no valid flit for 10 µs goes DOWN. -/
  | portRxTimeout (p : Fin 20)
  /-- WIDTH_CHANGE_TIMEOUT (R357): A width change not ended within 20 µs takes the port DOWN. -/
  | widthChangeTimeout (p : Fin 20)
  /-- PORT_RETRAIN (R357): A DOWN port retrains itself every 100 ms. -/
  | portRetrain (p : Fin 20)
  /-- PORT_TRAINED (R350): A port finishes training and records its peer's device ID and port. -/
  | portTrained (p : Fin 20) (peer : Half) (peerPort : BitVec 5) (lanes : BitVec 4)
  /-- LANE_DROP (R358): A lane losing lock or over its error limit is dropped and the port narrows. -/
  | laneDrop (p : Fin 20) (lane : Fin 4)
  /-- WIDTH (R358): A WIDTH CTRL flit proposes a new lane mask and is answered with WIDTH_ACK. -/
  | width (p : Fin 20) (mask : BitVec 4)
  /-- WIDTH_ACK (R358): A WIDTH_ACK ends the width change and the port resends from its retry buffer. -/
  | widthAck (p : Fin 20)
  /-- LANE_RETRAIN (R358): Ebtor retrains a dropped lane in the background once per second. -/
  | laneRetrain (p : Fin 20) (lane : Fin 4)
  /-- LANE_RESTORE (R358): A lane clean for 10 s is restored and the port widens. -/
  | laneRestore (p : Fin 20) (lane : Fin 4)
  /-- LINK_LAGGARD (R359): A port's width or retry rate makes it a link laggard and its routes switch to alternates. -/
  | linkLaggard (p : Fin 20) (retried sent : Nat)
  /-- ROUTE_RESTORE (R359): A route returns to its primary after 10 s of a healthy primary. -/
  | routeRestore (i : Fin 64)
  /-- PACKET_FORWARD (R368): A link die forwards a packet cut-through and sets HOP, or drops a second forward. -/
  | packetForward (inPort : Fin 20) (p : Packet)
  /-- OPEN (R384): An OPEN packet opens a collective at a member, which answers with OPEN_ACK. -/
  | openPkt (p : Packet)
  /-- OPEN_ACK (R384): An OPEN_ACK grants chunk credits to the sender. -/
  | openAck (p : Packet)
  /-- CONFIRM (R384): A CONFIRM packet passes the confirm back along the chain. -/
  | confirm (p : Packet)
  /-- EXP (R95): An EXP packet carries the largest P per block along the exponent pass. -/
  | exp (p : Packet)
  /-- SUM (R385): A SUM block is combined with the member's own block and passed on. -/
  | sum (p : Packet)
  /-- DATA (R385): A DATA block is slate-checked, staged and forwarded to the successor. -/
  | data (p : Packet)
  /-- BACK (R385): A BACK packet acknowledges one transport block. -/
  | back (p : Packet)
  /-- ABORT (R391): An ABORT packet ends a collective at a member, which forwards it once. -/
  | abort (p : Packet)
  /-- MAILBOX (R370): A MAILBOX packet is a peer mailbox write, answered with REJECT if refused. -/
  | mailbox (p : Packet)
  /-- DOORBELL_PACKET (R370): A DOORBELL packet rings a peer-owned reel's doorbell. -/
  | doorbellPacket (viaBurou : Bool) (p : Packet)
  /-- REJECT (R370): A REJECT packet reports a refused mailbox write to the sender's Ebtor. -/
  | reject (p : Packet)
  /-- MGMT (R365): A MGMT packet carries an Ebtor-to-Ebtor message. -/
  | mgmt (p : Packet)
  /-- CHUNK_COMMIT (R387): Once a chunk's data and the confirm have arrived, the member writes the chunk's output to DST. -/
  | chunkCommit (cast : Fin 4096) (chunk : Nat)
  /-- BLOCK_ACK_TIMEOUT (R392): A block still unacknowledged after 1 ms and three resends makes its member unreachable. -/
  | blockAckTimeout (cast : Fin 4096) (blk : Nat) (dst : Nat)
  /-- COLLECTIVE_TIMEOUT (R393): A member open for TIMEOUT without its confirm aborts the collective. -/
  | collectiveTimeout (cast : Fin 4096)
  /-- ETHERNET_FRAME (R372): An Ethernet frame is checked by MACsec and dropped if unprotected. -/
  | ethernetFrame (e : Fin 4) (macsec : Bool) (bytes : List Byte)
  /-- ROCE_SEND (R373): A RoCEv2 SEND carrying a Burou packet is passed on as if it had arrived on a Burou port. -/
  | roceSend (e : Fin 4) (src : Half) (psn : Nat) (p : Packet)
  /-- QP_RETRY_EXHAUSTED (R373): A queue pair exhausts its retries and its packets fail. -/
  | qpRetryExhausted (peer : Half)
  /-- ARP (R371): The device answers an ARP request on its own address. -/
  | arp (e : Fin 4) (mac : List Byte) (ip : List Byte) (target : List Byte)
  /-- NEIGHBOUR_DISCOVERY (R371): The device answers an IPv6 neighbour discovery message on its own address. -/
  | neighbourDiscovery (e : Fin 4) (mac : List Byte) (ip : List Byte) (target : List Byte)
  /-- ICMP_ECHO (R371): The device answers an ICMP echo request on its own address. -/
  | icmpEcho (e : Fin 4) (ip target : List Byte) (data : List Byte)
  /-- EAPOL (R372): An EAPOL MKA frame runs MACsec key agreement. -/
  | eapol (e : Fin 4) (ckn : List Byte) (ok : Bool)
  /-- SYNC (R400): A SYNC CTRL flit updates the member's offset and delay from its parent. -/
  | sync (p : Fin 20) (tTx tRxLast tTxLast : Dword) (locked : Bool) (depth : BitVec 3) (t4 : Dword)
  /-- SYNC_SEND (R400): An UP port sends a SYNC flit at least every 10 µs. -/
  | syncSend (p : Fin 20)
  /-- PTP_MESSAGE (R402): A PTP message disciplines a MASTER_PTP device's clapper count. -/
  | ptpMessage (dom : Byte) (src : Dword) (offset : Int)
  /-- SYNC_1PPS (R402): A 1PPS rising edge aligns a MASTER_PPS device's fraction of a second. -/
  | sync1pps
  /-- SYNC_10M_LOSS (R499): Loss of SYNC_10M moves the clapper PLL to the 25 MHz reference. -/
  | sync10mLoss
  /-- HOLDOVER (R403): With no valid sync for 100 µs or 3 s the clapper enters HOLDOVER. -/
  | holdover
  /-- UNLOCKED (R403): After 1 s of HOLDOVER the clapper becomes UNLOCKED. -/
  | unlocked
  /-- EN (R414): Writing EN in DIE_CUE_CFG reserves or returns the die's cue core. -/
  | en (d : Fin 16) (v : Dword)
  /-- ARM (R415): Writing ARM loads the cue descriptor and matrix into the cue core. -/
  | arm (d : Fin 16) (v : Dword)
  /-- ARM_COMPLETE (R415): The cue load ends and sets ARMED or ARMERR. -/
  | armComplete (d : Fin 16)
  /-- DIE_CUE_DB (R417): A cue doorbell starts a fixed-latency cue product, or is rejected. -/
  | dieCueDb (d : Fin 16) (v : Dword)
  /-- CUE_PRODUCT_COMPLETE (R418): At cycle 410 DIE_CUE_MB is written with SEQ and flags and FULL is set. -/
  | cueProductComplete (d : Fin 16) (mism : Bool)
  /-- DIE_CUE_MB_READ (R416): A read of DIE_CUE_MB returns its word and clears it. -/
  | dieCueMbRead (d : Fin 16)
  /-- DIE_CUE_X_WRITE (R416): A write to DIE_CUE_X sets vector bytes, or is ignored while locked; `cycle` is the cycle of a product in progress. -/
  | dieCueXWrite (d : Fin 16) (off : Fin 256) (size : Nat) (v : Dword) (cycle : Nat)
  /-- GET_VERSION (R437): The SPDM GET_VERSION request is answered. -/
  | getVersion (ch : Fin 3)
  /-- GET_CAPABILITIES (R437): The SPDM GET_CAPABILITIES request is answered. -/
  | getCapabilities (ch : Fin 3)
  /-- NEGOTIATE_ALGORITHMS (R437): The SPDM NEGOTIATE_ALGORITHMS request is answered. -/
  | negotiateAlgorithms (ch : Fin 3)
  /-- GET_DIGESTS (R437): The SPDM GET_DIGESTS request is answered. -/
  | getDigests (ch : Fin 3)
  /-- GET_CERTIFICATE (R436): The SPDM GET_CERTIFICATE request returns slot 0's chain. -/
  | getCertificate (ch : Fin 3) (slot : Fin 8) (off len : Nat)
  /-- CHALLENGE (R437): The SPDM CHALLENGE request is answered with an Alias-key signature. -/
  | challenge (ch : Fin 3) (nonce : List Byte)
  /-- GET_MEASUREMENTS (R438): The SPDM GET_MEASUREMENTS request returns the measurement blocks. -/
  | getMeasurements (ch : Fin 3) (index : Nat) (nonce : List Byte)
  /-- KEY_EXCHANGE (R437): The SPDM KEY_EXCHANGE request opens a secured session. -/
  | keyExchange (ch : Fin 3) (exch : List Byte)
  /-- FINISH (R437): The SPDM FINISH request completes session establishment. -/
  | finish (session : Nat) (ok : Bool) (chain : Option (List Byte)) (operator : Option (BitVec 384))
  /-- HEARTBEAT (R437): The SPDM HEARTBEAT request keeps a session alive. -/
  | heartbeat (session : Nat)
  /-- KEY_UPDATE (R437): The SPDM KEY_UPDATE request updates session keys. -/
  | keyUpdate (session : Nat)
  /-- END_SESSION (R433): The SPDM END_SESSION request ends a session and erases its sealed keys. -/
  | endSession (session : Nat)
  /-- SESSION_HEARTBEAT_LOSS (R433): A session ends on heartbeat loss and its sealed keys are erased. -/
  | sessionHeartbeatLoss (session : Nat)
  /-- UNSUPPORTED_REQUEST (R437): Any other SPDM request is answered with ERROR UnsupportedRequest. -/
  | unsupportedRequest (ch : Fin 3) (code : Byte)
  /-- TENANT_OPEN (R439): The TENANT_OPEN secured command opens a tenant slot with its key. -/
  | tenantOpen (session : Nat) (slot : BitVec 6) (key : BitVec 512) (flags : Byte)
  /-- TENANT_CLOSE (R429): The TENANT_CLOSE secured command closes a tenant and erases its key. -/
  | tenantClose (session : Nat) (slot : BitVec 6)
  /-- REGION_CLAIM (R425): The REGION_CLAIM secured command claims a region and reinitialises its slates. -/
  | regionClaim (session : Nat) (entry : Byte) (g : Sys2Proof.RegionReq)
  /-- REGION_RELEASE (R425): The REGION_RELEASE secured command releases a region. -/
  | regionRelease (session : Nat) (entry : Byte)
  /-- REEL_BIND (R427): The REEL_BIND secured command binds a disabled reel to a tenant. -/
  | reelBind (session : Nat) (reel : Fin 1024) (tenant : BitVec 6)
  /-- SEAL_INSTALL (R433): The SEAL_INSTALL secured command installs a sealed weight key in every hub. -/
  | sealInstall (session : Nat) (slot : Fin 32) (key : BitVec 512)
  /-- SEAL_REMOVE (R433): The SEAL_REMOVE secured command erases a sealed key. -/
  | sealRemove (session : Nat) (slot : Fin 32)
  /-- CAK_INSTALL (R439): The CAK_INSTALL secured command installs a MACsec CAK. -/
  | cakInstall (session : Nat) (mask : BitVec 4) (ckn : List Byte) (cak : BitVec 256)
  /-- OPERATOR_ROOT (R439): The OPERATOR_ROOT secured command sets the operator root. -/
  | operatorRoot (session : Nat) (root : BitVec 384)
  /-- SEC_STATUS (R441): The SEC_STATUS mailbox command returns SEC_STATE. -/
  | secStatus (m : Fin 16) (body : BitVec 40) (tag : Word)
  /-- BIND_LOAD (R434): The BIND_LOAD mailbox command unwraps a bound-key bundle into a slot. -/
  | bindLoad (m : Fin 16) (body : BitVec 40) (tag : Word)
  /-- BIND_DROP (R440): The BIND_DROP mailbox command drops a bound key slot. -/
  | bindDrop (m : Fin 16) (body : BitVec 40) (tag : Word)
  /-- IDE_KM (R430): An IDE_KM message inside a secured session manages IDE stream keys. -/
  | ideKm (session : Nat) (stream : Fin 5) (key : Option (BitVec 256))
  /-- IDE_INTEGRITY_FAILURE (R489): An IDE TLP failing its integrity check is dropped and its stream goes Insecure. -/
  | ideIntegrityFailure (port : Fin 2) (stream : Fin 5)
  /-- MCTP_MESSAGE (R492): An MCTP message on the management I3C bus carries SPDM. -/
  | mctpMessage (bytes : List Byte)
  /-- ENTROPY_REQUEST (R225): An entropy request is served from the pool or returns ENTROPY_NOT_READY. -/
  | entropyRequest (bits : Nat)
  /-- ENTROPY_READY (R225): The start-up health tests pass and the pool holds 512 bits. -/
  | entropyReady (cd : Fin 2)
  /-- HEALTH_TEST_FAILURE (R226): A continuous health test fails, discarding the pool and restarting or failing the source. -/
  | healthTestFailure (cd : Fin 2)
  /-- TAKEOVER (R38): The standby takes over after 1 ms without a heartbeat from the active die. -/
  | takeover
  /-- GRANT_ISSUE (R451): The device governor issues a waiting batch its grant when the budget and ramp allow. -/
  | grantIssue
  /-- BATCH_COMPLETE (R450): A batch completes and its grant ends. -/
  | batchComplete (d : Fin 16) (r : ShotRef) (overran : Bool)
  /-- POWER_SAMPLE (R455): The 10 µs draw average is taken and ballast and ramp limits are applied. -/
  | powerSample (watts : Nat) (elapsedUs : Nat)
  /-- FORECAST (R457): A forecast record is sent to the power shelf over the plant bus. -/
  | forecast (watts : Nat) (lead : Nat) (acked : Bool)
  /-- THROTTLE_ASSERT (R458): Assertion of THROTTLE# lowers the budget to THR and clocks within 100 µs. -/
  | throttleAssert
  /-- THROTTLE_RELEASE (R458): Release of THROTTLE# restores CAP under the rising limit. -/
  | throttleRelease
  /-- PLANT_SENSOR_READ (R459): Every 10 ms the plant sensors are read and the valve duty is set. -/
  | plantSensorRead (tin tout flow : Option Half) (duty : Nat)
  /-- DIE_OVERDRAW (R461): A die drawing 5 % over its grants for 10 µs has its clock lowered. -/
  | dieOverdraw (d : Fin 16)
  /-- DIE_HOT (R461): A die at 100 °C has its clock lowered by 100 MHz every 1 ms. -/
  | dieHot (d : Fin 16)
  /-- THERMAL_TRIP (R461): A die at 110 °C or an over-limit inlet stops every core and holds the reels. -/
  | thermalTrip
  /-- PLANT_FAULT (R461): Low flow, a silent sensor or a model difference drops the budget to THR and opens the valve. -/
  | plantFault (row : Fin 3)
  /-- POWER_FAULT (R461): A core rail out of range stops the affected dies. -/
  | powerFault (dies : Half)
  /-- EXCURSION_CLEAR (R461): An excursion's clearing condition is met and EXCUR clears. -/
  | excursionClear (row : Fin 8) (die : Nat)
  /-- CATTRIP (R498): An analog sensor at 125 °C asserts CATTRIP# and stops all clocks. -/
  | catTrip
  /-- COLD_RESET (R467): COLDRST# release or VAUX loss starts a cold boot. -/
  | coldReset (vauxLost : Bool)
  /-- BOOT_STAGE (R467): A cold-boot stage ends and STAGE advances, or a boot error stops the boot. -/
  | bootStage (err : BitVec 4) (cd0 cd1 : Bool) (badDies : Half) (badCores : List CoreId)
  /-- WARM_RESET (R480): PERST# of port 0 resets the device except Ebtor and the kept state. -/
  | warmReset
  /-- FUNCTION_RESET (R479): An FLR, or PERST# of port 1, resets one port's function. -/
  | functionReset (port : Fin 2) (perst : Bool)
  /-- RST_OP_COLD (R481): OP COLD with KEY 0xC5 requests a cold reset. -/
  | rstOpCold (v : Word)
  /-- RST_OP_DIE (R480): OP DIE resets one compute die. -/
  | rstOpDie (v : Word)
  /-- RST_OP_HUB (R308): OP HUB with FORCE 0 performs an orderly hub reset. -/
  | rstOpHub (v : Word)
  /-- RST_OP_HUB_FORCED (R308): OP HUB with FORCE 1 resets a hub and loses its dirty vault lines. -/
  | rstOpHubForced (v : Word)
  /-- RST_OP_CORE (R480): OP CORE resets one physical core. -/
  | rstOpCore (v : Word)
  /-- RESET_COMPLETE (R480): A partial reset ends with its self-tests and blotter runs, and BUSY clears. -/
  | resetComplete (failed : List CoreId)
  /-- FWU_STAGE (R475): OP STAGE verifies an image and writes it to the idle bank as NEW. -/
  | fwuStage (img : ImageInfo)
  /-- FWU_ACTIVATE (R476): OP ACTIVATE quiesces dispatch and opens the activation window. -/
  | fwuActivate
  /-- FWU_CONFIRM (R478): OP CONFIRM marks the running TRIAL image CONFIRMED and may raise the SVN. -/
  | fwuConfirm
  /-- FWU_REVERT (R475): OP REVERT makes the other CONFIRMED bank pending. -/
  | fwuRevert
  /-- FWU_CANCEL (R475): OP CANCEL invalidates the staged image. -/
  | fwuCancel
  /-- FWU_OP_COMPLETE (R475): A firmware-update OP ends, setting ERR and clearing BUSY. -/
  | fwuOpComplete (flashOk : Bool)
  /-- QUIESCE (R476): Dispatched shots not all complete within 10 s fail ACTIVATE with QUIESCE. -/
  | quiesce
  /-- ACTIVATION_SWITCH (R476): At 25 ms the former standby becomes active on the new image and the key is rewritten. -/
  | activationSwitch
  /-- ACT_FAIL (R477): A new runtime not active by 30 ms fails activation and keeps the old image. -/
  | actFail
  /-- ACTIVATION_WINDOW_CLOSE (R442): At 50 ms the window closes, sessions end, keys are revoked or reloaded and ACTIVATED is posted. -/
  | activationWindowClose
  /-- SYNC_10M_PRESENT (R499): SYNC_10M becomes present once its frequency has been within ±1,000 ppm of 10 MHz for 10 ms, and the clapper PLL locks to it again. -/
  | sync10mPresent
  /-- STANDBY_ADMISSION (R412): A control die that has restarted is admitted as standby, or refused when its image would yield a different continuity key. -/
  | standbyAdmission (cd : Fin 2) (key : Dword)
  /-- PERST_RELEASE (R504): Release of PERST0# or PERST1# lets the port train and ends the warm or function reset it held. -/
  | perstRelease (port : Fin 2)
  /-- VAUX_IN_RANGE (R497): VAUX comes into range, and VALVE_PWM is driven high until Ebtor first sets a duty cycle. -/
  | vauxInRange
  /-- MSI_X_UNMASK (R491): Unmasking an MSI-X vector whose pending bit is set fires the vector. -/
  | msiXUnmask (port : Fin 2) (vector : Fin 64)
  /-- NVME_COMPLETION (R212): An NVMe command completion from the target arrives and advances the checkpoint or restore, or ends it with CKPT_TARGET. -/
  | nvmeCompletion (ok : Bool) (data : NvmeRsp)
  /-- POOL_REFILL (R225): The conditioned pool refills, and an entropy request that was waiting on it while READY is served. -/
  | poolRefill (cd : Fin 2) (bits : Nat)
  /-- LINK_LAGGARD_CLEAR (R359): A port's retried flits over the last second fall back within 2^-RETRYEXP, and it stops being a link laggard. -/
  | linkLaggardClear (p : Fin 20) (retried sent : Nat)
  /-- STAGEHAND_FAULT (R182): An ECC error, watchdog expiry or descriptor check in a stagehand core fences its core with FCAUSE 0x5. -/
  | stagehandFault (c : CoreId)
  /-- JTAG_INSTRUCTION (R493): An IEEE 1149.1 instruction or IEEE 1687 access through the JTAG port takes effect, such as EXTEST driving the signal balls. -/
  | jtagInstruction (ir : Fin 5) (data : Dword) (balls : List (Nat × Bool))
  /-- PRIORITY_FLOW_CONTROL (R371): An IEEE 802.1Qbb priority flow control frame received on an Ethernet port pauses or resumes sending on its priority. -/
  | priorityFlowControl (e : Fin 4) (prio : Fin 8) (quanta : Half)
deriving DecidableEq, Repr

end Sys2Proof
end

