-- ==== Sys2Proof/Config.lean ====
section
/-!
DEFINITION. What one implementation fixes and what the spec leaves open. Every `opaque` constant is a FREE VALUE: it
has no body, so nothing can be proved about it and every claim holds for each of its values.
-/
namespace Sys2Proof.Config

/-- Functions of Table 6-9 that R177 gives only to within 1 or 2 ulp, and the two derivatives of Table 6-6, given to within nothing. -/
inductive Fn where
  | recip | rsqrt | exp2 | log2 | exp | log | tanh | sigmoid | erf | geluErf | geluTanh | silu
  | geluErfDeriv | siluDeriv
deriving DecidableEq, Repr

/-- FREE (assumption 3): the choice a Table 6-9 function makes among the binary32 results its bound allows on an operand, and its result
where the spec bounds none. One fixed function of the operand for all parts with one continuity key (R177). -/
opaque fn : Fn → Word → Word

/-- FREE (assumption 4): a fresh 64-bit value the spec leaves open, by the counter `State.fresh`. -/
opaque free : Nat → Dword

/-- FREE (assumption 5): the vault set (of 1,024) that a block of a hub maps to; R299 gives no set function. -/
opaque vaultSet : Nat → Nat

/-- FREE (assumption 6): Zaluc's power model (R449): energy of a batch in µJ, by opcode, body, compute die, clock step and the
rows it streams (R137). -/
opaque batchEnergy : BitVec 12 → List Byte → Nat → Nat → Nat → Nat

/-- FREE (assumption 6): Zaluc's power model (R449): watts of a batch, by opcode, body, compute die, clock step and the rows it
streams (R137). -/
opaque batchWatts : BitVec 12 → List Byte → Nat → Nat → Nat → Nat

/-- FREE (assumption 25): the row count of a gathered source (R145) or of a scatter-add's destination (R146), by the
tensor's address. The descriptor has no field for it. -/
opaque rowCount : Nat → Nat

/-- FREE (assumption 26): where a conversion places a tensor whose address no descriptor field gives: pruning indices
(kind 0, R132) and the scales of a base-note companion (kind 1, R192), by the address of the elements, in 4 KiB blocks;
where a restore places the captured table of a job that has none bound (kind 2, R213), by JOBID; and where Ebtor keeps a
context (kind 3, R253), by its number. All lie in the first 128 GiB, which are mapped whatever P is. -/
opaque placeBlock : Nat → Nat → Nat

/-- FREE (assumption 27): ROTSEED and ROTSTRM of a CONVERT whose source names a rotation with a literal TFD. -/
opaque convertRotSeed : Dword
opaque convertRotStrm : Dword

/-- FREE (assumption 41): SEED and STREAM of stochastic rounding in the conversion of a reduced element; the body of Table 13-17
has no field for them. -/
opaque castSeed : Dword
opaque castStrm : Dword

/-- FREE (assumption 7): SHA-384, the published standard named by R434 to R438, kept uninterpreted. -/
opaque sha384 : List Byte → BitVec 384

/-- FREE (assumption 7): HMAC-SHA-384 (Table 15-2), kept uninterpreted: key, message. -/
opaque hmac384 : BitVec 384 → List Byte → BitVec 384

/-- FREE (assumption 7): AES-256-XTS encryption of one data unit (R424): key, tweak, plaintext. -/
opaque xtsEncrypt : BitVec 512 → Nat → List Byte → List Byte

/-- FREE (assumption 7): AES-256-XTS decryption of one data unit (R431): key, tweak, ciphertext. -/
opaque xtsDecrypt : BitVec 512 → Nat → List Byte → List Byte

/-- FREE (assumption 7): the key that ECDH, HKDF and AES-256-GCM decrypt from a bound-key entry (R434), by the bundle header,
DEVFP, EPK, IV and CT. -/
opaque bundleKey : List Byte → List Byte → List Byte → List Byte → List Byte → BitVec 512

/-- FREE (assumption 7): the GCM tag that belongs to those (R434), of which 16 bytes count. -/
opaque bundleTag : List Byte → List Byte → List Byte → List Byte → List Byte → List Byte

/-- FREE (assumption 7): the device's fused public DeviceKX fingerprint (R434, DEVFP). -/
opaque devfp : List Byte

/-- FREE (assumption 7): an ECDSA P-384 signature under the Alias key (Table 15-2) over a message. -/
opaque aliasSign : List Byte → List Byte

/-- FREE (assumption 7): an AES-XTS key drawn from the entropy source (R423), by the counter `State.fresh`. -/
opaque freeKey : Nat → BitVec 512

/-- FREE (assumption 8): the fused STEPPING code of the part (Table 0-4, "fuse"). -/
opaque fuseStepping : BitVec 8

/-- FREE (assumption 8): the fused FMAX of a compute die in units of 25 MHz (Table 12-13, "fuse"). -/
opaque fuseFmax : Nat → BitVec 8

/-- FREE (assumption 8): the fused lifecycle code (Table 15-8, "fuse"). -/
opaque fuseLifecycle : BitVec 2

/-- FREE (assumption 8): the Unique Device Secret (R435). -/
opaque uds : BitVec 256

/-- FREE (assumption 8): the SHA-384 of the control-die ROM (Table 15-3, block 1). -/
opaque romDigest : BitVec 384

/-- FREE (assumption 8): the fused debug lock (Table 15-3, block 6). -/
opaque fuseDebugLock : BitVec 8

/-- FREE (assumption 8): the fused minimum security version (R472, R478). -/
opaque fuseMinSvn : BitVec 8

/-- FREE (assumption 9): Zaluc's PCI-SIG vendor ID (R486). -/
opaque pciVendor : BitVec 16

/-- FREE (assumption 9): the reading of an on-die instrument that R493 leaves open outside production, by its number. -/
opaque instrument : Nat → Dword

/-- FREE (assumption 9): the instruments that are the temperature and voltage monitors of R493, by number. -/
opaque isMonitor : Nat → Bool

/-- FREE (assumption 7): the first byte of the certificate chain of SPDM slot 0 (R436). -/
opaque certFirst : Byte

/-- FREE (assumption 7): its other bytes. -/
opaque certRest : List Byte

/-- The certificate chain of SPDM slot 0 (R436), which is not empty. -/
def certChain : List Byte := certFirst :: certRest

end Sys2Proof.Config
end

