-- ==== Sys2Proof/Machine/Bits.lean ====
section
/-!
DEFINITION. Bit fields, byte order (R6), saturating counters and the cyclic redundancy checks of R310, R353 and R457.
-/
namespace Sys2Proof

/-- Bits [lo + w − 1 : lo] of a number. -/
def fld (x lo w : Nat) : Nat := (x >>> lo) % 2 ^ w

/-- Bit `i` of a number. -/
def bit (x i : Nat) : Bool := x.testBit i

/-- A flag as a number. -/
def b2n (b : Bool) : Nat := if b then 1 else 0

/-- A little-endian number (R6): byte 0 holds bits [7:0]. -/
def leNat : List Byte → Nat
  | [] => 0
  | b :: bs => b.toNat + 256 * leNat bs

/-- The `n` little-endian bytes of a number (R6). -/
def leBytes : Nat → Nat → List Byte
  | 0, _ => []
  | n + 1, v => BitVec.ofNat 8 v :: leBytes n (v / 256)

/-- Bytes [a, a + n) of a list; a byte past its end is 0. -/
def bytesAt (l : List Byte) (a n : Nat) : List Byte :=
  let s := (l.drop a).take n
  s ++ List.replicate (n - s.length) 0

/-- The little-endian field of `n` bytes at byte `a` of a record (R6). -/
def leAt (l : List Byte) (a n : Nat) : Nat := leNat (bytesAt l a n)

/-- A record with the bytes at `a` replaced. -/
def putAt (l : List Byte) (a : Nat) (bs : List Byte) : List Byte :=
  l.take a ++ (bs ++ l.drop (a + bs.length))

/-- `n` zero bytes. -/
def zeros (n : Nat) : List Byte := List.replicate n 0

/-- Two's complement of width `w` read as an integer. -/
def toSigned (w x : Nat) : Int := if x % 2 ^ w < 2 ^ (w - 1) then (x % 2 ^ w : Nat) else ((x % 2 ^ w : Nat) : Int) - 2 ^ w

/-- An integer as a two's complement code of width `w`. -/
def ofSigned (w : Nat) (x : Int) : Nat := (x % (2 ^ w : Nat)).toNat

/-- A counter that saturates at all ones (R125, R153, R183, R260, R307, R349, R363). -/
def satAdd {w : Nat} (x : BitVec w) (n : Nat) : BitVec w :=
  if x.toNat + n < 2 ^ w then BitVec.ofNat w (x.toNat + n) else BitVec.allOnes w

/-- One more on a saturating counter. -/
def satInc {w : Nat} (x : BitVec w) : BitVec w := satAdd x 1

/-- ceil(a / b). -/
def ceilDiv (a b : Nat) : Nat := (a + b - 1) / b

/-- ceil(log2 n), 0 for n ≤ 1. -/
def ceilLog2 (n : Nat) : Nat := if n ≤ 1 then 0 else (n - 1).log2 + 1

/-- One bit of a most-significant-first CRC of width `w`. -/
def crcBit (w poly c : Nat) : Nat :=
  if c < 2 ^ (w - 1) then 2 * c else (2 * c) % 2 ^ w ^^^ poly

/-- Eight bits of a most-significant-first CRC. -/
def crcByte (w poly c : Nat) (b : Byte) : Nat :=
  let c := c ^^^ (b.toNat <<< (w - 8))
  if c = 0 then 0
  else crcBit w poly (crcBit w poly (crcBit w poly (crcBit w poly (crcBit w poly (crcBit w poly (crcBit w poly (crcBit w poly c)))))))

/-- CRC-64/ECMA-182 (R310). -/
def crc64 (bs : List Byte) : Dword :=
  BitVec.ofNat 64 (bs.foldl (crcByte 64 0x42F0E1EBA9EA3693) 0)

/-- One bit of the reflected CRC-32C. -/
def crc32cBit (c : Nat) : Nat := if c % 2 = 0 then c / 2 else c / 2 ^^^ 0x82F63B78

/-- One byte of the reflected CRC-32C. -/
def crc32cByte (c : Nat) (b : Byte) : Nat :=
  let c := c ^^^ b.toNat
  crc32cBit (crc32cBit (crc32cBit (crc32cBit (crc32cBit (crc32cBit (crc32cBit (crc32cBit c)))))))

/-- CRC-32C with polynomial 0x1EDC_6F41 (R353, R381), in the form of the published standard (assumption 2). -/
def crc32c (bs : List Byte) : Word :=
  BitVec.ofNat 32 (bs.foldl crc32cByte 0xFFFFFFFF ^^^ 0xFFFFFFFF)

/-- CRC-8 with polynomial 0x07 (R457), initial value 0. -/
def crc8 (bs : List Byte) : Byte := BitVec.ofNat 8 (bs.foldl (crcByte 8 0x07) 0)

end Sys2Proof
end

