-- ==== Sys2Proof/Machine/Num.lean ====
section
/-!
DEFINITION. Exact numbers and element formats (chapter 2): decoding every element code, rounding to nearest even and
stochastically, Table 2-8, block scales, and the binary32 arithmetic that rests on them.
-/
namespace Sys2Proof

/-- An exact value: `n / d` with d > 0 (a zero is +0), a −0, an infinity or a NaN. -/
inductive Num where
  | fin (n : Int) (d : Nat)
  | negZero
  | inf (neg : Bool)
  | nan
deriving DecidableEq, Repr

/-- 2^e as a numerator and a denominator. -/
def pow2Num (e : Int) : Nat := if 0 ≤ e then 2 ^ e.toNat else 1
def pow2Den (e : Int) : Nat := if 0 ≤ e then 1 else 2 ^ (-e).toNat

/-- n × 2^e. -/
def dyadic (n e : Int) : Num := .fin (n * pow2Num e) (pow2Den e)

/-- The format codes of Table 2-1 with element values. -/
inductive EFmt where
  | e2m1 | int4 | e4m3 | e5m2 | int8 | bf16 | f16 | f32
deriving DecidableEq, Repr

/-- Table 2-1. -/
def EFmt.ofCode (c : Nat) : Option EFmt :=
  match c with
  | 0 => some .e2m1 | 1 => some .int4 | 2 => some .e4m3 | 3 => some .e5m2
  | 4 => some .int8 | 5 => some .bf16 | 6 => some .f16 | 7 => some .f32 | _ => none

def EFmt.code : EFmt → Nat
  | .e2m1 => 0 | .int4 => 1 | .e4m3 => 2 | .e5m2 => 3 | .int8 => 4 | .bf16 => 5 | .f16 => 6 | .f32 => 7

/-- Bits of one element (Table 2-3). -/
def EFmt.bits : EFmt → Nat
  | .e2m1 | .int4 => 4 | .e4m3 | .e5m2 | .int8 => 8 | .bf16 | .f16 => 16 | .f32 => 32

/-- Fraction bits of a float format (Table 2-3); 0 for the integers. -/
def EFmt.frac : EFmt → Nat
  | .e2m1 => 1 | .e4m3 => 3 | .e5m2 => 2 | .bf16 => 7 | .f16 => 10 | .f32 => 23 | .int4 | .int8 => 0

/-- Exponent of the smallest subnormal (Table 2-3); 0 for the integers. -/
def EFmt.qmin : EFmt → Int
  | .e2m1 => -1 | .e4m3 => -9 | .e5m2 => -16 | .bf16 => -133 | .f16 => -24 | .f32 => -149 | .int4 | .int8 => 0

/-- Magnitude code of the largest finite value (Table 2-3, R48). -/
def EFmt.maxCode : EFmt → Nat
  | .e2m1 => 7 | .e4m3 => 0x7E | .e5m2 => 0x7B | .bf16 => 0x7F7F | .f16 => 0x7BFF | .f32 => 0x7F7FFFFF
  | .int4 => 7 | .int8 => 127

def EFmt.isInt : EFmt → Bool
  | .int4 | .int8 => true
  | _ => false

/-- Formats with infinities (Table 2-3). -/
def EFmt.hasInf : EFmt → Bool
  | .e5m2 | .bf16 | .f16 | .f32 => true
  | _ => false

/-- The canonical NaN (R66); none where the format has no NaN. -/
def EFmt.nanCode : EFmt → Option Nat
  | .e4m3 => some 0x7F | .e5m2 => some 0x7E | .bf16 => some 0x7FC0 | .f16 => some 0x7E00 | .f32 => some 0x7FC00000
  | _ => none

/-- The magnitude code of infinity. -/
def EFmt.infCode : EFmt → Nat
  | .e5m2 => 0x7C | .bf16 => 0x7F80 | .f16 => 0x7C00 | .f32 => 0x7F800000 | _ => 0

/-- The value of a finite magnitude code as significand and exponent (R45, Table 2-7). -/
def EFmt.magParts (f : EFmt) (m : Nat) : Nat × Int :=
  if f.isInt then (m, 0)
  else if m < 2 ^ f.frac then (m, f.qmin)
  else (2 ^ f.frac + m % 2 ^ f.frac, f.qmin + ((m / 2 ^ f.frac : Nat) : Int) - 1)

/-- An element code as sign and kind: significand and exponent (R59), −0, infinity or NaN. `coarse` selects the MXINT8 value
q × 2^-6 of R53. -/
inductive Elem where
  | fin (neg : Bool) (sig : Nat) (exp : Int)
  | inf (neg : Bool)
  | nan
deriving DecidableEq, Repr

def EFmt.elem (f : EFmt) (coarse : Bool) (c : Nat) : Elem :=
  match f with
  | .int4 => let v := toSigned 4 c; .fin (decide (v < 0)) v.natAbs 0
  | .int8 => let v := toSigned 8 c; .fin (decide (v < 0)) v.natAbs (if coarse then -6 else 0)
  | _ =>
    let sgn := bit c (f.bits - 1)
    let m := c % 2 ^ (f.bits - 1)
    if m ≤ f.maxCode then let p := f.magParts m; .fin sgn p.1 p.2
    else if f.hasInf && m == f.infCode then .inf sgn else .nan

/-- The exact value of an element (R45, R53). -/
def Elem.num : Elem → Num
  | .fin neg sig exp => if sig = 0 then (if neg then .negZero else .fin 0 1)
                        else dyadic (if neg then -(sig : Int) else (sig : Int)) exp
  | .inf n => .inf n
  | .nan => .nan

def EFmt.num (f : EFmt) (coarse : Bool) (c : Nat) : Num := (f.elem coarse c).num

/-- The value of a binary32 word. -/
def f32Num (w : Word) : Num := EFmt.f32.num false w.toNat

/-! ## Arithmetic on exact values -/

def Num.isNeg : Num → Bool
  | .fin n _ => decide (n < 0) | .negZero => true | .inf n => n | .nan => false

def Num.isZero : Num → Bool
  | .fin n _ => decide (n = 0) | .negZero => true | _ => false

def Num.isNan : Num → Bool
  | .nan => true | _ => false

def Num.isFin : Num → Bool
  | .fin _ _ | .negZero => true | _ => false

def Num.neg : Num → Num
  | .fin n d => if n = 0 then .negZero else .fin (-n) d
  | .negZero => .fin 0 1 | .inf b => .inf (!b) | .nan => .nan

def Num.abs : Num → Num
  | .fin n d => .fin n.natAbs d | .negZero => .fin 0 1 | .inf _ => .inf false | .nan => .nan

/-- Numerator and denominator of a finite value. -/
def Num.n : Num → Int
  | .fin n _ => n | _ => 0
def Num.d : Num → Nat
  | .fin _ d => d | _ => 1

/-- Exact sum with the zero signs of R68 (round to nearest even). -/
def Num.add (a b : Num) : Num :=
  match a, b with
  | .nan, _ => .nan
  | _, .nan => .nan
  | .inf x, .inf y => if x = y then .inf x else .nan
  | .inf x, _ => .inf x
  | _, .inf y => .inf y
  | .negZero, .negZero => .negZero
  | x, y => .fin (x.n * y.d + y.n * x.d) (x.d * y.d)

/-- Exact product with the zero signs of R68. -/
def Num.mul (a b : Num) : Num :=
  match a, b with
  | .nan, _ => .nan
  | _, .nan => .nan
  | .inf x, y => if y.isZero then .nan else .inf (x != y.isNeg)
  | x, .inf y => if x.isZero then .nan else .inf (x.isNeg != y)
  | x, y => if x.isZero || y.isZero then (if x.isNeg != y.isNeg then .negZero else .fin 0 1)
            else .fin (x.n * y.n) (x.d * y.d)

/-- Exact comparison of finite values and infinities; false on a NaN. −0 = +0. -/
def Num.lt (a b : Num) : Bool :=
  match a, b with
  | .nan, _ | _, .nan => false
  | .inf x, .inf y => x && !y
  | .inf x, _ => x
  | _, .inf y => !y
  | x, y => decide (x.n * y.d < y.n * x.d)

def Num.eq (a b : Num) : Bool :=
  match a, b with
  | .nan, _ | _, .nan => false
  | .inf x, .inf y => x == y
  | .inf _, _ | _, .inf _ => false
  | x, y => decide (x.n * y.d = y.n * x.d)

/-- Exact quotient of finite values, b ≠ 0. -/
def Num.quot (a b : Num) : Num :=
  if a.isZero then (if a.isNeg != b.isNeg then .negZero else .fin 0 1)
  else if b.n < 0 then .fin (-(a.n * b.d)) (a.d * b.n.natAbs) else .fin (a.n * b.d) (a.d * b.n.natAbs)

/-! ## Rounding -/

/-- floor(log2(n / d)) for n, d > 0. -/
def floorLog2 (n d : Nat) : Int :=
  let e : Int := (n.log2 : Int) - d.log2
  if (d * pow2Num e) ≤ n * pow2Den e then e else e - 1

/-- The quantum exponent of a magnitude n / d in a float format (0 for the integers). -/
def EFmt.quantum (f : EFmt) (n d : Nat) : Int :=
  if f.isInt || n = 0 then f.qmin else max f.qmin (floorLog2 n d - f.frac)

/-- Magnitude code of `m` quanta of exponent `q`. -/
def EFmt.codeOf (f : EFmt) (m : Nat) (q : Int) : Nat := (q - f.qmin).toNat * 2 ^ f.frac + m

/-- How a conversion rounds (R61): to nearest even, or by one 16-bit draw R. -/
inductive Rnd where
  | rne
  | sto (draw : Nat)
deriving DecidableEq, Repr

/-- The rounded magnitude code of |x| = n / d, not yet limited to the largest finite value (R61). -/
def EFmt.roundMag (f : EFmt) (r : Rnd) (neg : Bool) (n d : Nat) : Nat :=
  let q := f.quantum n d
  let nn := n * pow2Den q
  let dd := d * pow2Num q
  let lo := nn / dd
  let rem := nn % dd
  if rem = 0 then f.codeOf lo q
  else match r with
    | .rne =>
      let up := decide (dd < 2 * rem) || (decide (dd = 2 * rem) && (f.codeOf lo q) % 2 == 1)
      f.codeOf (if up then lo + 1 else lo) q
    | .sto draw =>
      if neg then
        -- the lower neighbour is the larger magnitude
        if draw < 65536 * (dd - rem) / dd then f.codeOf lo q else f.codeOf (lo + 1) q
      else if draw < 65536 * rem / dd then f.codeOf (lo + 1) q else f.codeOf lo q

/-- A magnitude code with a sign. -/
def EFmt.signed (f : EFmt) (neg : Bool) (m : Nat) : Nat :=
  if f.isInt then (if neg then (2 ^ f.bits - m) % 2 ^ f.bits else m)
  else if neg then m + 2 ^ (f.bits - 1) else m

/-- |x| = n / d exceeds the largest finite magnitude (R63). -/
def EFmt.clips (f : EFmt) (n d : Nat) : Bool :=
  let p := f.magParts f.maxCode
  decide (p.1 * pow2Num p.2 * d < n * pow2Den p.2)

/-- Whether the value takes a draw under stochastic rounding (R61, R215). -/
def EFmt.inexact (f : EFmt) (n d : Nat) : Bool :=
  let q := f.quantum n d
  decide ((n * pow2Den q) % (d * pow2Num q) ≠ 0)

/-- Conversion of an exact scaled value into an element code (R60, R61, R63, R65, R66, Table 2-8). `blk` is true for block
layouts; a NaN or an infinity never reaches a block layout (R64). -/
def EFmt.conv (f : EFmt) (blk : Bool) (r : Rnd) (x : Num) : Nat :=
  match x with
  | .nan => (f.nanCode).getD 0
  | .inf neg => if f.hasInf then f.signed neg f.infCode
                else match f.nanCode with
                  | some c => c
                  | none => f.signed neg f.maxCode
  | .negZero => f.signed true 0
  | .fin v d =>
    let neg := decide (v < 0)
    let n := v.natAbs
    if f.clips n d then
      if blk || !f.hasInf then f.signed neg f.maxCode
      else match r with
        | .rne => if f.roundMag .rne neg n d ≤ f.maxCode then f.signed neg f.maxCode else f.signed neg f.infCode
        | .sto _ => f.signed neg f.infCode
    else f.signed neg (f.roundMag r neg n d)

/-- IEEE binary32, round to nearest even, of an exact value (R66, R90). -/
def toF32 (x : Num) : Word := BitVec.ofNat 32 (EFmt.f32.conv false .rne x)

/-- The magnitude rounded toward +infinity in binary32, for AMAX (R69). -/
def f32Up (n d : Nat) : Word :=
  let q := EFmt.f32.quantum n d
  BitVec.ofNat 32 (min 0x7F800000 (EFmt.f32.codeOf (ceilDiv (n * pow2Den q) (d * pow2Num q)) q))

def canonNan : Word := 0x7FC00000#32

def f32Add (a b : Word) : Word := toF32 ((f32Num a).add (f32Num b))
def f32Mul (a b : Word) : Word := toF32 ((f32Num a).mul (f32Num b))
def f32Neg (a : Word) : Word := if (f32Num a).isNan then canonNan else a ^^^ 0x80000000#32
def f32Fma (a b c : Word) : Word := toF32 (((f32Num a).mul (f32Num b)).add (f32Num c))

/-- A binary32 is positive, finite and normal: a legal master scale (R52). -/
def scaleOk (w : Word) : Bool := decide (0x00800000 ≤ w.toNat) && decide (w.toNat < 0x7F800000)

/-! ## Block scales -/

/-- Layouts of Table 2-6. -/
inductive Layout where
  | plain | coarse | fine
deriving DecidableEq, Repr

def Layout.block : Layout → Nat
  | .plain => 1 | .coarse => 32 | .fine => 16

/-- The value of a scale byte as significand and exponent (R50, R51, σ of R81); none is NaN. -/
def scaleParts (l : Layout) (b : Nat) : Option (Nat × Int) :=
  match l with
  | .plain => some (1, 0)
  | .coarse => if b = 0xFF then none else some (1, (b : Int) - 127)
  | .fine => if b = 0xFF then none
             else if b < 4 then some (b, -32) else some (4 + b % 4, ((b / 4 : Nat) : Int) - 33)

/-- maxelem of R62 as significand and exponent. -/
def maxElem (f : EFmt) (l : Layout) : Nat × Int :=
  match f, l with
  | .int8, .coarse => (127, -6)
  | f, _ => f.magParts f.maxCode

/-- emax = floor(log2 maxelem) of the OCP rule (R62). -/
def emaxOf : EFmt → Int
  | .e2m1 | .int4 => 2 | .e4m3 => 8 | .e5m2 => 15 | _ => 0

/-- A ≤ maxelem × b × S, compared exactly. A = an / ad, S = sn / sd. -/
def scaleFits (f : EFmt) (l : Layout) (an ad sn sd : Nat) (b : Nat) : Bool :=
  match scaleParts l b with
  | none => false
  | some (m, e) =>
    let p := maxElem f l
    let x := p.2 + e
    decide (an * sd * pow2Den x ≤ p.1 * m * pow2Num x * sn * ad)

/-- The smallest code at least `lo` and below `lo + fuel` that fits, by bisection on a monotone test. -/
def bisect (p : Nat → Bool) : Nat → Nat → Nat → Nat
  | 0, _, hi => hi
  | fuel + 1, lo, hi => if hi ≤ lo then hi else
      let mid := (lo + hi) / 2
      if p mid then bisect p fuel lo mid else bisect p fuel (mid + 1) hi

/-- The scale byte of a block (R62): fit rule, or the OCP rule for coarse blocks. A = an / ad is the largest finite source
magnitude of the block, S = sn / sd the master scale. -/
def chooseScale (f : EFmt) (l : Layout) (ocp : Bool) (an ad sn sd : Nat) : Nat :=
  if an = 0 then (if l = .fine then 0x7C else 0x7F)
  else if ocp then
    let e := floorLog2 (an * sd) (ad * sn) - emaxOf f
    (max 0 (min 254 (e + 127))).toNat
  else
    -- the smallest positive scale that fits; 0xFE when none does. UE6M2 0x00 is zero and is never written.
    bisect (scaleFits f l an ad sn sd) 9 (if l = .fine then 1 else 0) 0xFE

/-- Block exponent bound s of Table 3-3. -/
def scaleBound (l : Layout) (b : Nat) : Int :=
  match l with
  | .coarse => (b : Int) - 127
  | .fine => if b < 4 then -30 else ((b / 4 : Nat) : Int) - 30
  | .plain => 0

end Sys2Proof
end

