-- ==== Sys2Proof/Machine/State.lean ====
section
/-!
DEFINITION. The state of the NK4-T512 as plain data, and the machine right after a cold reset (COLDRST# just released,
stage 0x00 of Table 17-1). Each field's comment gives its spec name, width, rule and reset value.
-/
namespace Sys2Proof.Machine

/-- No meaning of this model faults: every command of the table has an effect the spec gives (see NOTES.md, Stops). -/
inductive Fault where
deriving DecidableEq, Repr

/-- Why a command is refused. -/
inductive Refusal where
  /-- The command has no meaning in this model. Raised by an arm of Dispatch.lean only. Safe. -/
  | notModelled (mnemonic : String)
deriving DecidableEq, Repr

/-- What a command answers. -/
abbrev Out (σ : Type) := Host.Outcome σ Fault Refusal

/-! ## GLB block and boot -/

/-- An image header of a flash bank (Table 17-4). The signature and digest checks of R472 are `sigOk` and `digestsOk`. -/
structure ImageHeader where
  /-- MAGIC and STATE valid; 1 b; 17 R471; DESIGN CHOICE true (15) -/
  valid : Bool := true
  /-- SEQ; 32 b; 17 R471; DESIGN CHOICE 1 (15) -/
  seq : Word := 1
  /-- VERSION (EBTOR_VERSION); 64 b; 17 R471; DESIGN CHOICE 0 (15) -/
  version : Dword := 0
  /-- SVN; 8 b; 17 R471; DESIGN CHOICE 0xFF (15) -/
  svn : Byte := 0xFF
  /-- STATE (0 NEW, 1 TRIAL, 2 CONFIRMED, 3 INVALID); 8 b; 17 R471; DESIGN CHOICE CONFIRMED (15) -/
  state : Byte := 2
  /-- ATTEMPTS; 8 b; 17 R471; DESIGN CHOICE 0 (15) -/
  attempts : Byte := 0
  /-- FLAGS RAISE; 1 b; 17 R471; DESIGN CHOICE 0 (15) -/
  raise : Bool := false
  /-- SIG verifies; 1 b; 17 R471; DESIGN CHOICE true (15) -/
  sigOk : Bool := true
  /-- every component matches its DIGEST; 1 b; 17 R471; DESIGN CHOICE true (15) -/
  digestsOk : Bool := true
  /-- DIGEST of loader, runtime, microcode with blotter, tables; 4 × 384 b; 17 R471; DESIGN CHOICE 0 (15) -/
  digests : List (BitVec 384) := [0, 0, 0, 0]
  /-- board record: Subsystem Vendor ID and Subsystem ID; 2 × 16 b, or absent; 18 R486; DESIGN CHOICE absent (15) -/
  board : Option (Half × Half) := none
deriving DecidableEq, Repr

/-- One control die (R38, R225). -/
structure ControlDie where
  /-- passed self-test and runs Ebtor (CDn_OK); 1 b; 01 R39; reset 0 -/
  ok : Bool := false
  /-- entropy STATE; 2 b; 08 R229; reset 0b00 -/
  entState : BitVec 2 := 0
  /-- entropy POOL; 10 b; 08 R228; reset 0x000 -/
  pool : BitVec 10 := 0
  /-- entropy FAILS; 8 b; 08 R228; reset 0x00 -/
  fails : Byte := 0
  /-- entropy requests waiting for the pool to refill: bits asked, bits still due; list; 08 R225; reset empty -/
  waiting : List (Nat × Nat) := []
deriving DecidableEq, Repr

/-- Boot, flash and firmware update (chapter 17). -/
structure Boot where
  /-- GLB_BOOT_STATUS DONE; 1 b; 17 R470; reset 0b0 -/
  done : Bool := false
  /-- GLB_BOOT_STATUS FAILED; 1 b; 17 R470; reset 0b0 -/
  failed : Bool := false
  /-- GLB_BOOT_STATUS BANK; 1 b; 17 R470; reset 0b0 -/
  bank : Bool := false
  /-- GLB_BOOT_STATUS FALLBACK; 1 b; 17 R470; reset 0b0 -/
  fallback : Bool := false
  /-- GLB_BOOT_STATUS ERR; 4 b; 17 R470; reset 0x0 -/
  err : BitVec 4 := 0
  /-- GLB_BOOT_STATUS TRIAL; 1 b; 17 R470; reset 0b0 -/
  trial : Bool := false
  /-- GLB_BOOT_STATUS STAGE; 8 b; 17 R470; reset 0x00 -/
  stage : Byte := 0
  /-- flash bank A header, none when no valid header stands there; 17 R471; DESIGN CHOICE one CONFIRMED image (15) -/
  bankA : Option ImageHeader := some {}
  /-- flash bank B header; 17 R471; DESIGN CHOICE none (15) -/
  bankB : Option ImageHeader := none
  /-- fused minimum SVN; 8 b; 17 R472; fuse (Config.fuseMinSvn) -/
  minSvn : Byte := Config.fuseMinSvn
  /-- flash record area: fence list, one (core key, FCAUSE) per fence; list; 17 R469; DESIGN CHOICE empty (15) -/
  fences : List (Nat × BitVec 4) := []
  /-- flash record area: soft-repair list, one (hub, HUB_RPR_ADDR) per SPPR; list; 17 R473; DESIGN CHOICE empty (15) -/
  repairs : List (Nat × Dword) := []
  /-- flash record area: margin history, one (die, FMAX, SLACK) per re-plan; list; 17 R473; DESIGN CHOICE empty (15) -/
  margins : List (Nat × Byte × Byte) := []
  /-- flash record area sequence of the last copy written; 32 b; 17 R473; DESIGN CHOICE 0 (15) -/
  recSeq : Word := 0
  /-- GLB_FWU_ADDR; 40 b; 17 R474; reset 0x00_0000_0000 -/
  fwuAddr : BitVec 40 := 0
  /-- GLB_FWU_CTRL ERR; 4 b; 17 R474; reset 0x0 -/
  fwuErr : BitVec 4 := 0
  /-- GLB_FWU_CTRL PENDING; 1 b; 17 R474; reset 0b0 -/
  fwuPending : Bool := false
  /-- GLB_FWU_CTRL ACTIVATING; 1 b; 17 R474; reset 0b0 -/
  fwuActivating : Bool := false
  /-- GLB_FWU_CTRL BUSY; 1 b; 17 R474; reset 0b0 -/
  fwuBusy : Bool := false
  /-- the OP in progress (GLB_FWU_CTRL OP codes, 0 none); 4 b; 17 R474; reset 0x0 -/
  fwuOp : BitVec 4 := 0
  /-- outcome waiting for FWU_OP_COMPLETE; 4 b; 17 R475; reset 0x0 -/
  fwuResult : BitVec 4 := 0
  /-- the image being staged, verified; 17 R475; reset none -/
  fwuImage : Option ImageHeader := none
  /-- dispatch stopped by ACTIVATE until the shots end; 1 b; 17 R476; reset 0b0 -/
  quiescing : Bool := false
  /-- the new runtime became active in the window; 1 b; 17 R476; reset 0b0 -/
  switched : Bool := false
  /-- the boot in progress follows a warm reset: stage 0x07 runs no blotter; 1 b; 17 R480; reset 0b0 -/
  warm : Bool := false
  /-- a PERST# of port 0 waits for the window's close; 1 b; 17 R483; reset 0b0 -/
  warmPending : Bool := false
  /-- GLB_RST_CTRL BUSY; 1 b; 17 R481; reset 0b0 -/
  rstBusy : Bool := false
  /-- the reset in progress: (OP, INDEX, CORE); 17 R481; reset none -/
  rstWhat : Option (BitVec 4 × Nat × Nat) := none
  /-- GLB_PART_ID STEPPING; 8 b; 00 R14; fuse (Config.fuseStepping) -/
  stepping : Byte := Config.fuseStepping
  /-- Subsystem Vendor ID and Subsystem ID of the configuration headers; 2 × 16 b; 18 R486; reset 0x0000, loaded when the ports train -/
  subsys : Half × Half := (0, 0)
  /-- a UDS lock until cold reset; 1 b; 15 R435; reset 0b0 -/
  udsLocked : Bool := false
  /-- compute dies left out by ERR 0x5; list of die numbers; 17 R468; reset empty -/
  dieOut : List Nat := []
deriving DecidableEq, Repr

/-- GLB registers without a unit of their own. -/
structure Glb where
  /-- GLB_CD_STATUS TAKEOVERS; 16 b; 01 R39; reset 0x0000 -/
  takeovers : Half := 0
  /-- GLB_CD_STATUS ACTIVE; 2 b; 01 R40; reset 0b00 -/
  active : BitVec 2 := 0
  /-- GLB_DEVICE_ID LOCK; 1 b; 11 R289; reset 0b0 -/
  idLock : Bool := false
  /-- GLB_DEVICE_ID ID; 16 b; 11 R289; reset 0x0000 -/
  devId : Half := 0
  /-- GLB_MEM_CFG BUSY; 1 b; 11 R292; reset 0b0 -/
  memBusy : Bool := false
  /-- GLB_MEM_CFG PIN64; 9 b; 11 R292; reset 0x000 -/
  pin64 : BitVec 9 := 0
  /-- GLB_HWIN, keyed port × 64 + slice, bits [63:31] HBASE and [0] VALID; 64 b each; 11 R293; reset 0 -/
  hwin : Tab Dword := []
  /-- GLB_CONT_KEY; 64 b; 14 R411; reset 0 -/
  contKey : Dword := 0
  /-- GLB_RSV_WRITES; 64 b; 19 R508; reset 0 -/
  rsvWrites : Dword := 0
  /-- GLB_FLOG_BASE LOCATION; 40 b; 12 R346; reset 0 -/
  flogBase : BitVec 40 := 0
  /-- GLB_FLOG_HEAD; 32 b; 12 R346; reset 0 -/
  flogHead : Word := 0
  /-- GLB_FLOG_LOST; 64 b; 12 R346; reset 0 -/
  flogLost : Dword := 0
  /-- records whose write waits for its hub: place, 32 bytes; list; 12 R346, 11 R292; reset empty -/
  flogWait : List (Nat × List Byte) := []
  /-- ADM_LAST_DONE0 and ADM_LAST_DONE1, VALID and SEQ as an option; 33 b each; 10 R279; reset not VALID -/
  lastDone : List (Option Word) := [none, none]
  /-- TST_DAILY_CFG PERIOD; 8 b; 12 R343; reset 0x06 -/
  period : Byte := 6
  /-- TST_DAILY_CFG TEST_DEFER_MAX; 8 b; 12 R343; reset 0x0C -/
  deferMax : Byte := 0x0C
  /-- TST_DAILY_CFG EN; 1 b; 12 R343; reset 0b1 -/
  dailyEn : Bool := true
  /-- RNG_STATUS LKAT; 1 b; 08 R228; reset 0b0 -/
  lkat : Bool := false
deriving DecidableEq, Repr

/-! ## Reels, shots, jobs -/

/-- A staged prepare of a two-phase admin shot (R278). -/
structure Prepare where
  /-- the prepare shot (its SEQ is PREP_SEQ); 10 R278; reset: none staged -/
  shot : Shot
  /-- the region list of a CHECKPOINT as staged: 4 KiB block of the start, blocks; 07 R208 -/
  regions : List (Nat × Nat) := []
deriving DecidableEq, Repr

/-- One reel (Table 10-9, Table 10-10). -/
structure Reel where
  /-- GLB_REEL_RING LOC; 1 b; 10 R272; reset 0 -/
  loc : Bool := false
  /-- GLB_REEL_RING ring base [62:0]; 63 b; 10 R272; reset 0 -/
  base : BitVec 63 := 0
  /-- GLB_REEL_CFG NOTIFY_MB; 6 b; 10 R272; reset 0x20 -/
  notifyMb : BitVec 6 := 0x20
  /-- GLB_REEL_CFG CHECK; 3 b; 10 R272; reset 0b000 -/
  check : BitVec 3 := 0
  /-- a CHECK written while EN = 1, pending for the step boundary; 3 b; 10 R273; reset none -/
  checkNext : Option (BitVec 3) := none
  /-- GLB_REEL_CFG EN; 1 b; 10 R272; reset 0b0 -/
  en : Bool := false
  /-- GLB_REEL_CFG OWNER; 2 b; 10 R272; reset 0b00 (0b01 on reel 1) -/
  owner : BitVec 2 := 0
  /-- GLB_REEL_CFG ADMIN; 1 b; 10 R272; fuse: 1 for reels 0 and 1 -/
  admin : Bool := false
  /-- GLB_REEL_CFG EVAL; 1 b; 10 R272; reset 0b0 -/
  eval : Bool := false
  /-- GLB_REEL_CFG PREEMPT; 1 b; 10 R272; reset 0b0 -/
  preempt : Bool := false
  /-- GLB_REEL_CFG PRIO; 2 b; 10 R272; reset 0b11 (0b00 on reels 0 and 1) -/
  prio : BitVec 2 := 3
  /-- GLB_REEL_CFG SIZE; 4 b; 10 R272; reset 0x0 -/
  size : BitVec 4 := 0
  /-- GLB_REEL_JOB; 32 b; 10 R272; reset 0 -/
  job : Word := 0
  /-- GLB_REEL_HEAD; 32 b; 10 R272; reset 0 -/
  head : Word := 0
  /-- GLB_REEL_TAIL; 32 b; 10 R272; reset 0 -/
  tail : Word := 0
  /-- GLB_REEL_STAT EPOCH; 16 b; 10 R272; reset 0 -/
  epoch : Half := 0
  /-- GLB_REEL_STAT PARTIAL; 1 b; 10 R272; reset 0 -/
  part : Bool := false
  /-- GLB_REEL_STAT HELD; 1 b; 10 R272; reset 0 -/
  held : Bool := false
  /-- GLB_REEL_NEXTSEQ; 32 b; 10 R272; reset 0 -/
  nextSeq : Word := 0
  /-- GLB_REEL_FLSEQ; 32 b; 10 R272; reset 0 -/
  flSeq : Word := 0
  /-- GLB_REEL_FLDROP; 32 b; 10 R272; reset 0 -/
  flDrop : Word := 0
  /-- GLB_REEL_DBREJ; 32 b; 10 R272; reset 0 -/
  dbRej : Word := 0
  /-- the head shot once it has passed the checks of R265; 10 R265; reset none -/
  ready : Option Shot := none
  /-- shots still to skip of a false predicate's span; 12 b; 05 R150; reset 0 -/
  span : Nat := 0
  /-- tenant of the reel; 6 b; 15 R427; reset 0 -/
  tenant : BitVec 6 := 0
  /-- staged prepares of an admin reel; at most 16; 10 R278; reset empty -/
  staged : List Prepare := []
  /-- SEQ of the first shot of the step on this reel (SEQOFS base); 32 b; 16 R452; reset 0 -/
  stepSeq : Word := 0
deriving DecidableEq, Repr

/-- Where a tracked shot stands between dispatch and its completion record (R266, R274). -/
inductive Phase where
  | dispatched | waiting | running | landed
deriving DecidableEq, Repr

/-- A recipe reference as resolved at dispatch (R189). `slot` numbers the descriptor block (0 A, 1 B, 2 D0, 3 D1). -/
structure Resolved where
  slot   : Nat
  tid    : Word
  tfd    : Half
  rot    : BitVec 2
  seed   : Dword
  stream : Dword
  rotStream : Dword
  mscale : Word
  sill   : BitVec 40
  bnAddr : BitVec 40
  bnCnt  : Nat
  /-- source TFD and master scale of an operand that the prologue transposes (R158, R204, assumption 61) -/
  src    : Option (Half × Word) := none
deriving DecidableEq, Repr

/-- A tracked shot (R274), from dispatch until its completion record lands. -/
structure Tracked where
  /-- its reel; 10 bits; 10 R274 -/
  reel : Fin 1024
  /-- the shot -/
  shot : Shot
  /-- the check mode in force (R320); 3 b -/
  mode : BitVec 3
  /-- tenant of the shot (R426); 6 b -/
  tenant : BitVec 6
  /-- job of its reel -/
  job : Word
  /-- evaluation shot (R205) -/
  eval : Bool
  phase : Phase := .dispatched
  /-- NPARTS of Table 10-5 -/
  nparts : Nat := 1
  /-- FAILMASK of Table 10-5 -/
  failmask : Dword := 0
  /-- status of the lowest-numbered failed part, or of the shot -/
  status : Half := 0
  wloss : Bool := false
  sat : Bool := false
  /-- cores that run a PROGRAM: (core key, its number among the shot's cores) -/
  running : List (Nat × Nat) := []
  /-- numbers of the shot's cores that wait for a core (PROGRAM, R334) -/
  queued : List Nat := []
  /-- cores whose program has failed so far (PROGRAM): (number, status) -/
  fails : List (Nat × Half) := []
  /-- the status for which the reel is held once the shot completes (R318, R391, R406, R407, R482) -/
  holdFor : Option Half := none
  /-- recipe references resolved and journalled at dispatch (R189) -/
  resolved : List Resolved := []
  /-- weight slots that taint the shot (R432) -/
  taint : List Nat := []
  /-- parts whose reads have failed at a hub or on the way from it: part, status, address (R301, R318) -/
  lost : List (Nat × Half × Nat) := []
  /-- what the cores of a PROGRAM have committed as destinations and merged so far: core number, address, bytes (R72, R315) -/
  dests : List (Nat × Nat × Nat) := []
  recs : List (Nat × Nat) := []
  /-- the function that owns the reel has been reset: no record and no event is written (R280) -/
  mute : Bool := false
deriving DecidableEq, Repr

/-- One entry of an evaluation snapshot (R206). -/
structure SnapEntry where
  tid : Word
  tfd : Half
  rot : BitVec 2
  group : BitVec 12
  mscale : Word
  bnAddr : BitVec 40
  bnCnt : Nat
deriving DecidableEq, Repr

/-- What a device holds for one job beyond its recipe table in memory (R184, R206, R208). -/
structure Job where
  /-- bound recipe table address, 0 when none is bound; 40 b; 07 R184; reset 0 -/
  table : BitVec 40 := 0
  /-- a recipe-bind pending for the step boundary (0 unbinds) and the tenant of its reel; 07 R184; reset none -/
  bindNext : Option (BitVec 40 × BitVec 6) := none
  /-- recipe-writes pending: (entry index or 0xFFFF, content bytes); list; 07 R184; reset empty -/
  writes : List (Nat × List Byte) := []
  /-- an evaluation snapshot requested; 1 b; 07 R206; reset 0 -/
  snapNext : Bool := false
  /-- the evaluation snapshot: job seed and entries; 07 R206; reset none -/
  snap : Option (Dword × List SnapEntry) := none
  /-- PLAN_REJ for the next step-end report; 1 b; 16 R454; reset 0 -/
  planRej : Bool := false
  /-- tenant of the reel that bound the job; 6 b; 15 R426; reset 0 -/
  tenant : BitVec 6 := 0
  /-- cores whose deferred tests hold the release of the next step; 12 R342; reset empty -/
  testing : List Nat := []
  /-- the job's reels are held when the next step is released, with this status; 07 R202; reset none -/
  holdWith : Option Half := none
deriving DecidableEq, Repr

/-- The checkpoint in progress (R208 to R212). -/
structure Ckpt where
  job : Word
  ref : ShotRef
  /-- it has been captured, at a step boundary -/
  captured : Bool := false
  cap : Nat := 2
  target : Nat := 0
  /-- regions: 4 KiB block number of the start, blocks -/
  regions : List (Nat × Nat) := []
  shadow : Nat := 0
  shadowBlocks : Nat := 0
  /-- blocks still pending (R209) -/
  pend : List Nat := []
  /-- shadow copies not yet sent: block, shadow block, slate at capture -/
  copies : List (Nat × Nat × Slate) := []
  /-- slates of blocks sent, by data block number -/
  sentSlates : List (Nat × Slate) := []
  /-- writes to pending blocks that wait for shadow room (R210) -/
  waiting : List Nat := []
  table : List Byte := []
  step : Dword := 0
  key : Dword := 0
  clapper : Dword := 0
  /-- logical blocks written whose completion has not come (R211) -/
  unacked : List Nat := []
  /-- every data block is sent, and the writes of the table and the slates are sent (R211) -/
  allSent : Bool := false
  /-- the writes have completed and the Flush is sent (R211) -/
  flushSent : Bool := false
  /-- the Flush has completed -/
  flushed : Bool := false
  manifestSent : Bool := false
deriving DecidableEq, Repr

/-- The restore in progress (R213). -/
structure Restore where
  job : Word
  ref : ShotRef
  target : Nat
  /-- where the captured table goes (assumption 40) -/
  addr : BitVec 40
  manifest : List Byte := []
  table : List Byte := []
  slates : List Byte := []
  /-- logical blocks asked for, counted from L0, that have not come -/
  out : List Nat := []
  /-- blocks of the table image or the slates that have come -/
  got : List (Nat × List Byte) := []
deriving DecidableEq, Repr

/-! ## Mailboxes and PCIe functions -/

/-- One mailbox of BAR4 (Table 10-14) with its event queue (R284). -/
structure Mailbox where
  /-- GLB_MB_DATA; 64 b; 10 R281; DESIGN CHOICE 0 (11) -/
  data : Dword := 0
  /-- GLB_MB_STAT FULL; 1 b; 10 R281; DESIGN CHOICE 0 (11) -/
  full : Bool := false
  /-- GLB_MB_SENDER KIND; 4 b; 10 R283; reset 0x0 -/
  kind : BitVec 4 := 0
  /-- GLB_MB_SENDER ID; 17 b; 10 R283; reset 0x0_0000 -/
  id : BitVec 17 := 0
  /-- GLB_MB_STAT REJECTS; 16 b; 10 R281; DESIGN CHOICE 0 (11) -/
  rejects : Half := 0
  /-- Ebtor's queue of words for an outbound mailbox, at most 64; 10 R284; reset empty -/
  queue : List Dword := []
  /-- dropped words not yet reported by LOST; 32 b; 10 R284; reset 0 -/
  dropped : Word := 0
deriving DecidableEq, Repr

/-- The function of one PCIe port (R485, R491, R430). -/
structure PcieFn where
  /-- PERSTn# held asserted; 1 b; 18 R485; DESIGN CHOICE released (16) -/
  perst : Bool := false
  /-- the port is trained; 1 b; 17 R467; reset 0 -/
  trained : Bool := false
  /-- MSI-X enable; 1 b; 18 R491; reset disabled -/
  msixEn : Bool := false
  /-- MSI-X function mask; 1 b; 18 R491; DESIGN CHOICE 0 (16) -/
  funcMask : Bool := false
  /-- MSI-X vector masks; 64 b; 18 R491; reset all masked -/
  vecMask : Dword := BitVec.allOnes 64
  /-- MSI-X pending bits; 64 b; 18 R491; DESIGN CHOICE 0 (16) -/
  vecPend : Dword := 0
  /-- IDE streams in the Secure state (0 link, 1–4 selective) with their keys; list; 15 R430; reset empty -/
  ideSecure : List (Nat × BitVec 256) := []
  /-- IDE streams in the Insecure state; list; 18 R489; reset empty -/
  ideInsecure : List Nat := []
deriving DecidableEq, Repr

/-! ## Memory -/

/-- A line of a vault (R299): its block and whether it is dirty. The list is in order of use, latest first. -/
structure VLine where
  blk : Nat
  dirty : Bool
deriving DecidableEq, Repr

/-- One memory hub (chapter 11). -/
structure Hub where
  /-- HUB_CTRL SCRUBH; 8 b; 11 R306; reset 0x18 -/
  scrubH : Byte := 0x18
  /-- HUB_CTRL AGE; 8 b; 11 R306; reset 0x10 -/
  age : Byte := 0x10
  /-- HUB_CTRL CAP0; 3 b; 11 R306; reset 0b001 -/
  cap0 : BitVec 3 := 1
  /-- HUB_CTRL HOT; 1 b; 11 R306; reset 0b0 -/
  hot : Bool := false
  /-- HUB_RPR_CMD RESULT; 4 b; 11 R305; reset 0x0 -/
  rprResult : BitVec 4 := 0
  /-- HUB_RPR_CMD BUSY; 1 b; 11 R305; reset 0b0 -/
  rprBusy : Bool := false
  /-- the repair OP in progress; 4 b; 11 R305; reset 0x0 -/
  rprOp : BitVec 4 := 0
  /-- HUB_RPR_ADDR STK, CH, PCH, BANK, ROW [36:0]; 37 b; 11 R305; reset 0 -/
  rprAddr : BitVec 37 := 0
  /-- HUB_RPR_BUF; 40 b; 11 R305; reset 0 -/
  rprBuf : BitVec 40 := 0
  /-- rows softly remapped now (HUB_RPR_ADDR values); list; 11 R305; reset: those of the flash record area -/
  soft : List (BitVec 37) := []
  /-- rows permanently remapped; list; 11 R305; DESIGN CHOICE empty (17) -/
  hard : List (BitVec 37) := []
  /-- HUB_ECC_ODCE; 64 b; 11 R307; reset 0 -/
  odce : Dword := 0
  /-- HUB_ECC_CE; 64 b; 11 R307; reset 0 -/
  ce : Dword := 0
  /-- HUB_ECC_UE; 64 b; 11 R307; reset 0 -/
  ue : Dword := 0
  /-- HUB_REF_POST; 64 b; 11 R307; reset 0 -/
  refPost : Dword := 0
  /-- HUB_VLT_HIT; 64 b; 11 R307; reset 0 -/
  vltHit : Dword := 0
  /-- HUB_VLT_MISS; 64 b; 11 R307; reset 0 -/
  vltMiss : Dword := 0
  /-- HUB_SCRUB_PASS; 64 b; 11 R307; reset 0 -/
  scrubPass : Dword := 0
  /-- poison list, ordinary entries (HUB_POISON_N counts both); at most 16,384; 11 R302; DESIGN CHOICE empty (17) -/
  poison : List Nat := []
  /-- poison list, entries of forced resets; at most 16,384; 11 R302; DESIGN CHOICE empty (17) -/
  lost : List Nat := []
  /-- blocks whose last read was uncorrectable and that the full list did not take; list; 11 R302; DESIGN CHOICE empty (17) -/
  unlisted : List Nat := []
  /-- vault lines, latest used first; at most 16,384; 11 R299; DESIGN CHOICE empty (17) -/
  vault : List VLine := []
  /-- the hub is in reset; 1 b; 17 R480; reset 0b0 -/
  inReset : Bool := false
deriving DecidableEq, Repr

/-- HBM data and slates behind the hubs (R309). -/
structure Hbm where
  /-- HBM bytes by local address; 382.5 GiB; 11 R287; reset lost, unlisted bytes 0x00 (R312) -/
  mem : Tab Byte := []
  /-- slates by block number (address >> 12); 16 B each; 12 R309; reset UNWRITTEN, every byte 0 (R317) -/
  slates : Tab Slate := []
deriving DecidableEq, Repr

/-! ## Cores -/

/-- An organ slot (R179). -/
inductive Slot where
  /-- a fill in flight; a refill of R181 also has the generations it must find -/
  | filling (desc : List Byte) (nr nc : Nat) (again : Option (List (Nat × Half)) := none)
  | valid (img : List Word) (src : BitVec 64) (gens : List (Nat × Half)) (desc : List Byte) (nr nc : Nat)
deriving DecidableEq, Repr

/-- A row accumulator (R178): the 320-bit two's-complement sum in units of 2^-149, its special state, and the row extremes. -/
structure RowAcc where
  sum    : BitVec 320 := 0
  negZ   : Bool := false
  any    : Bool := false
  special : Option (Option Bool) := none
  maxv   : Word := 0xFF800000
  minv   : Word := 0x7F800000
deriving DecidableEq, Repr

/-- A contribution on its way to the committed ledger of a cell (row × 32 + column): what is added (EMPTY elements add nothing),
whether it carries a block's WLOSS, whether it came with an arriving block (R96, R174, R329). -/
structure Pend where
  cell     : Nat
  add      : Option Contrib
  wloss    : Bool := false
  arriving : Bool := false
deriving DecidableEq, Repr

/-- An element of a split block as it enters stage 6: column, exact value, WLOSS and SAT of its ledger, stage-4 value (R510). -/
structure Share where
  col   : Nat
  v     : Num
  wloss : Bool
  sat   : Bool
  g     : Word
deriving DecidableEq, Repr

/-- Sums of an output tile that have left the arrays' use and drain: the shadow LEDGER192 set of EXACT (R110), the groups of a WIDE
output tile that have finished (R111), finished F32 sums (R112). -/
structure DrainSet where
  ledgers : Tab Ledger := []
  f32     : Tab Word := []
  acc     : BitVec 2 := 0
  stat    : Bool := false
  wbase   : Int := 0
  sa      : Word := 0x3F800000
  sb      : Word := 0x3F800000
  desc    : List Byte := []
  row0    : Nat := 0
  col0    : Nat := 0
  rows    : Nat := 0
  cols    : Nat := 0
  /-- groups that drain, and groups of the same output tile whose sums are not all in -/
  ready   : List Nat := []
  todo    : List Nat := []
  /-- the arrays still work on the same output tile -/
  mine    : Bool := true
  /-- its last stationary tile awaits its check, with the pending sums of that tile (R329) -/
  check   : Bool := false
deriving DecidableEq, Repr

/-- The matrix unit of a core (chapter 4, R329): stationary sets, ledgers, pending sums. -/
structure Mx where
  /-- CORE_MX_STATUS ROWS; 8 b; 04 R123; reset 0 -/
  rows : Byte := 0
  /-- CORE_MX_STATUS SFMT; 4 b; 04 R123; reset 0 -/
  sfmt : BitVec 4 := 0
  /-- CORE_MX_STATUS ACC; 2 b; 04 R123; reset 0 -/
  acc : BitVec 2 := 0
  /-- CORE_MX_STATUS STATE; 3 b; 04 R124; reset 0b000 -/
  state : BitVec 3 := 0
  /-- active stationary set; 4 KiB; 04 R105; DESIGN CHOICE none (18) -/
  active : Option StatTile := none
  /-- shadow stationary set when complete (SHADOW); 4 KiB; 04 R105; reset not complete -/
  shadow : Option StatTile := none
  /-- streaming rows of the current tile still due, and those latched; lists of rows; 04 R105, R109; reset empty -/
  due : List Nat := []
  latched : List Nat := []
  /-- committed ledgers, keyed row × 32 + column; 04 R109, 12 R329; DESIGN CHOICE cleared (18) -/
  ledgers : Tab Ledger := []
  /-- the set that drains or waits to: the shadow ledger set, or finished WIDE groups; CORE_MX_STATUS DRAIN follows from it;
  04 R109 to R111; reset none -/
  shadowSet : Option DrainSet := none
  /-- an output tile accumulates: its sums are in the cells; 04 R110; reset 0 -/
  busy : Bool := false
  /-- stationary tiles of its reduction still to be swapped in; 04 R110; reset 0 -/
  left : Nat := 0
  /-- rows and columns of the output tile; 04 R109; reset 0 -/
  rowsN : Nat := 0
  colsN : Nat := 0
  /-- STAT of the product in the cells; 04 R102; reset 0 -/
  stat : Bool := false
  /-- the checks of R321 to R327 cover the output tile; 12 R324, R329; reset 0 -/
  checked : Bool := false
  /-- the tile before the last swap awaits its check, and the tile in the cells has not committed; 12 R329; reset 0 -/
  back : Bool := false
  cur : Bool := false
  /-- contributions pending for the tile awaiting its check; list; 12 R329; reset empty -/
  pendCheck : List Pend := []
  /-- contributions pending for the tile in progress; list; 12 R329; reset empty -/
  pendTile : List Pend := []
  /-- F32 running sums (R112), keyed row × 32 + column; binary32; DESIGN CHOICE −0 (18) -/
  f32 : Tab Word := []
  /-- window base of the output tile; 04 R79; DESIGN CHOICE 0 (18) -/
  wbase : Int := 0
  /-- a held ledger set (R242), rows and columns; reset none -/
  held : Option (Nat × Nat) := none
  /-- master scales SA, SB of the product in the cells; binary32; 03 R84; DESIGN CHOICE 1.0 (18) -/
  sa : Word := 0x3F800000
  sb : Word := 0x3F800000
  /-- the product descriptor whose epilogue drains the set; 384 B; 09 R238; reset empty -/
  desc : List Byte := []
  /-- row and column of the output tile's first element; 04 R109; reset 0 -/
  row0 : Nat := 0
  col0 : Nat := 0
  /-- mismatches on the oldest uncommitted tile; 12 R330; reset 0 -/
  mism : Nat := 0
  /-- the tile in progress contains a retake (R337); reset 0b0 -/
  retaken : Bool := false
  /-- transients of the last 24 hours (their clapper counts); list; 12 R330; reset empty -/
  transients : List Dword := []
  /-- LEDGER96 blocks added to the current output tile (R174) and expected; reset 0 -/
  blocksAdded : Nat := 0
  blocksDue : Nat := 0
  /-- generations of the stationary blocks read since the last committed state; 04 R117; reset empty -/
  readGens : List (Nat × Half) := []
  /-- shares of split blocks in output staging (R172, R510), by destination × 2^40 + block number; reset empty -/
  shares : List (Nat × List Share) := []
  /-- slow tiles in a row (R337); reset 0 -/
  slowRun : Nat := 0
  /-- rows and columns of the last held set, which a RELOAD takes up again (R242); reset 0 -/
  shape : Nat × Nat := (0, 0)
deriving DecidableEq, Repr

/-- An instruction that has been issued and has not completed (R231, R232), and what a cursor record says of it (Table 9-14). -/
structure Issued where
  /-- the instruction word; 64 b -/
  iw : Dword
  /-- its index -/
  pc : Nat
  /-- order of issue -/
  seq : Nat
  /-- captured values of the parameter registers the word names, in the order of its fields: register, value -/
  prv : List (Nat × Dword) := []
  /-- STARTED -/
  started : Bool := false
  /-- POS0: output tiles, bytes or blocks completed -/
  pos : Nat := 0
deriving DecidableEq, Repr

/-- One physical core (chapters 4 to 6, 9, 12). -/
structure Core where
  mx : Mx := {}
  /-- CORE_MX_TILES; 64 b; 04 R125; reset 0 -/
  mxTiles : Dword := 0
  /-- CORE_MX_ROWCYC; 64 b; 04 R125; reset 0 -/
  mxRowcyc : Dword := 0
  /-- CORE_MX_MACS; 64 b; 04 R125; reset 0 -/
  mxMacs : Dword := 0
  /-- CORE_MX_STALL; 64 b; 04 R125; reset 0 -/
  mxStall : Dword := 0
  /-- CORE_MX_DISCARD; 64 b; 04 R125; reset 0 -/
  mxDiscard : Dword := 0
  /-- CORE_SP_SKIPTILE; 64 b; 05 R153; reset 0 -/
  spSkipTile : Dword := 0
  /-- CORE_SP_SKIPROW; 64 b; 05 R153; reset 0 -/
  spSkipRow : Dword := 0
  /-- CORE_PE_QELEMS; 64 b; 06 R183; reset 0 -/
  peQelems : Dword := 0
  /-- CORE_PE_STALL; 64 b; 06 R183; reset 0 -/
  peStall : Dword := 0
  /-- CORE_EP_ELEMS; 64 b; 06 R183; reset 0 -/
  epElems : Dword := 0
  /-- CORE_VX_INSTR; 64 b; 06 R183; reset 0 -/
  vxInstr : Dword := 0
  /-- CORE_VX_BUSY; 64 b; 06 R183; reset 0 -/
  vxBusy : Dword := 0
  /-- CORE_ORG_FILLS; 64 b; 06 R183; reset 0 -/
  orgFills : Dword := 0
  /-- CORE_PG_STATUS FSTAT; 16 b; 09 R257; reset 0 -/
  fstat : Half := 0
  /-- CORE_PG_STATUS FPC; 13 b; 09 R257; reset 0 -/
  fpc : BitVec 13 := 0
  /-- CORE_PG_STATUS PSTATE; 3 b; 09 R258; reset 0b000 -/
  pstate : BitVec 3 := 0
  /-- CORE_PG_FAULTIW; 64 b; 09 R259; reset 0 -/
  faultIw : Dword := 0
  /-- CORE_PG_WDOG; 32 b; 09 R259; reset 0x1000_0000 -/
  wdog : Word := 0x10000000
  /-- CORE_PG_ISSUED; 64 b; 09 R260; reset 0 -/
  pgIssued : Dword := 0
  /-- CORE_PG_CUTS; 64 b; 09 R260; reset 0 -/
  pgCuts : Dword := 0
  /-- CORE_RAS_STATE LOGICAL; 10 b; 12 R335; reset 0x3FF -/
  logical : BitVec 10 := 0x3FF
  /-- CORE_RAS_STATE FCAUSE; 4 b; 12 R336; reset 0x0 -/
  fcause : BitVec 4 := 0
  /-- CORE_RAS_STATE ROLE; 3 b; 12 R335; reset 0b101 -/
  role : BitVec 3 := 5
  /-- CORE_RAS_MXMISM; 64 b; 12 R349; reset 0 -/
  mxMism : Dword := 0
  /-- CORE_RAS_VXMISM; 64 b; 12 R349; reset 0 -/
  vxMism : Dword := 0
  /-- CORE_RAS_RETAKES; 64 b; 12 R349; reset 0 -/
  retakes : Dword := 0
  /-- CORE_RAS_SLOWTILE; 64 b; 12 R349; reset 0 -/
  slowTile : Dword := 0
  /-- CORE_RAS_SLATEERR; 64 b; 12 R349; reset 0 -/
  slateErr : Dword := 0
  /-- issued instructions that have not completed, in order of issue: the queues of the engines together, 16 entries each and 64 in
  all; 09 R231, R232; reset empty -/
  queue : List Issued := []
  /-- a precise fault at issue that waits for earlier instructions: its status; 09 R236; reset none -/
  faultWait : Option Half := none
  /-- instruction buffer; up to 8,192 × 64 b; 09 R230; DESIGN CHOICE empty (18) -/
  prog : List Dword := []
  /-- program counter PC; 13 b; 09 R230; DESIGN CHOICE 0 (18) -/
  pc : Nat := 0
  /-- parameter registers PR0 to PR15; 64 b; 09 R231; 0 at program start, DESIGN CHOICE 0 before (18) -/
  pr : Tab Dword := []
  /-- scratchpad by byte, the descriptor slots at 0x17_C000 among them; 1.5 MiB; 09 R231; DESIGN CHOICE 0 (18) -/
  scratch : Tab Byte := []
  /-- tile registers TL0 to TL31 as 1,024 binary32 in row-major order; 06 R176; DESIGN CHOICE +0 (18) -/
  tl : Tab (List Word) := []
  /-- row accumulators; 32; 06 R178; DESIGN CHOICE cleared (18) -/
  racc : Tab RowAcc := []
  /-- routing top-k state by row: (index, logit) largest first; 09 R245; DESIGN CHOICE empty (18) -/
  topk : Tab (List (Nat × Word)) := []
  /-- organ slots; 64; 06 R179; EMPTY at program start, DESIGN CHOICE EMPTY before (18) -/
  organ : Tab (Option Slot) := []
  /-- count queues 0–11; 0–255; 09 R248; empty at program start, DESIGN CHOICE 0 before (18) -/
  cq : Tab Nat := []
  /-- delivery queues 12–15: chunk tokens, at most 64; 09 R248; empty at program start, DESIGN CHOICE empty (18) -/
  dq : Tab (List Nat) := []
  /-- arrived chunks staged: (delivery queue, first byte of the tensor, bytes); 06 R174; reset empty -/
  arrived : List (Nat × Nat × List Byte) := []
  /-- a cut is requested and for what (0 preemption, 1 handover, 2 test); 09 R251; reset none -/
  cut : Option Nat := none
  /-- a saved context of this core's program, held in HBM by Ebtor (R253): its number; reset none -/
  saved : Option Nat := none
  /-- the shot for which this core has been logged as a laggard that is not swapped; 12 R338; reset none -/
  lagLogged : Option ShotRef := none
  /-- the work the core runs: reel, SEQ, its number among the shot's cores; 10 R267; reset none -/
  part : Option (ShotRef × Nat) := none
  /-- tenant of the last part run; 6 b; 15 R428; DESIGN CHOICE 0 (18) -/
  tenant : BitVec 6 := 0
  /-- weight slots the program's reads tainted it with; 15 R432; reset empty -/
  taint : List Nat := []
  /-- MIRROR partner of the core; 12 R327; reset none -/
  partner : Option CoreId := none
  /-- MIRROR mismatches on the current tile; 12 R327; reset 0 -/
  votes : Nat := 0
  /-- a daily test is due, and deferred; 12 R341, R342; reset 0 -/
  due : Bool := false
  deferred : Bool := false
  /-- the logical core an in-place test gives back; 10 b; 12 R342; reset 0x3FF -/
  home : BitVec 10 := 0x3FF
  /-- blotter runs still owed before a boot readmission (R469); reset 0 -/
  readmit : Nat := 0
  /-- mismatches of the duplicated pair of the instruction to issue next; 12 R326; reset 0 -/
  vxTry : Nat := 0
  /-- the core takes its fence at its next tile boundary (R330); FCAUSE; reset none -/
  fenceNext : Option (BitVec 4) := none
deriving DecidableEq, Repr

/-- A context in HBM (R253): where its parts of Table 9-15 lie and how long each is, and what Ebtor itself keeps with it: the core's
logical index and shot, the loaded program and what Table 9-15 does not list. -/
structure Context where
  /-- device address of the first part; 4 KiB aligned -/
  base : Nat
  /-- bytes of each part, in the order of Table 9-15 -/
  sizes : List Nat
  /-- the scratchpad regions saved: first byte, bytes -/
  live : List (Nat × Nat)
  /-- the core, without what the parts hold -/
  rest : Core
deriving DecidableEq, Repr

/-- Cue mode of one die (R414 to R420). -/
structure Cue where
  /-- DIE_CUE_CFG EN; 1 b; 14 R416; reset 0b0 -/
  en : Bool := false
  /-- an EN waiting for the job's step boundary; 14 R414; reset none -/
  enNext : Option Bool := none
  /-- DIE_CUE_CFG ARMED; 1 b; 14 R416; reset 0b0 -/
  armed : Bool := false
  /-- DIE_CUE_CFG ARMERR; 4 b; 14 R416; reset 0x0 -/
  armErr : BitVec 4 := 0
  /-- DIE_CUE_CFG CORE; 6 b; 14 R416; reset 0x00 -/
  core : BitVec 6 := 0
  /-- DIE_CUE_CFG DESC; 40 b; 14 R416; reset 0 -/
  desc : BitVec 40 := 0
  /-- an ARM is loading; 14 R417; reset 0 -/
  arming : Bool := false
  /-- an ARM waits for the product in progress to end (Table 14-10); reset 0 -/
  armNext : Bool := false
  /-- DIE_CUE_MB FULL; 1 b; 14 R416; DESIGN CHOICE 0 (19) -/
  full : Bool := false
  /-- DIE_CUE_MB LATE, MISM, NARM [34:32]; 3 b; 14 R416; DESIGN CHOICE 0 (19) -/
  flags : BitVec 3 := 0
  /-- DIE_CUE_MB SEQ; 32 b; 14 R416; DESIGN CHOICE 0 (19) -/
  seq : Word := 0
  /-- DIE_CUE_REJ; 32 b; 14 R416; DESIGN CHOICE 0 (19) -/
  rej : Word := 0
  /-- DIE_CUE_X; 256 B; 14 R416; DESIGN CHOICE 0 (19) -/
  x : Tab Byte := []
  /-- DIE_CUE_RES; 32 × 32 b; 14 R416; DESIGN CHOICE 0 (19) -/
  res : Tab Word := []
  /-- the product in progress: SEQ, armed at acceptance, answered LATE; 14 R418; reset none -/
  busy : Option (Word × Bool × Bool) := none
  /-- the result slots the product in progress will write; 14 R418; reset empty -/
  next : List Word := []
  /-- a doorbell that waits for a handover or a trip to end: SEQ; 14 R420; reset none -/
  waiting : Option Word := none
  /-- the armed descriptor; 64 B; 14 R415; reset empty -/
  armedDesc : List Byte := []
  /-- the armed matrix: element codes of the N rows; 8 KiB; 14 R415; reset empty -/
  matrix : List Byte := []
deriving DecidableEq, Repr

/-- One compute die (chapters 12, 16, 17). -/
structure Die where
  /-- DIE_MARGIN FMAX_FUSE; 8 b; 12 R345; fuse (Config.fuseFmax; the table's default entry keeps 0x50, assumption 8) -/
  fmaxFuse : Byte := 0x50
  /-- DIE_MARGIN FMAX; 8 b; 12 R345; fuse, as FMAX_FUSE -/
  fmax : Byte := 0x50
  /-- a lower FMAX waiting for the step boundary; 12 R345; reset none -/
  fmaxNext : Option Byte := none
  /-- DIE_MARGIN SLACK; 8 b; 12 R345; reset 0x00 -/
  slack : Byte := 0
  /-- DIE_MARGIN VOFS; 4 b; 12 R345; reset 0x0 -/
  vofs : BitVec 4 := 0
  /-- DIE_MARGIN LOST; 1 b; 12 R345; reset 0b0 -/
  lost : Bool := false
  /-- the die clock in units of 25 MHz; 17 R484; DESIGN CHOICE 72, the nominal 1.8 GHz (20) -/
  clk : Nat := 72
  /-- a canary has lowered the clock since the last re-plan; 12 R344; reset 0 -/
  tripped : Bool := false
  /-- DIE_LAG_CFG SWAP; 1 b; 12 R340; reset 0b1 -/
  lagSwap : Bool := true
  /-- DIE_LAG_CFG THRESH; 8 b; 12 R340; reset 0x0F -/
  lagThresh : Byte := 0x0F
  /-- DIE_LAG_CFG COUNT; 16 b; 12 R340; reset 0x0040 -/
  lagCount : Half := 0x40
  cue : Cue := {}
  /-- latest tile durations by core, for the median (R337); reset empty -/
  durations : Tab Nat := []
  /-- the die is stopped by a thermal trip or a rail fault, or held in reset; 16 R461; reset 0 -/
  stopped : Bool := false
  inReset : Bool := false
  /-- sealed weight slots the die's cores have read (R443); reset empty -/
  touched : List Nat := []
  /-- one step boundary of fencing owed at the clock floor (Table 19-1); reset 0 -/
  floorFence : Bool := false
deriving DecidableEq, Repr

/-! ## Links, Ethernet, collectives -/

/-- A flit as sent: FSEQ and its 200 bytes (Table 13-2). -/
structure TxFlit where
  fseq : Nat
  vc : Nat
  bytes : List Byte
deriving DecidableEq, Repr

/-- One Burou port (R350 to R363). -/
structure Port where
  /-- LNK_PORT_STATUS PEERID; 16 b; 13 R360; reset 0x0000 -/
  peerId : Half := 0
  /-- LNK_PORT_STATUS LANES; 4 b; 13 R360; reset 0x0 -/
  lanes : BitVec 4 := 0
  /-- LNK_PORT_STATUS PEERPORT and PEERPORT4; 5 b; 13 R360; reset 0 -/
  peerPort : BitVec 5 := 0
  /-- LNK_PORT_STATUS LAG; 1 b; 13 R360; reset 0b0 -/
  lag : Bool := false
  /-- LNK_PORT_STATUS STATE; 4 b; 13 R361; reset 0x0 -/
  state : BitVec 4 := 0
  /-- LNK_PORT_CTRL EN; 1 b; 13 R362; reset 0b1 -/
  en : Bool := true
  /-- next FSEQ to send; 11 b; 13 R353; DESIGN CHOICE 0 (21) -/
  txSeq : BitVec 11 := 0
  /-- FSEQ expected; 11 b; 13 R356; DESIGN CHOICE 0 (21) -/
  rxSeq : BitVec 11 := 0
  /-- retry buffer, oldest first, at most 1,024; 13 R356; reset empty -/
  retry : List TxFlit := []
  /-- flits ready to be sent; 13 R355; reset empty -/
  txQueue : List TxFlit := []
  /-- packet flits since the last CTRL flit; 13 R354; reset 0 -/
  sinceCtrl : Nat := 0
  /-- a NAK is outstanding: discard until FSEQ arrives; 13 R356; reset 0 -/
  nakSent : Bool := false
  /-- credits held per VC; 13 R355; reset 512, 128, 64, 64 -/
  credits : List Nat := [512, 128, 64, 64]
  /-- credits to return per VC; 13 R355; reset 0 -/
  returns : List Nat := [0, 0, 0, 0]
  /-- packet bytes being assembled per VC; 13 R364; reset empty -/
  asm : Tab (List Byte) := []
  /-- LNK_FLITS_TX; 64 b; 13 R363; reset 0 -/
  flitsTx : Dword := 0
  /-- LNK_FLITS_RX; 64 b; 13 R363; reset 0 -/
  flitsRx : Dword := 0
  /-- LNK_RETRIES; 64 b; 13 R363; reset 0 -/
  retries : Dword := 0
  /-- LNK_FEC_CORR; 64 b; 13 R363; reset 0 -/
  fecCorr : Dword := 0
  /-- LNK_FEC_UNC; 64 b; 13 R363; reset 0 -/
  fecUnc : Dword := 0
  /-- LNK_LANE_DROPS; 64 b; 13 R363; reset 0 -/
  laneDrops : Dword := 0
  /-- LNK_DROPPED; 64 b; 13 R363; reset 0 -/
  dropped : Dword := 0
  /-- the lane mask proposed in a width change; 13 R358; reset none -/
  newMask : Option (BitVec 4) := none
  /-- working lanes (a dropped lane is 0 until restored); 4 b; 13 R358; DESIGN CHOICE 0xF (21) -/
  good : BitVec 4 := 0xF
  /-- the retry rate is over 2^-RETRYEXP; 13 R359; reset 0 -/
  lagRetry : Bool := false
  /-- ACKSEQ of the last packet flit or CTRL flit received; 11 b; 13 R353; DESIGN CHOICE 0x7FF (21) -/
  peerAck : BitVec 11 := 0x7FF
  /-- lanes retrained and running clean, waiting for 10 s; 4 b; 13 R358; reset 0 -/
  clean : BitVec 4 := 0
  /-- the peer's DEPTH and LOCKED as its last SYNC gave them; 14 R400; reset none (7) -/
  syncDepth : BitVec 3 := 7
  syncLocked : Bool := false
  /-- T_RXLAST and T_TXLAST to send back; 64 b each; 14 R400; reset 0 -/
  rxLast : Dword := 0
  txLast : Dword := 0
deriving DecidableEq, Repr

/-- A route (Table 13-12). -/
structure Route where
  /-- LNK_ROUTE VALID; 1 b; 13 R367; reset 0b0 -/
  valid : Bool := false
  /-- LNK_ROUTE ONALT; 1 b; 13 R367; reset 0b0 -/
  onAlt : Bool := false
  /-- LNK_ROUTE ALT; 5 b; 13 R367; reset 0x1F -/
  alt : BitVec 5 := 0x1F
  /-- LNK_ROUTE PRI; 5 b; 13 R367; reset 0x00 -/
  pri : BitVec 5 := 0
deriving DecidableEq, Repr

/-- An Ethernet port (R371 to R373). -/
structure EthPort where
  /-- the PCS is up; 17 R467; reset 0 -/
  up : Bool := false
  /-- CKN and CAK installed; 13 R372; reset none -/
  cak : Option (List Byte × BitVec 256) := none
  /-- MKA has agreed a SAK; 13 R372; reset 0 -/
  secured : Bool := false
  /-- unprotected frames dropped; 13 R372; DESIGN CHOICE 64 b, 0 (21) -/
  drops : Dword := 0
  /-- priorities paused by PFC; 8 b; 13 R371; reset 0 -/
  paused : Byte := 0
  /-- port record as Ebtor last read it (Table 13-15); 64 B; 13 R374; reset empty -/
  config : List Byte := []
deriving DecidableEq, Repr

/-- A cast entry (Table 13-16). -/
structure Cast where
  /-- VALID; 13 R376; reset 0 -/
  valid : Bool := false
  /-- FEEDOK; 13 R376; reset 0 -/
  feedOk : Bool := false
  /-- GROUPID; 32 b; 13 R376; reset 0 -/
  groupid : Word := 0
  /-- MYRANK; 13 R376; reset 0 -/
  myrank : Nat := 0
  /-- member list, G entries (R377); 64 b each; reset empty -/
  members : List Dword := []
  /-- TIMEOUT in ms; 32 b; 13 R376; reset 0 -/
  timeout : Word := 0
  /-- JOBID; 32 b; 13 R376; reset 0 -/
  job : Word := 0
  /-- collective serial CSER; 32 b; 13 R382; reset 0 -/
  cser : Word := 0
  /-- BROKEN; 13 R392; reset 0 -/
  broken : Bool := false
  /-- blocks of the feed being received so far, and the CHUNK and BLK of the last; 13 R390; reset 0 -/
  feedBlk : Nat := 0
  feedLast : Option (Half × Half) := none
deriving DecidableEq, Repr

/-- A block of a collective that waits for a chunk credit (R384): destination position, the block's number on that way, packet. -/
structure OutBlock where
  dst : Nat
  blk : Nat
  pkt : Packet
deriving DecidableEq, Repr

/-- A collective open on a cast entry of this device (R384 to R393). Positions are chain positions (R383); a token exchange has
ROOT 0, so a position is a rank. -/
structure Coll where
  ref : ShotRef
  /-- the shot's body, Table 13-17 -/
  body : List Byte
  opcode : Nat
  tenant : BitVec 6
  eval : Bool
  dhash : Word
  cser : Word
  pos : Nat
  g : Nat
  /-- positions whose OPEN has arrived -/
  opened : List Nat := []
  /-- OPEN has been sent on -/
  openSent : Bool := false
  /-- chunk credits held for a position (R384) -/
  credits : List (Nat × Nat) := []
  /-- chunks charged to a position's credits -/
  charged : List (Nat × Nat) := []
  /-- the confirm has reached this member -/
  confirmed : Bool := false
  /-- chunks that run: all of them under MODE 0, those of CCHK under MODE 1 -/
  run : List Nat := []
  /-- CCHKs under MODE 1: chunk, core key, delivery queue -/
  cchk : List (Nat × Nat × Nat) := []
  /-- exponent lists that have arrived, by chunk -/
  expIn : List (Nat × List (Option Int)) := []
  /-- chunks whose exponent pass this member has carried on -/
  expOut : List Nat := []
  /-- SUM blocks that have arrived and wait for this member's own: block, bytes, WLOSS, SAT -/
  sums : List (Nat × List Byte × Bool × Bool) := []
  /-- blocks that wait to be sent -/
  outq : List OutBlock := []
  /-- final data staged: source position, block, 4,112 bytes, WLOSS, SAT -/
  staged : List (Nat × Nat × List Byte × Bool × Bool) := []
  /-- slice lengths to send and received, by position (R388) -/
  sendLen : List Nat := []
  recvLen : List (Nat × Nat) := []
  /-- blocks sent and not yet acknowledged: destination position, the packet's block number -/
  unacked : List (Nat × Nat) := []
  /-- SUM blocks sent on or, at the root, staged -/
  sumsDone : List Nat := []
  /-- chunks committed -/
  done : List Nat := []
  /-- ranges of DST committed (R391) -/
  wrote : List (Nat × Nat) := []
  wloss : Bool := false
  sat : Bool := false
  /-- a feed (R390): this member is position 0 of it and its members answer by BACK -/
  feed : Bool := false
deriving DecidableEq, Repr

/-- Links and collectives of the device. -/
structure Links where
  /-- ports 0–19 -/
  ports : Tab Port := []
  /-- LNK_LAG_CFG RETRYEXP; 8 b; 13 R362; reset 0x14 -/
  retryExp : Byte := 0x14
  /-- LNK_LAG_CFG REROUTE; 1 b; 13 R362; reset 0b1 -/
  reroute : Bool := true
  /-- LNK_ROUTE 0–63 -/
  routes : Tab Route := []
  /-- Ethernet ports 0–3 -/
  eth : Tab EthPort := []
  /-- EDG_TABLES BASE; 40 b; 13 R374; reset 0 -/
  edgBase : BitVec 40 := 0
  /-- EDG_TABLES has been written and the area is not read yet; 13 R374; reset 0 -/
  edgAsk : Bool := false
  /-- NVMe-oF target entries as Ebtor last read them (R375); 64 B each; reset empty -/
  targets : Tab (List Byte) := []
  /-- peer entries that are VALID as Ebtor last read them (Table 13-15): device → usable ports; reset empty -/
  peers : Tab Nat := []
  /-- RoCEv2 queue pairs: starting PSN reached by peer; 24 b; 13 R373; reset 0 -/
  psn : Tab Nat := []
  /-- RoCEv2 queue pairs: PSN expected next from the peer; 24 b; 13 R373; reset 0 -/
  psnRx : Tab Nat := []
  /-- packets that wait for a paused Ethernet priority; 13 R371; reset empty -/
  ethWait : List Packet := []
  /-- queue pairs that have exhausted their retries (peers); 13 R373; reset empty -/
  qpDead : List Nat := []
  /-- 4,096 cast entries -/
  casts : Tab Cast := []
  /-- CAST_WRITEs accepted and waiting (for a close or a step boundary): (entry, content, waits for job); 13 R379 -/
  castNext : List (Nat × Cast × Option Word) := []
  /-- open collectives by cast entry -/
  open_ : List (Nat × Coll) := []
  /-- packets delivered to this device by its ports and not yet taken by their command; 13 R364 -/
  inbox : List Packet := []
  /-- packets of a collective that this member has not opened yet; 13 R382 -/
  early : List Packet := []
  /-- refusals of this device's mailbox writes that Ebtor has learnt: peer, mailbox; 13 R370; reset empty -/
  refused : List (Half × Nat) := []
  /-- MGMT packets handed to Ebtor; 13 R365 -/
  mgmt : List Packet := []
deriving DecidableEq, Repr

/-! ## Clapper -/

/-- The clapper (chapter 14). -/
structure Clapper where
  /-- GLB_CLAP; 64 b; 14 R397; reset 0 -/
  count : Dword := 0
  /-- GLB_CLAP_CFG ROLE; 2 b; 14 R399; reset 0b00 -/
  role : BitVec 2 := 0
  /-- GLB_CLAP_CFG PTPDOM; 8 b; 14 R399; reset 0x00 -/
  ptpDom : Byte := 0
  /-- GLB_CLAP_CFG AUTO; 1 b; 14 R399; reset 0b1 -/
  auto : Bool := true
  /-- GLB_CLAP_CFG PARENT; 5 b; 14 R399; reset 0x00 -/
  parent : BitVec 5 := 0
  /-- GLB_CLAP_STAT STATE; 3 b; 14 R403; reset 0b000 -/
  state : BitVec 3 := 0
  /-- GLB_CLAP_STAT DEPTH; 3 b; 14 R403; reset 0b111 -/
  depth : BitVec 3 := 7
  /-- GLB_CLAP_STAT OFFSET; 16 b signed; 14 R403; reset 0x0000 -/
  offset : Half := 0
  /-- one-way delay to the parent; 14 R400; reset 0 -/
  delay : Int := 0
  /-- offset still to slew away, in ns; 14 R398; reset 0 -/
  slew : Int := 0
  /-- counts since the last slew correction of one count; 14 R398; reset 0 -/
  phase : Nat := 0
  /-- consecutive offsets within the lock limit; 14 R403; reset 0 -/
  good : Nat := 0
  /-- the count has made its single ACQUIRING step; 14 R398; reset 0 -/
  stepped : Bool := false
  /-- SYNC_10M present; 18 R499; DESIGN CHOICE 0 (22) -/
  sync10m : Bool := false
  /-- a 1PPS edge has been seen since ROLE became MASTER_PPS; 14 R402; reset 0 -/
  ppsSeen : Bool := false
deriving DecidableEq, Repr

/-! ## Security -/

/-- A tenant slot (R423). -/
structure Tenant where
  /-- open; 15 R423; reset closed -/
  opened : Bool := false
  /-- 512-bit XTS key, held wrapped on the control dies; 15 R423; reset 0 -/
  key : BitVec 512 := 0
  /-- REQIDE; 15 R427; reset 0 -/
  reqIde : Bool := false
  /-- KEEP_ON_UPDATE; 15 R442; reset 0 -/
  keep : Bool := false
  /-- SHA-384 of the owner's certificate chain; 15 R439; reset 0 -/
  owner : BitVec 384 := 0
deriving DecidableEq, Repr

/-- A region entry (R425). KIND 0 TENANT, 1 SEALED, 2 BOUND. -/
structure Region where
  base : Nat
  len : Nat
  kind : BitVec 2
  owner : BitVec 6
  slot : Nat
  tweak : Word
deriving DecidableEq, Repr

/-- A weight-key slot (R433, R434). -/
structure WKey where
  key : BitVec 512
  bound : Bool
  session : Nat
  bundle : BitVec 40
  bundleLen : Nat
deriving DecidableEq, Repr

/-- An SPDM session (R437). -/
structure Session where
  id : Nat
  /-- port, or 2 for MCTP -/
  port : Nat
  finished : Bool
  /-- SHA-384 of the requester's chain after mutual authentication -/
  chain : Option (BitVec 384)
  /-- SHA-384 of the root certificate that chain ends at (R439) -/
  root : Option (BitVec 384)
  keyGen : Nat
deriving DecidableEq, Repr

/-- Security state (chapter 15). -/
structure Sec where
  /-- LIFECYCLE; 2 b; 15 R441; fuse (Config.fuseLifecycle) -/
  lifecycle : BitVec 2 := Config.fuseLifecycle
  /-- SVN of the running image; 8 b; 15 R441; fuse; DESIGN CHOICE 0 before boot (15) -/
  svn : Byte := 0
  /-- tenant slots 0–63; reset closed -/
  tenants : Tab Tenant := []
  /-- region table; 256 entries; reset empty -/
  regions : List (Nat × Region) := []
  /-- releases waiting for the tenant's shots (Table 15-9); entries; reset empty -/
  releasing : List Nat := []
  /-- weight-key slots 0–31; reset empty -/
  wkeys : List (Nat × WKey) := []
  /-- SPDM sessions, at most 32; reset none -/
  sessions : List Session := []
  /-- next session number; 15 R437; reset 0 -/
  nextSession : Nat := 0
  /-- operator root digest; 384 b; 15 R439; reset none set -/
  opRoot : Option (BitVec 384) := none
  /-- reset epochs, compute dies 0–15 then hubs at 16–23; 32 b each; 15 R438; reset 0 -/
  epochs : Tab Word := []
  /-- ROM digest (block 1); 384 b; 15 R438; fixed in the part (Config.romDigest) -/
  romDigest : BitVec 384 := Config.romDigest
  /-- loader, runtime, microcode, table digests (blocks 2–5); 384 b each; 15 R438; reset 0 before boot (15) -/
  digests : List (BitVec 384) := [0, 0, 0, 0]
  /-- CDI0, CDI1; 384 b each; 15 R435; reset 0 (15) -/
  cdi0 : BitVec 384 := 0
  cdi1 : BitVec 384 := 0
deriving DecidableEq, Repr

/-! ## Power and plant -/

/-- A grant in force (R450). -/
structure Grant where
  die : Nat
  watts : Nat
  ref : ShotRef
  planned : Bool
deriving DecidableEq, Repr

/-- A batch not yet complete (R449, R451), in dispatch order. -/
structure Batch where
  /-- compute die; 16 R449 -/
  die : Nat
  ref : ShotRef
  /-- estimated watts (R449, Config.batchWatts) -/
  watts : Nat
  /-- estimated at 50 mJ or less: needs no grant -/
  small : Bool
  /-- admitted against the standing allowance, or granted -/
  admitted : Bool
deriving DecidableEq, Repr

/-- A grant plan bound or pending (Table 16-1). -/
structure Plan where
  job : Word
  hold : Nat
  /-- entries: reel, SEQOFS, DIES, WATTS, DUR -/
  entries : List (Nat × Word × Half × Nat × Nat)
deriving DecidableEq, Repr

/-- Power governor and plant interface (chapter 16). -/
structure Power where
  /-- PWR_BUDGET THR; 16 b; 16 R463; reset 0x05DC -/
  thr : Half := 0x05DC
  /-- PWR_BUDGET CAP; 16 b; 16 R463; reset 0x0E10 -/
  cap : Half := 0x0E10
  /-- PWR_RAMP DSTEP; 10 b; 16 R463; reset 0x096 -/
  dstep : BitVec 10 := 0x96
  /-- PWR_RAMP RAMP_DN; 11 b; 16 R463; reset 0x0C8 -/
  rampDn : BitVec 11 := 0xC8
  /-- PWR_RAMP RAMP_UP; 11 b; 16 R463; reset 0x0C8 -/
  rampUp : BitVec 11 := 0xC8
  /-- PWR_PLAN ADDR; 40 b; 16 R463; reset 0 -/
  planAddr : BitVec 40 := 0
  /-- an address written to PWR_PLAN whose plan has not been read yet; 40 b; 16 R454; reset none -/
  planAsk : Option (BitVec 40) := none
  /-- the plan in force; 16 R452; reset none -/
  plan : Option Plan := none
  /-- a plan (or its clearing) waiting for the step boundary; 16 R452; reset none -/
  planNext : Option (Option Plan) := none
  /-- PWR_STATUS POWER; 12 b; 16 R463; reset 0x000 -/
  power : BitVec 12 := 0
  /-- PWR_STATUS THROTTLE; 1 b; 16 R463; reset 0b0 -/
  throttle : Bool := false
  /-- PWR_STATUS RAMP_SHORT; 1 b; 16 R463; reset 0b0 -/
  rampShort : Bool := false
  /-- PWR_STATUS PLAN_REJ; 1 b; 16 R463; reset 0b0 -/
  planRej : Bool := false
  /-- excursions in force: (row of Table 16-2, die or 16); EXCUR is its non-emptiness; 16 R461; reset empty -/
  excur : List (Nat × Nat) := []
  /-- PWR_EXCURSIONS; 64 b; 16 R464; reset 0 -/
  excursions : Dword := 0
  /-- PWR_PLAN_MISS; 64 b; 16 R464; reset 0 -/
  planMiss : Dword := 0
  /-- grants in force; 16 R450; reset none -/
  grants : List Grant := []
  /-- batches waiting or admitted in dispatch order; 16 R449; reset none -/
  batches : List Batch := []
  /-- batches that outlasted their grant's duration (overruns); 16 R450; reset 0 -/
  overruns : Nat := 0
  /-- ballast load drawn, in W, at most 1,200; 16 R455; reset 0 -/
  ballast : Nat := 0
  /-- draw held across a step boundary (R456), in W; reset 0 -/
  hold : Nat := 0
  /-- the draw from which a rise counts, the least P(s) + RAMP_UP (t − s) of R455, in W; DESIGN CHOICE 420, the idle draw (20) -/
  rampFrom : Nat := 420
  /-- the draw from which a fall counts, the largest P(s) − RAMP_DN (t − s) of R455, in W; DESIGN CHOICE 420 (20) -/
  rampTo : Nat := 420
  /-- PLT_CFG TOUT_SET; 8 b; 16 R463; reset 0x2D -/
  toutSet : Byte := 0x2D
  /-- PLT_CFG TIN_MAX; 8 b; 16 R463; reset 0x28 -/
  tinMax : Byte := 0x28
  /-- PLT_CFG FLOW_MIN; 8 b; 16 R463; reset 0x14 -/
  flowMin : Byte := 0x14
  /-- PLT_CFG FLEAD; 7 b; 16 R463; reset 0x05 -/
  flead : BitVec 7 := 5
  /-- PLT_CFG VALVE_AUTO; 1 b; 16 R463; reset 0b1 -/
  valveAuto : Bool := true
  /-- PLT_STATUS TIN; 8 b; 16 R463; reset 0x00 -/
  tin : Byte := 0
  /-- PLT_STATUS TOUT; 8 b; 16 R463; reset 0x00 -/
  tout : Byte := 0
  /-- PLT_STATUS FLOW; 8 b; 16 R463; reset 0x00 -/
  flow : Byte := 0
  /-- PLT_STATUS VALVE; 7 b; 16 R463; reset 0b110_0100 -/
  valve : BitVec 7 := 0x64
  /-- PLT_STATUS SNS_OK; 1 b; 16 R463; reset 0b0 -/
  snsOk : Bool := false
  /-- forecast sequence number; 8 b; 16 R457; DESIGN CHOICE 0 (20) -/
  fcSeq : Byte := 0
  /-- the last forecast draw in W; 16 R457; reset 0 -/
  forecast : Nat := 0
  /-- VALVE_PWM driven constantly high (R497); reset 1 -/
  valveHigh : Bool := true
  /-- a thermal trip is in force (THERMTRIP# asserted); 18 R498; reset 0 -/
  thermTrip : Bool := false
  /-- RELEASE has been written since the trip began (Table 16-2); reset 0 -/
  tripReleased : Bool := false
  /-- the budget stands at THR for a plant fault (R461); reset 0 -/
  plantFault : Bool := false
  /-- CATTRIP# asserted, clocks stopped; 18 R498; reset 0 -/
  catTrip : Bool := false
  /-- the timing promise of R409 holds; 16 R461; reset 0 -/
  promise : Bool := false
deriving DecidableEq, Repr

/-- JTAG and sideband pins (R493). -/
structure Jtag where
  /-- instruction: 0 BYPASS, 1 IDCODE, 2 SAMPLE/PRELOAD, 3 EXTEST, 4 IEEE 1687; 18 R493; DESIGN CHOICE IDCODE (16) -/
  ir : Nat := 1
  /-- values preloaded for the signal balls; list; 18 R493; reset empty -/
  preload : List (Nat × Bool) := []
  /-- EXTEST drives the signal balls; 18 R493; reset 0 -/
  driving : Bool := false
deriving DecidableEq, Repr

/-- The whole machine. -/
structure State where
  /-- commands waiting, first in first out (the model's own field) -/
  pending : List Instr := []
  glb : Glb := {}
  boot : Boot := {}
  /-- CD0 and CD1 -/
  cds : Tab ControlDie := []
  /-- reels 0–1,023 -/
  reels : Tab Reel := []
  /-- the reel served last, by priority (R274); list; 10 R274; DESIGN CHOICE 1023 (12) -/
  lastServed : Tab Nat := []
  /-- tracked shots in dispatch order, at most 16,384; 10 R274; reset none -/
  tracked : List Tracked := []
  /-- the dispatch journal, newest first: reel and SEQ of each shot that has left its ring, and the result of its predicate when it was
  evaluated; 01 R38, 05 R149; reset empty -/
  journal : List (ShotRef × Option Bool) := []
  /-- jobs by JOBID -/
  jobs : Tab Job := []
  ckpt : Option Ckpt := none
  restore : Option Restore := none
  /-- mailboxes 0–63 -/
  mbox : Tab Mailbox := []
  /-- PCIe functions 0 and 1 -/
  pcie : Tab PcieFn := []
  hbm : Hbm := {}
  /-- hubs 0–7 -/
  hubs : Tab Hub := []
  /-- host memory behind PCIe ports 0 and 1, keyed port × 2^64 + address; outside the device; DESIGN CHOICE 0 (13) -/
  host : Tab Byte := []
  /-- physical cores, keyed die × 34 + core -/
  cores : Tab Core := []
  /-- program contexts Ebtor holds in HBM (R253), by number; reset none -/
  contexts : Tab (Option Context) := []
  /-- compute dies 0–15 -/
  dies : Tab Die := []
  links : Links := {}
  clap : Clapper := {}
  sec : Sec := {}
  pwr : Power := {}
  jtag : Jtag := {}
  /-- counter of free values drawn (the model's own field; DESIGN CHOICE 0 (4)) -/
  fresh : Nat := 0
  /-- what has crossed the package boundary outward, newest first (the model's own record) -/
  out : List OutMsg := []
deriving DecidableEq, Repr

/-- The machine right after a cold reset: every table at its default, which is each register's Reset value (R13). -/
def State.reset : State := {}

end Sys2Proof.Machine
end

