-- ==== Sys2Proof/Machine/Tab.lean ====
section
/-!
DEFINITION. Operations on the sparse table in its canonical form (keys strictly rising, no entry equal to what an unlisted key
reads as): read one key, write one key, and the same for a run of bytes.
-/
namespace Sys2Proof

/-- Read key `k`; an unlisted key reads as `f k`. -/
def tget {α : Type} (f : Nat → α) (t : Tab α) (k : Nat) : α :=
  match t.find? (fun e => e.1 == k) with
  | some e => e.2
  | none => f k

/-- Write key `k` of a table of units: the entry is listed from then on. -/
def tset {α : Type} (t : Tab α) (k : Nat) (a : α) : Tab α :=
  t.filter (fun e => decide (e.1 < k)) ++ ((k, a) :: t.filter (fun e => decide (k < e.1)))

/-- Write key `k` of a store in canonical form: writing what an unlisted key reads as removes the entry. -/
def cset {α : Type} [DecidableEq α] (f : Nat → α) (t : Tab α) (k : Nat) (a : α) : Tab α :=
  t.filter (fun e => decide (e.1 < k)) ++ ((if a = f k then [] else [(k, a)]) ++ t.filter (fun e => decide (k < e.1)))

/-- The default of a byte store: an unlisted byte reads as 0x00. -/
def zeroByte (_ : Nat) : Byte := 0

/-- One entry of a run of bytes: nothing is listed for 0x00. -/
def cellOf (a : Nat) (b : Byte) : Tab Byte := if b = 0 then [] else [(a, b)]

/-- The entries of a run of bytes from `a` on. -/
def cellsOf (a : Nat) : List Byte → Tab Byte
  | [] => []
  | b :: bs => cellOf a b ++ cellsOf (a + 1) bs

/-- Write a run of bytes at `a`. -/
def tput (t : Tab Byte) (a : Nat) (bs : List Byte) : Tab Byte :=
  t.filter (fun e => decide (e.1 < a)) ++ (cellsOf a bs ++ t.filter (fun e => decide (a + bs.length ≤ e.1)))

/-- Read `n` bytes from `a` on. -/
def tread (t : Tab Byte) (a : Nat) : Nat → List Byte
  | 0 => []
  | n + 1 => tget zeroByte t a :: tread t (a + 1) n

/-- The canonical form of a table with defaults `f`. -/
def TabWf {α : Type} (f : Nat → α) (t : Tab α) : Prop :=
  t.Pairwise (fun a b => a.1 < b.1) ∧ ∀ e ∈ t, e.2 ≠ f e.1

end Sys2Proof
end

