-- ==== Sys2Proof/Machine/Ops.lean ====
section
/-!
DEFINITION. The named operations over the machine's registers and queues that every family shares: reading and changing a
unit, counting a reserved write, posting an event word, firing an MSI-X vector, holding a reel, homing an address.
-/
namespace Sys2Proof.Machine

/-! ## Units -/

/-- Reset values by unit: reels 0 and 1 are admin reels (Table 10-10); a compute die's fused maximum clock is its own. -/
def reel0 (n : Nat) : Reel :=
  if n = 0 then { owner := 0, prio := 0, admin := true } else if n = 1 then { owner := 1, prio := 0, admin := true } else {}
/-- The fused maximum clock lies between the floor of 1.0 GHz and the peak of 2.0 GHz (R26, chapter 19). -/
def fusedMax (d : Nat) : Byte := BitVec.ofNat 8 (40 + (Config.fuseFmax d).toNat % 41)
def die0 (d : Nat) : Die := { fmaxFuse := fusedMax d, fmax := fusedMax d, clk := min 72 (fusedMax d).toNat }

def State.reel (s : State) (n : Nat) : Reel := tget reel0 s.reels n
def State.setReel (s : State) (n : Nat) (r : Reel) : State := { s with reels := tset s.reels n r }
def State.modReel (s : State) (n : Nat) (g : Reel → Reel) : State := s.setReel n (g (s.reel n))

def State.core (s : State) (c : CoreId) : Core := tget (fun _ => {}) s.cores c.key
def State.setCore (s : State) (c : CoreId) (v : Core) : State := { s with cores := tset s.cores c.key v }
def State.modCore (s : State) (c : CoreId) (g : Core → Core) : State := s.setCore c (g (s.core c))
def State.coreK (s : State) (k : Nat) : Core := tget (fun _ => {}) s.cores k
def State.modCoreK (s : State) (k : Nat) (g : Core → Core) : State := { s with cores := tset s.cores k (g (s.coreK k)) }
/-- A change of the matrix unit of a core. -/
def State.modMx (s : State) (c : CoreId) (g : Mx → Mx) : State := s.modCore c (fun v => { v with mx := g v.mx })

def State.die (s : State) (d : Nat) : Die := tget die0 s.dies d
def State.modDie (s : State) (d : Nat) (g : Die → Die) : State := { s with dies := tset s.dies d (g (s.die d)) }
def State.modCue (s : State) (d : Nat) (g : Cue → Cue) : State := s.modDie d (fun v => { v with cue := g v.cue })

def State.hub (s : State) (h : Nat) : Hub := tget (fun _ => {}) s.hubs h
def State.modHub (s : State) (h : Nat) (g : Hub → Hub) : State := { s with hubs := tset s.hubs h (g (s.hub h)) }

def State.cd (s : State) (n : Nat) : ControlDie := tget (fun _ => {}) s.cds n
def State.modCd (s : State) (n : Nat) (g : ControlDie → ControlDie) : State := { s with cds := tset s.cds n (g (s.cd n)) }

def State.mb (s : State) (m : Nat) : Mailbox := tget (fun _ => {}) s.mbox m
def State.modMb (s : State) (m : Nat) (g : Mailbox → Mailbox) : State := { s with mbox := tset s.mbox m (g (s.mb m)) }

def State.pf (s : State) (p : Nat) : PcieFn := tget (fun _ => {}) s.pcie p
def State.modPf (s : State) (p : Nat) (g : PcieFn → PcieFn) : State := { s with pcie := tset s.pcie p (g (s.pf p)) }

def State.port (s : State) (p : Nat) : Port := tget (fun _ => {}) s.links.ports p
def State.modLinks (s : State) (g : Links → Links) : State := { s with links := g s.links }
def State.modPort (s : State) (p : Nat) (g : Port → Port) : State :=
  s.modLinks (fun l => { l with ports := tset l.ports p (g (s.port p)) })
def State.route (s : State) (i : Nat) : Route := tget (fun _ => {}) s.links.routes i
def State.modRoute (s : State) (i : Nat) (g : Route → Route) : State :=
  s.modLinks (fun l => { l with routes := tset l.routes i (g (s.route i)) })
def State.eth (s : State) (e : Nat) : EthPort := tget (fun _ => {}) s.links.eth e
def State.modEth (s : State) (e : Nat) (g : EthPort → EthPort) : State :=
  s.modLinks (fun l => { l with eth := tset l.eth e (g (s.eth e)) })
def State.cast (s : State) (i : Nat) : Cast := tget (fun _ => {}) s.links.casts i
def State.modCast (s : State) (i : Nat) (g : Cast → Cast) : State :=
  s.modLinks (fun l => { l with casts := tset l.casts i (g (s.cast i)) })

def State.job (s : State) (j : Word) : Job := tget (fun _ => {}) s.jobs j.toNat
def State.modJob (s : State) (j : Word) (g : Job → Job) : State := { s with jobs := tset s.jobs j.toNat (g (s.job j)) }

def State.tenant (s : State) (t : Nat) : Tenant := tget (fun _ => {}) s.sec.tenants t
def State.modSec (s : State) (g : Sec → Sec) : State := { s with sec := g s.sec }
def State.modTenant (s : State) (t : Nat) (g : Tenant → Tenant) : State :=
  s.modSec (fun x => { x with tenants := tset x.tenants t (g (s.tenant t)) })

def State.modGlb (s : State) (g : Glb → Glb) : State := { s with glb := g s.glb }
def State.modBoot (s : State) (g : Boot → Boot) : State := { s with boot := g s.boot }
def State.modClap (s : State) (g : Clapper → Clapper) : State := { s with clap := g s.clap }
def State.modPwr (s : State) (g : Power → Power) : State := { s with pwr := g s.pwr }
def State.modHbm (s : State) (g : Hbm → Hbm) : State := { s with hbm := g s.hbm }
def State.emit (s : State) (o : OutMsg) : State := { s with out := o :: s.out }

/-- The next free value (assumption 4). -/
def State.freeVal (s : State) : Dword := Config.free s.fresh
def State.tick (s : State) : State := { s with fresh := s.fresh + 1 }

/-! ## Shared effects -/

/-- A nonzero write to an RSV field, a reserved value, or a write to an undefined offset: one count (R10, R12, R488). -/
def State.rsv (s : State) : State := s.modGlb (fun g => { g with rsvWrites := satInc g.rsvWrites })
def State.rsvIf (s : State) (b : Bool) : State := if b then s.rsv else s

/-- Ebtor runs: a control die is active (R39, R40). -/
def State.ebtor (s : State) : Bool := s.glb.active != 0

/-- Clocks of cores, hubs and links run (R498: CATTRIP# stops them). -/
def State.clocks (s : State) : Bool := !s.pwr.catTrip

/-- The index of the active control die, 0 when none. -/
def State.activeCd (s : State) : Nat := if s.glb.active = 2 then 1 else 0

/-- Ebtor posts a word for an outbound mailbox (R284): queued, or dropped and counted when 64 words wait. -/
def State.post (s : State) (m : Nat) (w : Dword) : State :=
  s.modMb m (fun b =>
    if b.queue.length < 64 then { b with queue := b.queue ++ [w] } else { b with dropped := satInc b.dropped })

/-- An event word (Table 10-17, Table 15-6): the type in bits [62:58]. -/
def eventWord (ty : Nat) (rest : Nat) : Dword := BitVec.ofNat 64 (ty * 2 ^ 58 + rest % 2 ^ 58)

/-- The COMPLETION event (Table 10-17). -/
def completionWord (reel : Nat) (seq : Word) : Dword := eventWord 0 (reel % 1024 * 2 ^ 48 + seq.toNat)
/-- The HOLD event (Table 10-17). -/
def holdWord (reel : Nat) (st : Half) (seq : Word) : Dword :=
  eventWord 2 (reel % 1024 * 2 ^ 48 + st.toNat * 2 ^ 32 + seq.toNat)

/-- Hold a reel and post its HOLD event on its NOTIFY_MB (R36, R265). -/
def State.hold (s : State) (reel : Nat) (st : Half) (seq : Word) : State :=
  let r := s.reel reel
  (s.setReel reel { r with held := true }).post r.notifyMb.toNat (holdWord reel st seq)

/-- Hold a reel on account of a shot that has completed: the head shot carries NEXTSEQ (Table 10-17, assumption 35). -/
def State.holdHead (s : State) (reel : Nat) (st : Half) : State := s.hold reel st (s.reel reel).nextSeq

/-- Vector m fires on one function (R491): pending when masked. -/
def State.fireOn (s : State) (p : Fin 2) (m : Nat) : State :=
  let f := s.pf p
  if f.msixEn then
    if f.funcMask || f.vecMask.getLsbD m then s.modPf p (fun f => { f with vecPend := f.vecPend ||| (1#64 <<< m) })
    else s.emit (.msix p m)
  else s

/-- Vector m fires on the function of every port whose MSI-X capability is enabled (R491). -/
def State.fire (s : State) (m : Nat) : State := (s.fireOn 0 m).fireOn 1 m

/-! ## The address map (R287 to R291) -/

def State.pins (s : State) : Nat := 64 * s.glb.pin64.toNat

/-- The end of the hashed range. -/
def State.hashedEnd (s : State) : Nat := (97920 - s.pins) * 0x400000

/-- Table 11-1: an address of device memory. -/
def State.mapped (s : State) (a : Nat) : Bool :=
  decide (a < s.hashedEnd) ||
  (decide (0x8000000000 ≤ a) && decide (a < 0x9000000000) && decide (a % 0x200000000 < s.pins * 0x80000))

/-- The pseudo-channel of a hashed block B = ADDR[39:12] (R290). -/
def pcOf (b : Nat) : Nat := (b % 1024) ^^^ (b / 1024 % 1024) ^^^ (b / 0x100000 % 128)

/-- The home hub of a block (R290, R291). -/
def hubOf (blk : Nat) : Nat :=
  if 0x8000000 ≤ blk then (blk - 0x8000000) / 0x200000 % 8 else pcOf blk % 8

/-- The pseudo-channel that holds a block, and its index within it (R290, R291); P pinned rows of blocks stand at the top. -/
def pcOfBlock (blk : Nat) : Nat :=
  if 0x8000000 ≤ blk then (blk - 0x8000000) / 0x200000 % 8 + 8 * ((blk - 0x8000000) % 0x200000 % 128) else pcOf blk
def indexOf (p blk : Nat) : Nat :=
  if 0x8000000 ≤ blk then 97920 - p + (blk - 0x8000000) % 0x200000 / 128 else blk / 1024

/-- The stack, the channel and the half of it that a pseudo-channel number names (R290). -/
def stackOf (pc : Nat) : Nat := 2 * (pc % 8) + pc / 8 % 2
def chanOf (pc : Nat) : Nat := pc / 16 % 32
def pseudoOf (pc : Nat) : Nat := pc / 512 % 2

/-- Host windows (Table 11-1): the port. -/
def hostPort (a : Nat) : Option (Fin 2) :=
  if 0xC000000000 ≤ a ∧ a < 0xE000000000 then some 0
  else if 0xE000000000 ≤ a ∧ a < 0x10000000000 then some 1 else none

/-- Translation of a host-window address (R293): none through a slice with VALID = 0. -/
def State.hostAddr (s : State) (a : Nat) : Option (Fin 2 × Nat) :=
  match hostPort a with
  | none => none
  | some p =>
    let o := a % 0x2000000000
    let w := tget (fun _ => (0 : Dword)) s.glb.hwin (p.val * 64 + o / 0x80000000)
    if w.getLsbD 0 then some (p, w.toNat / 0x80000000 * 0x80000000 + o % 0x80000000) else none

/-- The region that covers an address (R425). -/
def State.region (s : State) (a : Nat) : Option Region :=
  (s.sec.regions.find? (fun e => decide (e.2.base ≤ a) && decide (a < e.2.base + e.2.len))).map (·.2)

/-- The tenant that owns an address (R423). -/
def State.ownerOf (s : State) (a : Nat) : BitVec 6 := match s.region a with | some r => r.owner | none => 0

/-- The key of a weight slot, when it holds one (R433). -/
def State.wkey (s : State) (slot : Nat) : Option WKey := (s.sec.wkeys.find? (fun e => e.1 == slot)).map (·.2)

/-- Compute dies whose cores have read regions of weight slots (R443). -/
def State.touch (s : State) (dies slots : List Nat) : State :=
  if slots.isEmpty then s
  else dies.foldl (fun s d => s.modDie d (fun v => { v with touched := (v.touched ++ slots).eraseDups })) s

/-- Every slate of blocks [lo, lo + n) UNWRITTEN (R292, R317, R425). -/
def State.unwrite (s : State) (lo n : Nat) : State :=
  s.modHbm (fun m => { m with slates := m.slates.filter (fun e => decide (e.1 < lo) || decide (lo + n ≤ e.1)) })

/-- A region entry becomes free and its slates UNWRITTEN (R425). -/
def State.freeRegion (s : State) (e : Nat) : State :=
  let s := (s.sec.regions.filter (fun x => x.1 == e)).foldl (fun s x => s.unwrite (x.2.base / 4096) (x.2.len / 4096)) s
  s.modSec (fun x => { x with regions := x.regions.filter (fun r => r.1 ≠ e), releasing := x.releasing.filter (· ≠ e) })

/-- The tenant has a dispatched shot (Table 15-9). -/
def State.tenantBusy (s : State) (t : BitVec 6) : Bool := s.tracked.any (fun x => x.tenant == t)

/-- Releases whose tenant has no dispatched shot any longer take effect (Table 15-9). -/
def State.releasePending (s : State) : State :=
  s.sec.releasing.foldl (fun s e =>
    if (s.sec.regions.filter (fun r => r.1 == e)).any (fun r => s.tenantBusy r.2.owner) then s else s.freeRegion e) s

/-- ACTIVATE's window opens once every dispatched shot has completed (R476). -/
def State.openWindow (s : State) : State :=
  if s.boot.quiescing && s.tracked.isEmpty then s.modBoot (fun b => { b with fwuActivating := true }) else s

/-! ## Cores -/

/-- All physical core keys of a die. -/
def dieKeys (d : Nat) : List Nat := (List.range 34).map (fun p => d * 34 + p)
/-- All physical core keys. -/
def allKeys : List Nat := List.range 544
/-- The core a key names. -/
def keyCore (k : Nat) : CoreId := ⟨Fin.ofNat 16 (k / 34), Fin.ofNat 34 k⟩
/-- LOC of a fault record for a core (Table 12-14). -/
def locCore (k : Nat) : Half := BitVec.ofNat 16 (k / 34 * 1024 + k % 34)

/-- The physical core that holds a logical core (R23, R335). -/
def State.physical (s : State) (l : Nat) : Option Nat :=
  (s.cores.find? (fun e => e.2.logical.toNat == l && (e.2.role == 0 || e.2.role == 1))).map (·.1)

/-- Is the shot tracked? -/
def State.trackedOf (s : State) (r : ShotRef) : Option Tracked :=
  s.tracked.find? (fun t => t.reel == r.reel && t.shot.seq == r.seq)
def State.modTracked (s : State) (r : ShotRef) (g : Tracked → Tracked) : State :=
  { s with tracked := s.tracked.map (fun t => if t.reel == r.reel && t.shot.seq == r.seq then g t else t) }

end Sys2Proof.Machine
end

