-- ==== Sys2Proof/Machine/Mem.lean ====
section
/-!
DEFINITION. HBM memory behind the hubs: the slate of every block (R309 to R317), the checks of a read, whole-block, partial
and merging writes, the poison list, the vault, the checkpoint's shadow copies, and the fault log.
-/
namespace Sys2Proof.Machine

/-- Why an access does not go through: a status with the address it names, or it waits. -/
inductive Stop where
  | fail (st : Half) (addr : Nat)
  | wait
deriving DecidableEq, Repr

/-- What a read serves, for the rule of R431. -/
inductive Use where
  | matrix | convert | other
deriving DecidableEq, Repr

/-- The requester of an access: its tenant (R426), what it serves, and the status of an unmapped address (R287). -/
structure Req where
  tenant : BitVec 6
  use    : Use
  range  : Half
deriving DecidableEq, Repr

/-- The kinds a read accepts (Table 12-4). -/
inductive Accept where
  | any
  | of (kinds : List (BitVec 4 × Option (BitVec 4)))
deriving DecidableEq, Repr

def kUnwritten : BitVec 4 := 0
def kElem : BitVec 4 := 1
def kScale : BitVec 4 := 2
def kIndex : BitVec 4 := 3
def kBitmap : BitVec 4 := 4
def kRecord : BitVec 4 := 5
def kLedger : BitVec 4 := 6
def kRaw : BitVec 4 := 7

def acceptElem (f : Nat) : Accept := .of [(kElem, some (BitVec.ofNat 4 f)), (kRaw, none)]
def acceptScale (f : Nat) : Accept := .of [(kScale, some (BitVec.ofNat 4 f)), (kRaw, none)]
def acceptIndex : Accept := .of [(kIndex, none), (kRaw, none)]
def acceptBitmap : Accept := .of [(kBitmap, none), (kRaw, none)]
def acceptSums : Accept := .of [(kLedger, some 0xA)]
def acceptSpill : Accept := .of [(kLedger, some 0xB)]
def acceptRecord : Accept := .of [(kRecord, none), (kRaw, none)]

def Accept.ok (a : Accept) (sl : Slate) : Bool :=
  match a with
  | .any => sl.kind != kUnwritten
  | .of ks => ks.any (fun k => k.1 == sl.kind && (k.2 == none || k.2 == some sl.fmt))

/-! ## Slates -/

def slate0 (_ : Nat) : Slate := {}
def State.slate (s : State) (blk : Nat) : Slate := tget slate0 s.hbm.slates blk

/-- Slate bytes 8–15 (Table 12-1). -/
def slateTail (sl : Slate) : List Byte :=
  leBytes 2 sl.gen.toNat ++ leBytes 1 (sl.kind.toNat * 16 + sl.fmt.toNat) ++ leBytes 1 (b2n sl.stale) ++ leBytes 4 sl.tidf.toNat

/-- The 16 bytes of a slate (Table 12-1). -/
def slateBytes (sl : Slate) : List Byte := leBytes 8 sl.crc.toNat ++ slateTail sl

/-- The CRC of R310: the block's data, then slate bytes 8–15. -/
def slateCrc (data : List Byte) (sl : Slate) : Dword := crc64 (data ++ slateTail sl)

/-- A slate with its CRC computed over a block's data. -/
def sealSlate (sl : Slate) (data : List Byte) : Slate := { sl with crc := slateCrc data sl }

/-- The slate that 16 received bytes spell (R316). -/
def slateOf (bs : List Byte) : Slate :=
  { crc := BitVec.ofNat 64 (leAt bs 0 8), gen := BitVec.ofNat 16 (leAt bs 8 2),
    kind := BitVec.ofNat 4 (leAt bs 10 1 / 16), fmt := BitVec.ofNat 4 (leAt bs 10 1 % 16),
    stale := leAt bs 11 1 % 2 = 1, tidf := BitVec.ofNat 32 (leAt bs 12 4) }

def State.slateOk (s : State) (blk : Nat) (data : List Byte) : Bool :=
  let sl := s.slate blk
  slateCrc data sl == sl.crc

/-- The stored bytes of a block. -/
def State.block (s : State) (blk : Nat) : List Byte := tread s.hbm.mem (blk * 4096) 4096

/-! ## Poison and vault -/

def State.poisoned (s : State) (blk : Nat) : Bool :=
  let h := s.hub (hubOf blk)
  h.poison.contains blk || h.lost.contains blk

/-- The block is uncorrectable and the full list has not taken it (R302). -/
def State.unlisted (s : State) (blk : Nat) : Bool := (s.hub (hubOf blk)).unlisted.contains blk

/-- A block enters the poison list while it holds fewer than 16,384 entries (R302). -/
def State.poison (s : State) (blk : Nat) : State :=
  s.modHub (hubOf blk) (fun h =>
    if h.poison.contains blk || h.lost.contains blk || 16384 ≤ h.poison.length + h.lost.length then h
    else { h with poison := blk :: h.poison })

/-- A block that has read as uncorrectable: listed, or known without an entry while the list is full (R302). -/
def State.spoil (s : State) (blk : Nat) : State :=
  let u := s.poison blk
  if u.poisoned blk then u else u.modHub (hubOf blk) (fun h => { h with unlisted := blk :: h.unlisted.filter (· ≠ blk) })

/-- A whole-block write removes the block from the list (R302). -/
def State.unpoison (s : State) (blk : Nat) : State :=
  if s.poisoned blk || s.unlisted blk then
    s.modHub (hubOf blk) (fun h =>
      { h with poison := h.poison.filter (· ≠ blk), lost := h.lost.filter (· ≠ blk), unlisted := h.unlisted.filter (· ≠ blk) })
  else s

/-- The set of a vault that a block falls into (R299): one of 1,024, by a function the spec leaves open (assumption 24). -/
def vaultSetOf (blk : Nat) : Nat := Config.vaultSet blk % 1024

/-- Keep at most 16 lines of a set, dropping the least recently used (R299). The list is latest first. -/
def trimSet (set : Nat) : Nat → List VLine → List VLine
  | _, [] => []
  | n, l :: ls =>
    if vaultSetOf l.blk = set then
      (match n with | 0 => trimSet set 0 ls | m + 1 => l :: trimSet set m ls)
    else l :: trimSet set n ls

/-- A line becomes the latest used of its vault (R299); at 16 lines or more its set is trimmed to 16 ways. -/
def Hub.touch (h : Hub) (blk : Nat) (dirty : Bool) : Hub :=
  let was := h.vault.any (fun l => l.blk == blk && l.dirty)
  let rest := h.vault.filter (fun l => l.blk != blk)
  let v := { blk := blk, dirty := dirty || was } :: rest
  { h with vault := if v.length ≤ 16 then v else trimSet (vaultSetOf blk) 16 v }

/-! ## Reading -/

/-- The weight key and tweak of a block in a SEALED or BOUND region (R431). -/
def sealedTweak (r : Region) (a : Nat) : Nat := r.tweak.toNat + (a - r.base) / 4096

/-- The hub answers requests to this block now: boot stage 0x06 has passed (Table 17-1), tenant 0's key is in (R445), clocks run, no
slate reinitialisation (R292), the hub not in reset (R480). -/
def State.hubServes (s : State) (blk : Nat) : Bool :=
  decide (6 ≤ s.boot.stage.toNat) && (s.tenant 0).opened && s.clocks && !s.glb.memBusy && !(s.hub (hubOf blk)).inReset

/-- Region rules of a read (R426, R431): the status of a refusal. -/
def State.denyRead (s : State) (q : Req) (a : Nat) : Option Half :=
  if s.ownerOf a ≠ q.tenant then some 0x0501
  else match s.region a with
    | some r => if r.kind = 0 then none
                else if q.use = .other then some 0x0502
                else if (s.wkey r.slot).isSome then none else some 0x0503
    | none => none

/-- What a permitted read delivers (R431): the stored bytes, deciphered in a SEALED or BOUND region. -/
def State.deliver (s : State) (blk : Nat) (data : List Byte) : List Byte :=
  match s.region (blk * 4096) with
  | some r => if r.kind = 0 then data
              else match s.wkey r.slot with
                | some k => Config.xtsDecrypt k.key (sealedTweak r (blk * 4096)) data
                | none => data
  | none => data

/-- The slate tests of a read in the order of R314: UNWRITTEN, CRC, STALE, KIND. -/
def slateStatus (sl : Slate) (crcOk : Bool) (acc : Accept) : Option Half :=
  if sl.kind = kUnwritten then some 0x0304
  else if !crcOk then some 0x0301
  else if sl.stale then some 0x0302
  else if acc.ok sl then none else some 0x0303

/-- Marks the address of a failure found on a write, which the fault log tells from one found on a read (KIND of Table 12-14). -/
def onWrite : Nat := 2 ^ 64

/-- Marks the address of a failure whose record has been written already. -/
def reported : Nat := 2 ^ 65

/-- The address of a block that has failed its check on the way from another device: no block of this one (R316). -/
def afar : Nat := 2 ^ 66

/-- Read one block with every check (R287, R302, R314, R426, R431). -/
def State.readBlock (s : State) (q : Req) (acc : Accept) (blk : Nat) : Except Stop (List Byte) :=
  let a := blk * 4096
  if !s.mapped a then .error (.fail q.range a)
  else if !s.hubServes blk then .error .wait
  else match s.denyRead q a with
    | some st => .error (.fail st a)
    | none =>
      if s.poisoned blk then .error (.fail 0x0311 a)
      else if s.unlisted blk then .error (.fail 0x0310 a)
      else
        let data := s.block blk
        match slateStatus (s.slate blk) (s.slateOk blk data) acc with
        | some st => .error (.fail st a)
        | none => .ok (s.deliver blk data)

/-- Read blocks blk, blk + 1, …. -/
def State.readBlocks (s : State) (q : Req) (acc : Accept) : Nat → Nat → Except Stop (List Byte)
  | 0, _ => .ok []
  | n + 1, blk => do
    let b ← s.readBlock q acc blk
    let bs ← s.readBlocks q acc n (blk + 1)
    return b ++ bs

/-- Read `len` bytes at `a`. -/
def State.read (s : State) (q : Req) (acc : Accept) (a len : Nat) : Except Stop (List Byte) := do
  if len = 0 then return []
  else
    let n := (a + len - 1) / 4096 - a / 4096 + 1
    let bs ← s.readBlocks q acc n (a / 4096)
    return (bs.drop (a % 4096)).take len

/-! ## Writing -/

/-- A shadow block that holds no copy. -/
def Ckpt.freeShadow (k : Ckpt) : Option Nat :=
  ((List.range k.shadowBlocks).map (k.shadow + ·)).find? (fun b => !k.copies.any (fun c => c.2.1 == b))

/-- Place a block and its slate (R295): memory, slate, vault line dirty. -/
def State.place (s : State) (blk : Nat) (data : List Byte) (sl : Slate) : State :=
  { s with hbm := { mem := tput s.hbm.mem (blk * 4096) data, slates := cset slate0 s.hbm.slates blk sl } }.modHub
    (hubOf blk) (fun h => h.touch blk true)

/-- A write to a pending block first copies it and its slate into the shadow area and clears its pending bit; with no room it
waits (R210). -/
def State.shadow (s : State) (blk : Nat) : Except Stop State :=
  match s.ckpt with
  | none => .ok s
  | some k =>
    if k.pend.contains blk then
      match k.freeShadow with
      | none => .error .wait
      | some sh =>
        let data := s.block blk
        let sl := s.slate blk
        let nsl := sealSlate { sl with gen := (s.slate sh).gen + 1 } data
        .ok { (s.place sh data nsl) with
              ckpt := some { k with pend := k.pend.filter (· ≠ blk), copies := k.copies ++ [(blk, sh, sl)],
                                    waiting := k.waiting.filter (· ≠ blk) } }
    else .ok s

/-- The slate a write leaves (R312, R313): GEN one up; a whole-block write clears STALE; a partial write of another KIND or
format leaves RAW unless the block was UNWRITTEN. -/
def newSlate (old : Slate) (whole : Bool) (kind fmt : BitVec 4) (tid : Word) : Slate :=
  if whole || old.kind = kUnwritten then
    { gen := old.gen + 1, kind := kind, fmt := fmt, stale := old.stale && !whole, tidf := tid }
  else if old.kind = kind && old.fmt = fmt then
    { gen := old.gen + 1, kind := kind, fmt := fmt, stale := old.stale, tidf := tid }
  else { gen := old.gen + 1, kind := kRaw, fmt := 0, stale := old.stale, tidf := tid }

/-- Pieces of bytes laid over a block's data. -/
def overlay (data : List Byte) (ps : List (Nat × List Byte)) : List Byte :=
  ps.foldl (fun d p => putAt d p.1 p.2) data

/-- Encrypt what a tainted conversion writes into its slot's region (R432). -/
def State.encipher (s : State) (taint : List Nat) (blk : Nat) (data : List Byte) : List Byte :=
  match taint, s.region (blk * 4096) with
  | _ :: _, some r => if r.kind = 0 then data
      else match s.wkey r.slot with
        | some k => Config.xtsEncrypt k.key (sealedTweak r (blk * 4096)) data
        | none => data
  | _, _ => data

/-- Write pieces (offset, bytes) of one block in one access (R312, R313, R302, R426, R432). -/
def State.writeBlock (s : State) (q : Req) (taint : List Nat) (kind fmt : BitVec 4) (tid : Word) (blk : Nat)
    (ps : List (Nat × List Byte)) : Except Stop State :=
  let a := blk * 4096
  let whole := decide (4096 ≤ (ps.map (fun p => p.2.length)).sum)
  let sl := s.slate blk
  if !s.mapped a then .error (.fail q.range a)
  else if !s.hubServes blk then .error .wait
  else if s.ownerOf a ≠ q.tenant then .error (.fail 0x0501 a)
  else if taint.any (fun t => (s.region a).all (fun r => r.kind == 0 || r.slot != t)) then .error (.fail 0x0502 a)
  else if s.poisoned blk && !whole then .error (.fail 0x0311 a)
  else if s.unlisted blk && !whole then .error (.fail 0x0310 a)
  else if !whole && sl.kind != kUnwritten && !s.slateOk blk (s.block blk) then .error (.fail 0x0301 (a + onWrite))
  else do
    let s ← s.shadow blk
    let old := if sl.kind = kUnwritten then zeros 4096 else if taint.isEmpty then s.block blk else s.deliver blk (s.block blk)
    let data := s.encipher taint blk (overlay old ps)
    return ((s.unpoison blk).place blk data (sealSlate (newSlate sl whole kind fmt tid) data))

/-- Cut a run of bytes into pieces by block: (block, offset, bytes). -/
def cutRun : Nat → Nat → List Byte → List (Nat × Nat × List Byte)
  | 0, _, _ => []
  | n + 1, a, bs =>
    let m := min bs.length (4096 - a % 4096)
    if m = 0 then [] else (a / 4096, a % 4096, bs.take m) :: cutRun n (a + m) (bs.drop m)

def pieces (a : Nat) (bs : List Byte) : List (Nat × Nat × List Byte) := cutRun (bs.length / 4096 + 2) a bs

/-- The blocks of pieces, each once, in order of first use. -/
def blocksOf (ps : List (Nat × Nat × List Byte)) : List Nat := (ps.map (·.1)).eraseDups

/-- Write many runs (address, bytes) of one tensor: each block takes one write (assumption 23). -/
def State.writeRuns (s : State) (q : Req) (taint : List Nat) (kind fmt : BitVec 4) (tid : Word)
    (rs : List (Nat × List Byte)) : Except Stop State :=
  let ps := rs.flatMap (fun r => pieces r.1 r.2)
  (blocksOf ps).foldlM (fun s b =>
    s.writeBlock q taint kind fmt tid b ((ps.filter (fun p => p.1 == b)).map (fun p => (p.2.1, p.2.2)))) s

/-- Write one run of bytes. -/
def State.write (s : State) (q : Req) (kind fmt : BitVec 4) (tid : Word) (a : Nat) (bs : List Byte) : Except Stop State :=
  s.writeRuns q [] kind fmt tid [(a, bs)]

/-- An atomic read-modify-write of a record (R71, R144, R269, R295): the read passes every test of R314 with the kinds of
Table 12-4, then a partial write as RECORD. -/
def State.rmw (s : State) (q : Req) (a len : Nat) (g : List Byte → List Byte) : Except Stop State := do
  let old ← s.read q acceptRecord a len
  s.write q kRecord 0 0 a (g old)

/-- Set STALE on a block (R315): GEN kept, CRC computed again, UNWRITTEN blocks left alone. -/
def State.markStale (s : State) (blk : Nat) : State :=
  let sl := s.slate blk
  if sl.kind = kUnwritten then s
  else s.modHbm (fun m => { m with slates := cset slate0 m.slates blk (sealSlate { sl with stale := true } (s.block blk)) })

/-! ## Fault log (R346, R347) -/

/-- Ebtor's accesses as tenant 0. -/
def ebtorReq : Req := { tenant := 0, use := .other, range := 0x0201 }

/-- A fault record (Table 12-14). -/
structure FaultRec where
  status : Half := 0
  kind : Nat
  outcome : Nat
  loc : Half := 0
  reel : Nat := 0xFFFF
  addr : Nat := 0
  seq : Word := 0
  tidf : Word := 0
deriving DecidableEq, Repr

def FaultRec.bytes (f : FaultRec) (clap : Dword) : List Byte :=
  leBytes 8 clap.toNat ++ leBytes 2 f.status.toNat ++ leBytes 1 f.kind ++ leBytes 1 f.outcome ++ leBytes 2 f.loc.toNat ++
  leBytes 2 f.reel ++ leBytes 8 f.addr ++ leBytes 4 f.seq.toNat ++ leBytes 4 f.tidf.toNat

/-- Place one record in the log's area: a failed write counts in GLB_FLOG_LOST, one that must wait for its hub waits (R292, R346). -/
def State.logTry (s : State) (slot : Nat) (bs : List Byte) : State :=
  match s.write ebtorReq kRecord 0 0 slot bs with
  | .ok t => t
  | .error .wait => s.modGlb (fun g => { g with flogWait := g.flogWait ++ [(slot, bs)] })
  | .error (.fail _ _) => s.modGlb (fun g => { g with flogLost := satInc g.flogLost })

/-- Records that have waited for their hub. -/
def State.logWaiting (s : State) : State :=
  s.glb.flogWait.foldl (fun s x => s.logTry x.1 x.2) (s.modGlb (fun g => { g with flogWait := [] }))

/-- Write one fault record: counted always, placed when LOCATION ≠ 0, its failure counted in GLB_FLOG_LOST, and sent to the
console of the active control die (R346, R494). After CATTRIP# no record is written (Table 18-8). -/
def State.fault (s : State) (f : FaultRec) : State :=
  if s.pwr.catTrip then s
  else
    let bs := f.bytes s.clap.count
    let slot := s.glb.flogBase.toNat / 65536 * 65536 + s.glb.flogHead.toNat % 2048 * 32
    let s1 := if s.glb.flogBase = 0 then s else s.logTry slot bs
    (s1.modGlb (fun g => { g with flogHead := g.flogHead + 1 })).emit (.uart (Fin.ofNat 2 s.activeCd) bs)

/-- KIND of the record of a slate failure (Table 12-14); none for a status that is no slate detection. -/
def slateKind (st : Half) : Option Nat :=
  if st = 0x0301 then some 1 else if st = 0x0302 then some 3 else if st = 0x0303 then some 4
  else if st = 0x0304 then some 5 else none

/-- The sequence of a slate detection that is not absorbed (R318, Table 12-5): the block is poisoned on a CRC failure at the
hub, and one fault record is written. A block received from another device names no block of this one and poisons none. -/
def State.slateFault (s : State) (st : Half) (addr : Nat) (reel : Nat) (seq : Word) : State :=
  if bit addr 65 then s
  else match slateKind st with
  | none => s
  | some k =>
    if bit addr 66 then
      s.fault { status := st, kind := if k = 1 then 2 else k, outcome := 3, reel := reel, seq := seq }
    else
    let k := if onWrite ≤ addr then 2 else k
    let addr := addr % onWrite
    let s1 := if st = 0x0301 then s.poison (addr / 4096) else s
    s1.fault { status := st, kind := k, outcome := 3, loc := BitVec.ofNat 16 (hubOf (addr / 4096)), reel := reel,
               addr := addr, seq := seq, tidf := (s.slate (addr / 4096)).tidf }

/-! ## Host memory -/

def State.hostRead (s : State) (p : Fin 2) (a len : Nat) : List Byte := tread s.host (p.val * 2 ^ 64 + a) len
def State.hostWrite (s : State) (p : Fin 2) (a : Nat) (bs : List Byte) : State :=
  { s with host := tput s.host (p.val * 2 ^ 64 + a) bs }

end Sys2Proof.Machine
end

