-- ==== Sys2Proof/Machine/Ledger.lean ====
section
/-!
DEFINITION. Ledger arithmetic (chapter 3): contributions, window placement, readout, spill images, LEDGER96 blocks and the
two passes of a chained reduction.
-/
namespace Sys2Proof

/-- The largest |L| of an EXACT or WIDE ledger (R83, R88). -/
def Ledger.limit (g : Ledger) : Nat := if g.wide then 2 ^ 63 - 1 else 2 ^ 191 - 1

/-- A cleared ledger (R77) at a window base. -/
def Ledger.cleared (wide : Bool) (wbase : Int) : Ledger := { wbase := wbase, wide := wide }

/-- x × 2^e rounded to the nearest even integer, and whether nonzero bits were discarded (R81). -/
def rneShift (x : Int) (e : Int) : Int × Bool :=
  if 0 ≤ e then (x * pow2Num e, false)
  else
    let d := pow2Den e
    let q := x.natAbs / d
    let r := x.natAbs % d
    let m := if d < 2 * r || (d = 2 * r && q % 2 = 1) then q + 1 else q
    (if x < 0 then -(m : Int) else (m : Int), decide (r ≠ 0))

/-- Saturation of sign `neg` (R83): the limit of that sign, or NaN when it meets a saturation of the other sign. -/
def Ledger.saturate (g : Ledger) (neg : Bool) : Ledger :=
  if g.sat && decide (g.l < 0) != neg then { g with nan := true }
  else { g with sat := true, l := if neg then -(g.limit : Int) else g.limit }

/-- A finite contribution num × 2^exp (R78, R81, R83). -/
def Ledger.addFin (g : Ledger) (num exp : Int) : Ledger :=
  let r := rneShift num (exp - g.wbase)
  if g.sat then
    -- finite contributions are ignored; one that overflows on its own with the other sign sets NaN (R83)
    if g.limit < r.1.natAbs && decide (g.l < 0) != decide (r.1 < 0) then { g with nan := true } else g
  else
    let g := if r.2 then { g with wloss := true } else g
    let t := g.l + r.1
    if g.limit < t.natAbs then g.saturate (decide (t < 0)) else { g with l := t }

/-- One contribution (R76 to R78, R83). NZ is set by a first contribution of −0 and cleared by the first later one that is
not −0; EMPTY is cleared by the first contribution. -/
def Ledger.add (g : Ledger) (c : Contrib) : Ledger :=
  if g.nan then g
  else match c with
  | .negZero => { g with nz := g.empty || g.nz, empty := false }
  | .nan => { g with nan := true, nz := false, empty := false }
  | .inf neg => { g with nz := false, empty := false }.saturate neg
  | .fin num exp => { g with nz := false, empty := false }.addFin num exp

/-- The contribution of an exact dyadic value n / d (d a power of two). -/
def Num.contrib : Num → Contrib
  | .fin n d => .fin n (-(d.log2 : Int))
  | .negZero => .negZero
  | .inf b => .inf b
  | .nan => .nan

/-- The product of two elements as a contribution (R59, R83). DESIGN CHOICE (assumption 62): a zero product of integer elements takes
the exclusive-or of the signs too, so 0 times a negative contributes −0; R68 gives a rule for the vector engine alone. -/
def Elem.mul (a b : Elem) : Contrib :=
  match a, b with
  | .nan, _ | _, .nan => .nan
  | .inf x, .inf y => .inf (x != y)
  | .inf x, .fin y s _ => if s = 0 then .nan else .inf (x != y)
  | .fin x s _, .inf y => if s = 0 then .nan else .inf (x != y)
  | .fin x s e, .fin y t f =>
    if s = 0 || t = 0 then (if x != y then .negZero else .fin 0 0)
    else .fin (if x != y then -((s * t : Nat) : Int) else ((s * t : Nat) : Int)) (e + f)

/-- Exact sum of two contributions of one adder block. A sum is −0 only when every product is −0. -/
def Contrib.plus (a b : Contrib) : Contrib :=
  match a, b with
  | .nan, _ | _, .nan => .nan
  | .inf x, .inf y => if x = y then .inf x else .nan
  | .inf x, _ => .inf x
  | _, .inf y => .inf y
  | .negZero, .negZero => .negZero
  | .negZero, c => c
  | c, .negZero => c
  | .fin n e, .fin m f => if e ≤ f then .fin (n + m * pow2Num (f - e)) e else .fin (n * pow2Num (e - f) + m) f

/-- A contribution times a block scale σ (R81); a NaN scale makes a NaN contribution (R59). -/
def Contrib.scale (c : Contrib) (s : Option (Nat × Int)) : Contrib :=
  match s, c with
  | none, _ => .nan
  | some (m, e), .fin n x => .fin (n * m) (x + e)
  | some _, c => c

/-- An element of a block with a zero UE6M2 scale reads as a zero with its sign (R51, R59). -/
def Elem.underScale (x : Elem) (s : Option (Nat × Int)) : Elem :=
  match s, x with
  | some (0, _), .fin n _ _ => .fin n 0 0
  | _, x => x

/-- The contribution of one adder block (R81, R83): the products of its present element pairs; none when it has none (R77). -/
def blockContrib (pairs : List (Elem × Elem)) (sa sb : Option (Nat × Int)) : Option Contrib :=
  match pairs.map (fun p => (p.1.underScale sa).mul (p.2.underScale sb)) with
  | [] => none
  | c :: cs => some (((cs.foldl Contrib.plus c).scale sa).scale sb)

/-! ## Window placement (R79) -/

/-- Table 3-3, operand in blocks: u for a block scale exponent bound s. -/
def uBlock (f : EFmt) (s : Int) : Int :=
  match f with
  | .e2m1 => s + 3 | .int4 => s + 4 | .e4m3 => s + 9 | .e5m2 => s + 16 | .int8 => s + 2 | _ => s

/-- Table 3-3, plain operand: u, tightened by its sillage record's AMAX when the shot gives one. -/
def uPlain (f : EFmt) (amax : Option Word) (mscale : Word) : Int :=
  let u : Int := match f with
    | .e2m1 => 3 | .int4 => 4 | .e4m3 => 9 | .e5m2 => 16 | .int8 => 8 | .f16 => 16 | .bf16 => 128 | .f32 => 128
  match amax with
  | none => u
  | some w =>
    let x := f32Num w
    let s := f32Num mscale
    if 0 < x.n then min u (floorLog2 x.n.toNat x.d - floorLog2 s.n.toNat s.d + 2) else u

/-- T of R79: the largest uA + uB + 5, 0 when no adder block enters. -/
def windowT (us : List (Option Int × Option Int)) : Int :=
  match us.filterMap (fun p => match p with | (some a, some b) => some (a + b + 5) | _ => none) with
  | [] => 0
  | t :: ts => ts.foldl max t

/-- WBASE of R79 and R88. -/
def windowBase (wide : Bool) (t : Int) : Int := if wide then t - 48 else t - 168

/-! ## Readout (R84) -/

/-- The source value of a conversion from a ledger, in the precedence of R84, and whether it is a saturated ledger. -/
def Ledger.readout (g : Ledger) (sa sb : Num) : Num :=
  if g.nan then .nan
  else if g.sat then .inf (decide (g.l < 0))
  else if g.l = 0 then (if g.nz then .negZero else .fin 0 1)
  else ((dyadic g.l g.wbase).mul sa).mul sb

/-! ## Spill images (R85, R86, Table 3-4) -/

def Ledger.spill (g : Ledger) : List Byte :=
  leBytes 24 (ofSigned 192 g.l) ++ leBytes 2 (ofSigned 16 g.wbase) ++
  leBytes 1 (b2n g.wloss + 2 * b2n g.sat + 4 * b2n g.nan + 8 * b2n g.nz + 16 * b2n g.empty + 32 * b2n g.wide) ++ zeros 5

/-- Reload a spill image; none for the invalid images of R86. -/
def Ledger.reload (im : List Byte) : Option Ledger :=
  let l := toSigned 192 (leAt im 0 24)
  let wb := toSigned 16 (leAt im 24 2)
  let st := leAt im 26 1
  let g : Ledger := { l := l, wbase := wb, wloss := bit st 0, sat := bit st 1, nan := bit st 2, nz := bit st 3,
                      empty := bit st 4, wide := bit st 5 }
  if wb < -2048 || 2047 < wb || 64 ≤ st || leAt im 27 5 ≠ 0 || g.limit < l.natAbs then none else some g

/-! ## LEDGER96 (R91 to R97) -/

/-- A transport element of Table 3-6. -/
inductive L96 where
  | fin (v : Int)
  | negZero | empty | nan
  | sat (neg : Bool)
deriving DecidableEq, Repr

/-- Table 3-6; none for a reserved code. -/
def L96.decode (c : Nat) : Option L96 :=
  if c = 2 ^ 95 then some .nan
  else if c = 2 ^ 95 + 1 then some (.sat true)
  else if c = 2 ^ 95 + 2 then some .negZero
  else if c = 2 ^ 95 + 3 then some .empty
  else if c = 2 ^ 95 - 1 then some (.sat false)
  else if c ≤ 2 ^ 94 then some (.fin c)
  else if 2 ^ 95 + 2 ^ 94 ≤ c then some (.fin ((c : Int) - 2 ^ 96))
  else none

def L96.code : L96 → Nat
  | .nan => 2 ^ 95 | .sat true => 2 ^ 95 + 1 | .negZero => 2 ^ 95 + 2 | .empty => 2 ^ 95 + 3
  | .sat false => 2 ^ 95 - 1 | .fin v => ofSigned 96 v

/-- A LEDGER96 block (Table 3-5). -/
structure L96Block where
  bexp  : Int
  wloss : Bool
  elems : List L96
deriving DecidableEq, Repr

def L96Block.bytes (b : L96Block) : List Byte :=
  leBytes 2 (ofSigned 16 b.bexp) ++ leBytes 1 (b2n b.wloss) ++ zeros 13 ++ b.elems.flatMap (fun e => leBytes 12 e.code)

/-- Decode 400 bytes; none for a reserved element code or a nonzero reserved header bit (R92). -/
def L96Block.decode (bs : List Byte) : Option L96Block :=
  let es := (List.range 32).map (fun i => L96.decode (leAt bs (16 + 12 * i) 12))
  if leAt bs 2 1 < 2 && leAt bs 3 13 = 0 && es.all Option.isSome then
    some { bexp := toSigned 16 (leAt bs 0 2), wloss := leAt bs 2 1 = 1, elems := es.filterMap id }
  else none

/-- A ledger as a transport element at BEXP, and whether the block's WLOSS is set by it (R93). -/
def Ledger.toL96 (g : Ledger) (bexp : Int) : L96 × Bool :=
  if g.nan then (.nan, g.wloss)
  else if g.sat then (.sat (decide (g.l < 0)), g.wloss)
  else if g.empty then (.empty, g.wloss)
  else if g.l = 0 && g.nz then (.negZero, g.wloss)
  else let r := rneShift g.l (g.wbase - bexp); (.fin r.1, r.2 || g.wloss)

/-- Table 3-7. -/
def L96.combine (a b : L96) : L96 :=
  match a, b with
  | .nan, _ | _, .nan => .nan
  | .sat x, .sat y => if x = y then .sat x else .nan
  | .sat x, _ | _, .sat x => .sat x
  | .empty, x => x
  | x, .empty => x
  | .negZero, x => x
  | x, .negZero => x
  | .fin v, .fin w => .fin (v + w)

/-- R94: FLAGS of the result are the OR of both blocks' FLAGS. -/
def L96Block.combine (a b : L96Block) : L96Block :=
  { bexp := a.bexp, wloss := a.wloss || b.wloss, elems := List.zipWith L96.combine a.elems b.elems }

/-- P of R95: floor(log2 |L × 2^WBASE|) of a finite nonzero ledger. -/
def Ledger.p (g : Ledger) : Option Int :=
  if g.nan || g.sat || g.empty || g.l = 0 then none else some ((g.l.natAbs.log2 : Int) + g.wbase)

/-- The larger of two optional exponents. -/
def maxP (a b : Option Int) : Option Int :=
  match a, b with
  | none, x => x
  | x, none => x
  | some x, some y => some (max x y)

/-- BEXP = Pmax + c − 93 with c = ceil(log2 G), 0 when no member had a P (R95). -/
def bexpOf (p : Option Int) (g : Nat) : Int :=
  match p with
  | none => 0
  | some x => x + ceilLog2 g - 93

/-- A transport element as a contribution to a ledger (R96); EMPTY is none. -/
def L96.contrib (e : L96) (bexp : Int) : Option Contrib :=
  match e with
  | .nan => some .nan | .sat n => some (.inf n) | .empty => none | .negZero => some .negZero
  | .fin v => some (.fin v bexp)

/-- Add one transport element into a ledger (R96). -/
def Ledger.addL96 (g : Ledger) (e : L96) (bexp : Int) (wl : Bool) : Ledger :=
  let g := match e.contrib bexp with | some c => g.add c | none => g
  if wl then { g with wloss := true } else g

/-- A transport element as a source value of a conversion (R380, R84 with unit master scales). -/
def L96.num (e : L96) (bexp : Int) : Num :=
  match e with
  | .nan => .nan | .sat n => .inf n | .empty => .fin 0 1 | .negZero => .negZero
  | .fin v => if v = 0 then .fin 0 1 else dyadic v bexp

end Sys2Proof
end

