-- ==== Sys2Proof/Machine/Rand.lean ====
section
/-!
DEFINITION. The draw function G(SEED, STREAM, j) of the lane generators (chapter 8), bit for bit.
-/
namespace Sys2Proof

/-- mix64 of R218. -/
def mix64 (z : Dword) : Dword :=
  let z := (z ^^^ (z >>> 30)) * 0xBF58476D1CE4E5B9#64
  let z := (z ^^^ (z >>> 27)) * 0x94D049BB133111EB#64
  z ^^^ (z >>> 31)

/-- The exponents t of the A and B polynomials of a lane (Table 8-1). -/
def laneA (k : Nat) : Nat := match k / 8 with | 0 => 1 | 1 => 7 | 2 => 15 | _ => 30
def laneB (k : Nat) : Nat :=
  match k % 8 with | 0 => 3 | 1 => 6 | 2 => 7 | 3 => 13 | 4 => 18 | 5 => 24 | 6 => 25 | _ => 28

/-- `m` single advances of a register of degree n with polynomial x^n + x^t + 1 (R217). -/
def lfsr (n t : Nat) : Nat → Nat → Nat
  | 0, x => x
  | m + 1, x => lfsr n t m (x / 2 + (if x.testBit t != x.testBit 0 then 2 ^ (n - 1) else 0))

/-- seed_lane of R218: the registers A and B. -/
def seedLane (seed stream base : Dword) (k : Nat) : Nat × Nat :=
  let h0 := mix64 (seed ^^^ mix64 (stream ^^^ mix64 (base ^^^ (BitVec.ofNat 64 k <<< 56))))
  let h1 := (mix64 (h0 + 1)).toNat
  let h2 := (mix64 (h0 + 2)).toNat
  let a := h1 + 2 ^ 64 * (h2 % 2 ^ 63)
  let b := h0.toNat % 2 ^ 31
  (if a = 0 then 1 else a, if b = 0 then 1 else b)

/-- The output filter of R219. -/
def laneOut (a b : Nat) : Nat :=
  let t : Word := BitVec.ofNat 32 a + BitVec.ofNat 32 b
  let t := t ^^^ (t >>> 15)
  let t := t * 0x2C1B3C6D#32
  let t := t ^^^ (t >>> 12)
  t.toNat / 65536

/-- G(SEED, STREAM, j) (R214, R216, R219). -/
def draw (seed stream : Dword) (j : Nat) : Nat :=
  let j := j % 2 ^ 64
  let k := j % 32
  let i := j % 1024 / 32
  let s := seedLane seed stream (BitVec.ofNat 64 (j - j % 1024)) k
  laneOut (lfsr 127 (laneA k) (16 * (i + 1)) s.1) (lfsr 31 (laneB k) (16 * (i + 1)) s.2)

/-- The rotation sign of reduction index j (R162): bit 15 of the draw set means −1. -/
def rotNeg (seed stream : Dword) (j : Nat) : Bool := (draw seed stream j).testBit 15

end Sys2Proof
end

