-- ==== Sys2Proof/Machine/Flags.lean ====
section
/-!
DEFINITION. What a conversion writes and what it leaves behind: the block conversion of R60 to R65 with pruning (R132) and
base-note split (R192), the sillage record (R69 to R73), the presence bits (R136), the routing record (R144) and the
completion record (R266).
-/
namespace Sys2Proof

/-- One source element of a conversion: its exact value and, for a ledger, its WLOSS and SAT (R70). -/
structure Src where
  v     : Num
  wloss : Bool := false
  sat   : Bool := false
deriving DecidableEq, Repr

/-- The counts of a conversion, before they saturate (Table 2-9). -/
structure Sill where
  amax  : Word := 0
  wloss : Bool := false
  sat   : Bool := false
  elems : Nat := 0
  clips : Nat := 0
  nans  : Nat := 0
  infs  : Nat := 0
deriving DecidableEq, Repr

def wordMax (a b : Word) : Word := if a.toNat < b.toNat then b else a

/-- Count one source element (R70). -/
def Sill.count (g : Sill) (x : Src) (clip : Bool) : Sill :=
  let g := { g with elems := g.elems + 1, wloss := g.wloss || x.wloss, sat := g.sat || x.sat,
                    clips := g.clips + b2n clip }
  match x.v with
  | .nan => { g with nans := g.nans + 1 }
  | .inf _ => { g with infs := g.infs + 1 }
  | .negZero => g
  | .fin n d => if n = 0 then g else { g with amax := wordMax g.amax (f32Up n.natAbs d) }

/-- Counts of two pieces of one conversion together. -/
def Sill.plus (a b : Sill) : Sill :=
  { amax := wordMax a.amax b.amax, wloss := a.wloss || b.wloss, sat := a.sat || b.sat, elems := a.elems + b.elems,
    clips := a.clips + b.clips, nans := a.nans + b.nans, infs := a.infs + b.infs }

/-- A field of `w` bits that saturates at all ones, with whether it did. -/
def satField (w n : Nat) : Nat × Bool := if n < 2 ^ w then (n, false) else (2 ^ w - 1, true)

/-- The 32 bytes of Table 2-9. -/
def sillBytes (amax : Word) (flags elems clips nans infs : Nat) : List Byte :=
  leBytes 4 amax.toNat ++ leBytes 4 flags ++ leBytes 8 elems ++ leBytes 4 clips ++ leBytes 4 nans ++ leBytes 4 infs ++ zeros 4

/-- The partial record of a committed part (R70, R72). -/
def Sill.record (g : Sill) (partialParts : Bool) : List Byte :=
  let e := satField 64 g.elems
  let c := satField 32 g.clips
  let n := satField 32 g.nans
  let i := satField 32 g.infs
  sillBytes g.amax (b2n g.wloss + 2 * b2n g.sat + 4 * b2n (e.2 || c.2 || n.2 || i.2) + 8 * b2n partialParts) e.1 c.1 n.1 i.1

/-- R71: record P (first) merged into record Q. -/
def mergeSillage (p q : List Byte) : List Byte :=
  let e := satField 64 (leAt p 8 8 + leAt q 8 8)
  let c := satField 32 (leAt p 16 4 + leAt q 16 4)
  let n := satField 32 (leAt p 20 4 + leAt q 20 4)
  let i := satField 32 (leAt p 24 4 + leAt q 24 4)
  sillBytes (BitVec.ofNat 32 (max (leAt p 0 4) (leAt q 0 4)))
    ((leAt p 4 4 ||| leAt q 4 4) ||| (if e.2 || c.2 || n.2 || i.2 then 4 else 0)) e.1 c.1 n.1 i.1

/-- R144: routing record P merged into record Q, field by field. -/
def mergeRouting (p q : List Byte) : List Byte :=
  let f := fun a => (satField 64 (leAt p a 8 + leAt q a 8)).1
  leBytes 8 (f 0) ++ leBytes 8 (f 8) ++ leBytes 8 (f 16) ++
  leBytes 4 (satField 32 (leAt p 24 4 + leAt q 24 4)).1 ++ zeros 4

/-! ## Conversion -/

/-- A destination format with what its descriptor carries: master scale, seed and stream (Table 9-6). -/
structure DstFmt where
  f      : EFmt
  lay    : Layout
  ocp    : Bool
  rnd    : Bool
  sill   : Bool
  s      : Word
  seed   : Dword
  stream : Dword
deriving DecidableEq, Repr

/-- What becomes of a source element: converted, written as code 0 because a base-note list names it (R192), or pruned
(R132). -/
inductive Keep where
  | conv | zero | drop
deriving DecidableEq, Repr

/-- x divided exactly by a positive finite value n / d. -/
def Num.divBy (x : Num) (n d : Nat) : Num :=
  match x with
  | .fin a b => .fin (a * d) (b * n)
  | y => y

/-- Rounding of one element: the draw of its logical index j (R61, R165, R215). -/
def DstFmt.round (d : DstFmt) (j : Nat) : Rnd := if d.rnd then .sto (draw d.seed d.stream j) else .rne

/-- The exact clip test of R63 on a scaled value. -/
def EFmt.clipsNum (f : EFmt) (x : Num) : Bool :=
  match x with
  | .fin n d => f.clips n.natAbs d
  | _ => false

/-- The largest finite magnitude among the kept elements, as numerator and denominator (A of R62). -/
def largest (xs : List (Src × Keep × Nat)) : Nat × Nat :=
  xs.foldl (fun m x =>
    match x.2.1, x.1.v with
    | .conv, .fin n d => if m.1 * d < n.natAbs * m.2 then (n.natAbs, d) else m
    | _, _ => m) (0, 1)

/-- A converted block: element codes of the elements that are written, its scale byte, its counts. -/
structure ConvBlock where
  codes : List Nat
  scale : Nat
  sill  : Sill
deriving DecidableEq, Repr

/-- Convert one block of a block layout (R62 to R65). Each element comes with its logical index. -/
def DstFmt.convBlock (d : DstFmt) (xs : List (Src × Keep × Nat)) : ConvBlock :=
  let bad := xs.any (fun x => decide (x.2.1 = .conv) && !x.1.v.isFin)
  let written := xs.filter (fun x => decide (x.2.1 ≠ .drop))
  if bad then
    { codes := written.map (fun _ => 0), scale := 0xFF, sill := xs.foldl (fun g x => g.count x.1 false) {} }
  else
    let a := largest xs
    let s := f32Num d.s
    let b := chooseScale d.f d.lay d.ocp a.1 a.2 s.n.toNat s.d
    let p := (scaleParts d.lay b).getD (1, 0)
    let e : Int := if decide (d.f = .int8) && decide (d.lay = .coarse) then p.2 - 6 else p.2
    let scaled := fun (x : Num) => x.divBy (p.1 * pow2Num e * s.n.toNat) (pow2Den e * s.d)
    { codes := written.map (fun x => if x.2.1 = .zero then 0 else d.f.conv true (d.round x.2.2) (scaled x.1.v)),
      scale := b,
      sill := xs.foldl (fun g x => g.count x.1 (decide (x.2.1 = .conv) && d.f.clipsNum (scaled x.1.v))) {} }

/-- Convert elements of a plain layout: divide by S (R52, R60). -/
def DstFmt.convPlain (d : DstFmt) (xs : List (Src × Keep × Nat)) : ConvBlock :=
  let s := f32Num d.s
  let scaled := fun (x : Num) => x.divBy s.n.toNat s.d
  { codes := (xs.filter (fun x => decide (x.2.1 ≠ .drop))).map
      (fun x => if x.2.1 = .zero then 0 else d.f.conv false (d.round x.2.2) (scaled x.1.v)),
    scale := 0,
    sill := xs.foldl (fun g x => g.count x.1 (decide (x.2.1 = .conv) && d.f.clipsNum (scaled x.1.v))) {} }

/-- Cut a list into runs of `n`. -/
def runsOf {α : Type} (n : Nat) : Nat → List α → List (List α)
  | 0, _ => []
  | k + 1, l => match l with
    | [] => []
    | _ => l.take n :: runsOf n k (l.drop n)

def cut {α : Type} (n : Nat) (l : List α) : List (List α) := runsOf n l.length l

/-- Convert one row of elements, block by block along the row (R55). -/
def DstFmt.convRow (d : DstFmt) (xs : List (Src × Keep × Nat)) : List ConvBlock :=
  match d.lay with
  | .plain => [d.convPlain xs]
  | l => (cut l.block xs).map d.convBlock

/-- Magnitudes rank for pruning (R132): NaN, then infinities, then finite values. True when `a` ranks above `b`. -/
def pruneAbove (a b : Num) : Bool :=
  match a, b with
  | .nan, .nan => false
  | .nan, _ => true
  | _, .nan => false
  | x, y => y.abs.lt x.abs

/-- The rank of element i in its group: how many others stay before it (ties to the lower position). -/
def pruneRank (g : List Num) (i : Nat) : Nat :=
  ((List.range g.length).filter (fun k =>
    k != i && (let a := g.getD k .nan; let b := g.getD i .nan; pruneAbove a b || (decide (k < i) && !pruneAbove b a)))).length

/-- The positions of a group of four that pruning keeps (R132). -/
def keptOf (spat : Nat) (g : List Num) : List Nat :=
  let n := if spat = 1 then 2 else 1
  (List.range g.length).filter (fun i => pruneRank g i < n)

/-- Mark the elements of a row for pruning, and the 2-bit indices of the kept ones (R127, R132). -/
def pruneRow (spat : Nat) (xs : List (Src × Keep × Nat)) : List (Src × Keep × Nat) × List Nat :=
  let gs := cut 4 xs
  let n := if spat = 1 then 2 else 1
  let ks := gs.map (fun g => keptOf spat (g.map (fun x => x.1.v)))
  -- a group cut short by the end of the row stores pad positions too (R127, R128)
  let ix := ks.map (fun k => k ++ ((List.range 4).filter (fun i => !k.contains i)).take (n - k.length))
  ((List.zipWith (fun g k => (List.range g.length).map (fun i =>
      let x := g.getD i ({ v := .nan }, .drop, 0)
      if k.contains i then x else (x.1, Keep.drop, x.2.2))) gs ks).flatten, ix.flatten)

/-- Pack the codes of one row (R49): four-bit elements two to a byte, wider ones little-endian. -/
def packPairs : List Nat → List Byte
  | [] => []
  | [a] => [BitVec.ofNat 8 a]
  | a :: b :: r => BitVec.ofNat 8 (a + 16 * b) :: packPairs r

def EFmt.pack (f : EFmt) (codes : List Nat) : List Byte :=
  if f.bits = 4 then packPairs codes else codes.flatMap (fun c => leBytes (f.bits / 8) c)

/-- Bytes of a packed row of n elements (R49). -/
def EFmt.rowBytes (f : EFmt) (n : Nat) : Nat := ceilDiv (n * f.bits) 8

/-- Element `i` of packed bytes (R49). -/
def EFmt.code1 (f : EFmt) (bs : List Byte) (i : Nat) : Nat :=
  if f.bits = 4 then (leAt bs (i / 2) 1 >>> (4 * (i % 2))) % 16 else leAt bs (i * (f.bits / 8)) (f.bits / 8)

/-- A run of 2-bit values, little-endian within bytes (R128). -/
def packIndex : List Nat → List Byte
  | [] => []
  | [a] => [BitVec.ofNat 8 a]
  | [a, b] => [BitVec.ofNat 8 (a + 4 * b)]
  | [a, b, c] => [BitVec.ofNat 8 (a + 4 * b + 16 * c)]
  | a :: b :: c :: d :: r => BitVec.ofNat 8 (a + 4 * b + 16 * c + 64 * d) :: packIndex r

/-- Bits packed eight to a byte (R134). -/
def packBits (bs : List Bool) : List Byte :=
  (cut 8 bs).map (fun g => BitVec.ofNat 8 ((List.range g.length).foldl (fun n i => n + b2n (g.getD i false) * 2 ^ i) 0))

/-- A code whose element value is a zero of either sign. -/
def EFmt.zeroCode (f : EFmt) (c : Nat) : Bool := c = 0 || (!f.isInt && c = 2 ^ (f.bits - 1))

/-- The presence bits of a converted row of n elements (R136): 0 exactly when every element of the 32 is a zero code and no
scale of it is NaN. -/
def presenceBits (d : DstFmt) (n : Nat) (bs : List ConvBlock) : List Bool :=
  let codes := bs.flatMap (·.codes)
  let nan := fun (p : Nat) => match d.lay with
    | .plain => false
    | .coarse => ((bs.getD p ⟨[], 0, {}⟩).scale == 0xFF)
    | .fine => ((bs.getD (2 * p) ⟨[], 0, {}⟩).scale == 0xFF) || ((bs.getD (2 * p + 1) ⟨[], 0, {}⟩).scale == 0xFF)
  (List.range (ceilDiv n 32)).map (fun p =>
    nan p || !((codes.drop (32 * p)).take 32).all d.f.zeroCode)

/-! ## Completion record -/

/-- Table 10-5. -/
def completionRecord (seq : Word) (status : Half) (wloss sat part : Bool) (nparts : Nat) (failmask : Dword) : List Byte :=
  leBytes 4 seq.toNat ++ leBytes 2 status.toNat ++ leBytes 1 (b2n wloss + 2 * b2n sat + 4 * b2n part) ++
  leBytes 1 nparts ++ leBytes 8 failmask.toNat

/-- Units of part p of T units in n parts (R267): first unit and one past the last. -/
def partRange (t n p : Nat) : Nat × Nat := (p * t / n, (p + 1) * t / n)

/-- NPARTS of T units of work (R267); at least 1. -/
def partsOf (t : Nat) : Nat := max 1 (min 64 t)

end Sys2Proof
end

