-- ==== Sys2Proof/Machine/Operands.lean ====
section
/-!
DEFINITION. The descriptors a shot or an instruction names: the tensor format descriptor (Table 2-6), operand and destination
blocks (Tables 9-5, 9-6), the product descriptor (Table 9-4), the convolution descriptor (R239) and the tile-transfer
descriptor (Table 9-11), each read from its bytes with the checks that fail it.
-/
namespace Sys2Proof

/-- A tensor format descriptor that names an element format (R57, R58). -/
structure Tfd where
  f    : EFmt
  lay  : Layout
  ocp  : Bool
  rnd  : Bool
  sill : Bool
deriving DecidableEq, Repr

def stSuccess : Half := 0x0000
def stOpcode : Half := 0x0101
def stVersion : Half := 0x0102
def stLength : Half := 0x0103
def stRsvd : Half := 0x0104
def stFormat : Half := 0x0105
def stScale : Half := 0x0106
def stNotAdmin : Half := 0x0107
def stSeqOrder : Half := 0x0108
def stRecipe : Half := 0x0109
def stExtension : Half := 0x010A
def stRange : Half := 0x0201
def stAlign : Half := 0x0202
def stIndexRange : Half := 0x0220
def stBnList : Half := 0x0221
def stOperandRange : Half := 0x0222

/-- LAYOUT of Table 2-6. -/
def Layout.ofCode (c : Nat) : Option Layout :=
  match c with
  | 0 => some .plain | 1 => some .coarse | 2 => some .fine | _ => none

/-- Table 2-2: the layouts an element format may take. -/
def layoutOk (f : EFmt) (l : Layout) : Bool :=
  match l, f with
  | .plain, _ => true
  | .coarse, .e2m1 | .coarse, .int4 | .coarse, .e4m3 | .coarse, .e5m2 | .coarse, .int8 => true
  | .fine, .e2m1 | .fine, .int4 => true
  | _, _ => false

/-- R58: none is the outcome of R43. -/
def Tfd.parse (w : Nat) : Option Tfd :=
  match EFmt.ofCode (w % 16), Layout.ofCode (fld w 4 2) with
  | some f, some l =>
    if w < 0x200 && layoutOk f l then some { f := f, lay := l, rnd := bit w 6, ocp := bit w 7, sill := bit w 8 } else none
  | _, _ => none

/-- A TFD of a destination: fine blocks with SRULE = 1 have the outcome of R58 (R62). -/
def Tfd.parseDst (w : Nat) : Option Tfd :=
  match Tfd.parse w with
  | some t => if t.lay = .fine && t.ocp then none else some t
  | none => none

/-- The format of a layout's scale tensor (Table 2-2). -/
def Layout.scaleFmt : Layout → Nat
  | .fine => 9 | _ => 8

/-- What a recipe reference puts in a block (R189, R270). -/
structure Ref where
  tfd     : Half
  rot     : Nat
  rotSeed : Dword
  rotStrm : Dword
  mscale  : Word
  seed    : Dword
  stream  : Dword
  sill    : Nat
  bnAddr  : Nat
  bnCnt   : Nat
  tid     : Word
  /-- source TFD of an operand that the prologue transposes (R158, R204, assumption 61) -/
  trans   : Option Half
deriving DecidableEq, Repr

/-- The order n of a rotation (Table 6-3). -/
def rotOrder (c : Nat) : Nat :=
  match c with
  | 1 => 16 | 2 => 64 | 3 => 256 | _ => 0

/-- An operand as it enters the path: Table 9-5 with its recipe reference resolved. -/
structure Opnd where
  addr    : Nat
  scale   : Nat
  aux     : Nat
  sill    : Nat
  mscale  : Word
  t       : Tfd
  rot     : Nat
  pre     : Bool
  srec    : Bool
  auxk    : Nat
  ld      : Nat
  rotSeed : Dword
  rotStrm : Dword
  qSeed   : Dword
  qStrm   : Dword
  bnAddr  : Nat
  bnCnt   : Nat
  /-- the TFD of the stored tensor when the prologue transposes it (R158, R204) -/
  tr      : Option Tfd
  /-- rows of the operand, M or N: the row length of a tensor that is transposed -/
  rows    : Nat
deriving DecidableEq, Repr

/-- A destination: Table 9-6 with its recipe reference resolved. -/
structure Dst where
  addr  : Nat
  scale : Nat
  sill  : Nat
  pres  : Nat
  fmt   : DstFmt
  spat  : Nat
  hasP  : Bool
  ld    : Nat
  tid   : Word
  bnAddr : Nat
  bnCnt : Nat
deriving DecidableEq, Repr

/-- The first failing check of a list of them. -/
def firstBad (cs : List (Bool × Half)) : Option Half := (cs.find? (fun c => c.1)).map (·.2)

/-- Answer a value unless a check fails. -/
def checked {α : Type} (cs : List (Bool × Half)) (a : α) : Except Half α :=
  match firstBad cs with
  | some st => .error st
  | none => .ok a

/-- An address field [39:0] with [63:40] reserved (R269). -/
def addrBad (l : List Byte) (a : Nat) : Bool := leAt l (a + 5) 3 != 0

/-- Does the prologue rotate this operand (R160)? -/
def Opnd.rotates (o : Opnd) : Bool := o.rot ≠ 0 && !o.pre

/-- A transposed source whose elements reach the arrays as they are stored (R158): plain, in the operand's own format. -/
def Opnd.moves (o : Opnd) (src : Tfd) : Bool := src.lay = .plain && o.t.lay = .plain && src.f = o.t.f

/-- Does the prologue quantise this operand (R158, R160, R165, assumptions 28 and 61)? An operand already rotated in memory is not
quantised. -/
def Opnd.quant (o : Opnd) : Bool :=
  o.rotates || (!o.pre && (match o.tr with | some src => !o.moves src | none => false))

/-- A transposition that would need the quantisation it does not have (R158). -/
def Opnd.transBad (o : Opnd) : Bool :=
  !o.quant && (match o.tr with | some src => !o.moves src | none => false)

/-- The TFD of the elements as they are stored. -/
def Opnd.srcT (o : Opnd) : Tfd := o.tr.getD o.t

/-- Bytes that an operand's elements and its scales span: as the rows of a product, or as the tensor that is transposed. -/
def Opnd.extent (o : Opnd) (rows k : Nat) : Nat × Nat :=
  let r := if o.tr.isSome then k else rows
  let c := if o.tr.isSome then rows else k
  (r * (if o.ld = 0 then o.srcT.f.rowBytes c else o.ld), r * ceilDiv c o.srcT.lay.block)

/-- The operand's record is read for its window bound or merged by its quantisation (Table 9-5, R165). -/
def Opnd.usesRecord (o : Opnd) : Bool := o.srec || (o.t.sill && o.quant)

/-- Read an operand block (Table 9-5). `shot` says that byte 39 is RREF (R270); `ref` resolves an entry index. Fields that are not
used are not checked (R235). `rows` is M or N. -/
def Opnd.parse (shot : Bool) (ref : Option Ref) (rotSeed rotStrm qSeed qStrm : Dword) (rows : Nat) (l : List Byte) : Except Half Opnd :=
  let rref := leAt l 39 1
  let isRef := shot && rref % 2 = 1
  let ctl := leAt l 38 1
  let rsvd := addrBad l 0 || decide (64 ≤ ctl) || (if shot then decide (2 ≤ rref) else decide (rref ≠ 0)) || leAt l 44 4 != 0
  let w := match ref with | some r => r.tfd.toNat | none => leAt l 36 2
  let ms := match ref with | some r => r.mscale | none => BitVec.ofNat 32 (leAt l 32 4)
  match Tfd.parse w with
  | none => .error (if rsvd then stRsvd else stFormat)
  | some t =>
    let o : Opnd :=
      { addr := leAt l 0 5, scale := leAt l 8 5, aux := leAt l 16 5,
        sill := (match ref with | some r => r.sill | none => leAt l 24 5),
        mscale := ms, t := t,
        rot := rotOrder (match ref with | some r => r.rot | none => ctl % 4),
        pre := bit ctl 2, srec := bit ctl 3, auxk := fld ctl 4 2, ld := leAt l 40 4,
        rotSeed := (match ref with | some r => r.rotSeed | none => rotSeed),
        rotStrm := (match ref with | some r => r.rotStrm | none => rotStrm),
        qSeed := (match ref with | some r => r.seed | none => qSeed),
        qStrm := (match ref with | some r => r.stream | none => qStrm),
        bnAddr := (match ref with | some r => r.bnAddr | none => 0),
        bnCnt := (match ref with | some r => r.bnCnt | none => 0),
        tr := (match ref with | some r => r.trans.bind (fun w => Tfd.parse w.toNat) | none => none), rows := rows }
    let more := (o.srcT.lay ≠ .plain && addrBad l 8) || (o.auxk ≠ 0 && addrBad l 16) || (o.usesRecord && ref.isNone && addrBad l 24)
    checked [(rsvd || more, stRsvd), (isRef != ref.isSome, stRecipe), (!scaleOk ms, stScale),
             (o.quant && t.lay = .fine && t.ocp, stFormat), (o.transBad, stFormat),
             (o.usesRecord && o.sill % 32 != 0, stAlign)] o

/-- Read a destination block (Table 9-6). None is a D1 that is not enabled. -/
def Dst.parse (shot : Bool) (ref : Option Ref) (l : List Byte) : Except Half Dst :=
  let rref := leAt l 55 1
  let isRef := shot && rref % 2 = 1
  let ctl := leAt l 54 1
  let spat := fld ctl 1 2
  let rsvd := addrBad l 0 || decide (16 ≤ ctl) || spat = 3 ||
    (if shot then decide (2 ≤ rref) else decide (rref ≠ 0)) || leAt l 60 4 != 0
  let w := match ref with | some r => r.tfd.toNat | none => leAt l 52 2
  let ms := match ref with | some r => r.mscale | none => BitVec.ofNat 32 (leAt l 48 4)
  match Tfd.parseDst w with
  | none => .error (if rsvd then stRsvd else stFormat)
  | some t =>
    let d : Dst :=
      { addr := leAt l 0 5, scale := leAt l 8 5,
        sill := (match ref with | some r => r.sill | none => leAt l 16 5), pres := leAt l 24 5,
        fmt := { f := t.f, lay := t.lay, ocp := t.ocp, rnd := t.rnd, sill := t.sill, s := ms,
                 seed := (match ref with | some r => r.seed | none => BitVec.ofNat 64 (leAt l 32 8)),
                 stream := (match ref with | some r => r.stream | none => BitVec.ofNat 64 (leAt l 40 8)) },
        spat := spat, hasP := bit ctl 3, ld := leAt l 56 4,
        tid := (match ref with | some r => r.tid | none => 0),
        bnAddr := (match ref with | some r => r.bnAddr | none => 0),
        bnCnt := (match ref with | some r => r.bnCnt | none => 0) }
    let more := (t.lay ≠ .plain && addrBad l 8) || (t.sill && ref.isNone && addrBad l 16) || (d.hasP && addrBad l 24)
    checked [(rsvd || more, stRsvd), (isRef != ref.isSome, stRecipe), (!scaleOk ms, stScale),
             (t.sill && d.sill % 32 != 0, stAlign)] d

/-- Which block of a descriptor a recipe reference resolves: A, B, D0, D1. -/
abbrev Refs := Nat → Option Ref

/-- MODE of a product: from byte 307 for a shot, from the word for an instruction (R237, R269). -/
structure PMode where
  acc   : Nat
  spat  : Nat
  stat  : Nat
  stage : Bool
deriving DecidableEq, Repr

/-- A product descriptor as read (Table 9-4). -/
structure Prod where
  a      : Opnd
  b      : Opnd
  m      : Nat
  n      : Nat
  k      : Nat
  d0     : Dst
  d1     : Option Dst
  bias   : Nat
  biasF  : Bool
  biasA  : Nat
  res    : Nat
  resA   : Nat
  resS   : Nat
  resT   : Option Tfd
  resM   : Word
  term   : Nat
  termA  : Nat
  termO  : Nat
  act    : Nat
  clo    : Word
  chi    : Word
  maskg  : Nat
  maskA  : Nat
  fill   : Nat
  mrole  : Bool
  off    : Int
  w      : Nat
  mode   : PMode
deriving DecidableEq, Repr

/-- Width class of Table 4-1: bits of an operand format; none for binary32. -/
def EFmt.wclass (f : EFmt) : Option Nat := if f.bits = 32 then none else some f.bits

def EFmt.wide (f : EFmt) : Bool := f == .bf16 || f == .f16 || f == .f32

/-- What a product is: a plain product, a convolution, a scatter-add, or the companion of a base-note product. -/
inductive PKind where
  | mm | conv | scat | comp
deriving DecidableEq, Repr

/-- PMode of byte 307. -/
def PMode.ofByte (x : Nat) : PMode := { acc := x % 4, spat := fld x 2 2, stat := fld x 4 1, stage := bit x 5 }

/-- Checks between the two operands (R101, R126, R146, R161, R163, R193, Table 9-5). -/
def operandChecks (kind : PKind) (md : PMode) (a b : Opnd) (k : Nat) : List (Bool × Half) :=
  let st := if md.stat = 1 then a else b
  let sm := if md.stat = 1 then b else a
  if kind = .scat then
    [(a.auxk ≠ 3 || !a.srec || !b.srec, stFormat),
     (!(a.t.f == .bf16 || a.t.f == .f32) || decide (b.t.f ≠ .f32) || decide (b.t.lay ≠ .plain), stFormat),
     (b.auxk ≠ 0, stFormat)]
  else
    [(a.t.f.wclass.isNone || a.t.f.wclass != b.t.f.wclass, stFormat),
     (kind = .comp && a.t.f.wclass != some 8, stFormat),
     (md.acc = 2 && md.spat ≠ 0, stFormat),
     (decide (st.auxk = 1) != decide (md.spat ≠ 0) || decide (1 < st.auxk) || sm.auxk = 1, stFormat),
     (a.rot ≠ b.rot || (a.rot ≠ 0 && k % a.rot ≠ 0), stFormat),
     (a.rot ≠ 0 && (a.rotSeed != b.rotSeed || a.rotStrm != b.rotStrm), stFormat),
     (decide (a.bnCnt = 0) != decide (b.bnCnt = 0), stFormat)]

/-- Checks of the epilogue and the mask (R138, R139, R166 to R171, R175). -/
def epilogueChecks (p : Prod) : List (Bool × Half) :=
  let deriv := p.act = 9 || p.act = 10 || p.act = 11
  let noInf := fun (d : Dst) => d.fmt.lay ≠ .plain || !d.fmt.f.hasInf
  [(p.mode.acc = 3 || p.mode.spat = 3, stFormat),
   (decide (p.res = 2) != deriv, stFormat),
   (p.res ≠ 0 && p.resT.isNone, stFormat),
   (p.act = 8 && ((f32Num p.clo).isNan || (f32Num p.chi).isNan || (f32Num p.chi).lt (f32Num p.clo)), stFormat),
   (p.term ≠ 0 && p.d0.fmt.f.wide, stFormat),
   (p.maskg = 3 && p.w = 0, stFormat),
   (p.maskg ≠ 0 && p.mrole && p.fill ≠ 0, stFormat),
   (p.maskg ≠ 0 && p.fill = 1 && (noInf p.d0 || (p.d1.map noInf).getD false), stFormat),
   (p.res ≠ 0 && !scaleOk p.resM, stScale),
   ((p.maskg = 1 || p.maskg = 4) && p.maskA % 16 ≠ 0, stAlign)]

/-- The address fields of a product descriptor that its epilogue and its mask use (Table 9-4). -/
def usedAddrs (l : List Byte) : List Nat :=
  let e0 := leAt l 304 1
  let g := leAt l 306 1 % 8
  (if e0 % 4 = 0 then [] else [256]) ++ (if fld e0 2 2 = 0 then [] else [264]) ++
  (if fld e0 2 2 = 0 || fld (leAt l 312 2) 4 2 = 0 then [] else [272]) ++ (if fld e0 4 2 = 0 then [] else [280]) ++
  (if fld e0 4 2 = 2 then [288] else []) ++ (if g = 1 || g = 4 then [296] else [])

/-- Reserved values of the epilogue, the mask and the destinations of a product descriptor (Table 9-4). -/
def epiRsvd (l : List Byte) : Bool :=
  let e0 := leAt l 304 1
  let e1 := leAt l 305 1
  let e2 := leAt l 306 1
  (usedAddrs l).any (addrBad l) ||
  decide (64 ≤ e0) || e0 % 4 = 3 || fld e0 2 2 = 3 || fld e0 4 2 = 3 ||
  decide (32 ≤ e1) || decide (0xC ≤ e1 % 16) ||
  decide (64 ≤ e2) || decide (4 < e2 % 8) || (e2 % 8 ≠ 0 && fld e2 3 2 = 3) ||
  leAt l (128 + 54) 1 % 2 = 0

/-- Reserved values of a product descriptor (Table 9-4); fields that are not used are not checked (R235): the companion of a
base-note product has no epilogue, mask or destination of its own (R193). -/
def prodRsvd (kind : PKind) (shot : Bool) (l : List Byte) : Bool :=
  leAt l 108 4 != 0 || leAt l 314 2 != 0 || leAt l 360 24 != 0 ||
  (kind ≠ .comp && epiRsvd l) ||
  (if shot then decide (64 ≤ leAt l 307 1) else leAt l 307 1 != 0) ||
  (kind = .scat && leAt l 104 4 != 0)

/-- The destination of a companion product, which writes none: its sums enter the main product's ledgers (R193). -/
def Dst.unused : Dst :=
  { addr := 0, scale := 0, sill := 0, pres := 0,
    fmt := { f := .f32, lay := .plain, ocp := false, rnd := false, sill := false, s := 0x3F800000, seed := 0, stream := 0 },
    spat := 0, hasP := false, ld := 0, tid := 0, bnAddr := 0, bnCnt := 0 }

/-- Reserved values of MODE for a scatter-add (Table 9-3). -/
def scatModeBad (md : PMode) : Bool := md.acc = 2 || md.spat ≠ 0 || md.stat ≠ 0

/-- Read a product descriptor (Table 9-4). -/
def Prod.parse (kind : PKind) (shot : Bool) (md : PMode) (refs : Refs) (l : List Byte) : Except Half Prod := do
  let rs := BitVec.ofNat 64 (leAt l 112 8)
  let rt := BitVec.ofNat 64 (leAt l 120 8)
  let d64 := fun (a : Nat) => BitVec.ofNat 64 (leAt l a 8)
  if prodRsvd kind shot l || (kind = .scat && scatModeBad md) then throw stRsvd
  let a ← Opnd.parse shot (refs 0) rs rt (d64 328) (d64 336) (leAt l 96 4) (bytesAt l 0 48)
  let b ← Opnd.parse shot (refs 1) rs rt (d64 344) (d64 352) (leAt l 100 4) (bytesAt l 48 48)
  let d0 ← if kind = .comp then pure Dst.unused else Dst.parse shot (refs 2) (bytesAt l 128 64)
  let d1 ← if kind ≠ .comp && leAt l (192 + 54) 1 % 2 = 1 then (Dst.parse shot (refs 3) (bytesAt l 192 64)).map some else pure none
  let e0 := leAt l 304 1
  let p : Prod :=
    { a := a, b := b, m := leAt l 96 4, n := leAt l 100 4, k := leAt l 104 4, d0 := d0, d1 := d1,
      bias := e0 % 4, biasF := bit (leAt l 305 1) 4, biasA := leAt l 256 5,
      res := fld e0 2 2, resA := leAt l 264 5, resS := leAt l 272 5, resT := Tfd.parse (leAt l 312 2),
      resM := BitVec.ofNat 32 (leAt l 316 4),
      term := fld e0 4 2, termA := leAt l 280 5, termO := leAt l 288 5,
      act := leAt l 305 1 % 16, clo := BitVec.ofNat 32 (leAt l 320 4), chi := BitVec.ofNat 32 (leAt l 324 4),
      maskg := leAt l 306 1 % 8, maskA := leAt l 296 5, fill := fld (leAt l 306 1) 3 2, mrole := bit (leAt l 306 1) 5,
      off := toSigned 16 (leAt l 308 2), w := leAt l 310 2, mode := md }
  if kind = .comp then
    checked ((p.mode.acc = 3 || p.mode.spat = 3, stFormat) :: operandChecks kind md a b p.k)
      { p with bias := 0, res := 0, term := 0, act := 0, maskg := 0, fill := 0, mrole := false }
  else checked (operandChecks kind md a b p.k ++ epilogueChecks p) p

/-- A convolution descriptor (R239, Table 4-8). -/
structure ConvD where
  r  : Nat
  s  : Nat
  strH : Nat
  strW : Nat
  dilH : Nat
  dilW : Nat
  idH  : Nat
  idW  : Nat
  padT : Nat
  padL : Nat
  h  : Nat
  w  : Nat
  p  : Nat
  q  : Nat
  c  : Nat
  groups : Nat
deriving DecidableEq, Repr

/-- Read a convolution descriptor; a value outside Table 4-8 has the outcome of R43 (R120). -/
def ConvD.parse (l : List Byte) : Except Half ConvD :=
  let h := fun (a : Nat) => leAt l a 2
  let b := fun (a : Nat) => leAt l a 1
  let out := fun (x lo hi : Nat) => decide (x < lo) || decide (hi < x)
  checked
    [(leAt l 14 2 != 0 || leAt l 28 36 != 0, stRsvd),
     (out (h 0) 1 16 || out (h 2) 1 16, stFormat),
     ([4, 5, 6, 7, 8, 9].any (fun a => out (b a) 1 8), stFormat),
     ([10, 11, 12, 13].any (fun a => decide (15 < b a)), stFormat),
     ([16, 18, 20, 22, 24].any (fun a => h a = 0), stFormat),
     (out (h 26) 1 4096, stFormat)]
    { r := h 0, s := h 2, strH := b 4, strW := b 5, dilH := b 6, dilW := b 7, idH := b 8, idW := b 9, padT := b 10,
      padL := b 12, h := h 16, w := h 18, p := h 20, q := h 22, c := h 24, groups := h 26 }

/-- Agreement of a convolution with its product (R119, R120, R161, R239). Table 4-8 asks a multiple of 32 or 16 "with coarse blocks"
and "with fine blocks" and names no operand; the model takes the layout of operand A, whose rows are built from the input's
C channels (DESIGN CHOICE, assumption 62). -/
def convChecks (c : ConvD) (p : Prod) : List (Bool × Half) :=
  [(p.k ≠ c.r * c.s * c.c, stFormat), (p.m % (c.p * c.q) ≠ 0, stFormat),
   (p.a.t.lay = .coarse && c.c % 32 ≠ 0, stFormat), (p.a.t.lay = .fine && c.c % 16 ≠ 0, stFormat),
   (p.a.rot ≠ 0 && c.c % p.a.rot ≠ 0, stFormat), (p.n % c.groups ≠ 0, stFormat)]

/-- A companion against its main product (R193, R269). -/
def companionChecks (main comp : Prod) : List (Bool × Half) :=
  [(main.m ≠ comp.m || main.n ≠ comp.n || main.mode.stat ≠ comp.mode.stat, stFormat),
   (main.mode.acc = 2 || main.mode.acc ≠ comp.mode.acc || main.mode.stage != comp.mode.stage || comp.mode.spat ≠ 0, stFormat),
   (main.a.mscale != comp.a.mscale || main.b.mscale != comp.b.mscale, stFormat)]

/-- A tile-transfer descriptor (Table 9-11). -/
structure TileD where
  spc    : Bool
  addr   : Nat
  scale  : Nat
  sill   : Nat
  mscale : Word
  t      : Tfd
  ld     : Nat
  jstride : Nat
  seed   : Dword
  stream : Dword
  jbase  : Nat
deriving DecidableEq, Repr

/-- Read a tile-transfer descriptor. With SPC = 1 the unit field is a scratchpad unit (R243). -/
def TileD.parse (store : Bool) (l : List Byte) : Option TileD :=
  let a := leAt l 0 8
  let spc := bit a 63
  match (if store then Tfd.parseDst (leAt l 28 2) else Tfd.parse (leAt l 28 2)) with
  | none => none
  | some t =>
    let ms := BitVec.ofNat 32 (leAt l 24 4)
    if fld a 40 23 ≠ 0 || (spc && (fld a 16 24 ≠ 0 || decide (0x5F00 ≤ a % 0x10000))) || (t.lay ≠ .plain && addrBad l 8) ||
       (store && t.sill && addrBad l 16) || leAt l 30 2 ≠ 0 || !scaleOk ms then none
    else some { spc := spc, addr := if spc then a % 0x10000 * 64 else leAt l 0 5, scale := leAt l 8 5, sill := leAt l 16 5,
                mscale := ms, t := t, ld := leAt l 32 4, jstride := leAt l 36 4,
                seed := BitVec.ofNat 64 (leAt l 40 8), stream := BitVec.ofNat 64 (leAt l 48 8), jbase := leAt l 56 8 }

end Sys2Proof
end

