-- ==== Sys2Proof/Machine/Real.lean ====
section
/-!
DEFINITION. The functions that Table 6-9 gives to within 1 or 2 ulp (R177): their real values in fixed point of 512 binary places, far
finer than any ulp of binary32, and the binary32 values within the bound, among which the one taken is free (assumption 3).
-/
namespace Sys2Proof

/-! ## Fixed point -/

/-- 1.0. -/
def fxOne : Int := ((2 ^ 512 : Nat) : Int)

def fxMul (a b : Int) : Int := a * b / fxOne
def fxDiv (a b : Int) : Int := a * fxOne / b

/-- n terms of the sum of s^k z^(2k+1) / (2k+1): artanh z for s = 1, arctan z for s = −1. -/
def fxOdd (s : Int) (n : Nat) (z : Int) : Int :=
  let q := fxMul z z * s
  ((List.range n).foldl (fun (a : Int × Int) (k : Nat) => (a.1 + a.2 / (2 * k + 1), fxMul a.2 q)) (0, z)).1

/-- ln m for 1 ≤ m ≤ 2. -/
def fxLn (m : Int) : Int := 2 * fxOdd 1 180 (fxDiv (m - fxOne) (m + fxOne))

def fxLn2 : Int := fxLn (2 * fxOne)

/-- π by 16 arctan(1/5) − 4 arctan(1/239). -/
def fxPi : Int := 16 * fxOdd (-1) 120 (fxOne / 5) - 4 * fxOdd (-1) 40 (fxOne / 239)

def fxSqrt (a : Int) : Int := (((a * fxOne).toNat.sqrt : Nat) : Int)

/-- e^r for 0 ≤ r < 1, by its series. -/
def fxExp01 (r : Int) : Int :=
  ((List.range 120).foldl (fun (a : Int × Int) (n : Nat) => (a.1 + a.2, fxMul a.2 r / (n + 1))) (0, fxOne)).1

/-- 2^n times a fixed-point value. -/
def fxShift (m n : Int) : Int := m * (pow2Num n : Int) / (pow2Den n : Int)

/-- e^x. -/
def fxExp (x : Int) : Int :=
  let n := x / fxLn2
  fxShift (fxExp01 (x - n * fxLn2)) n

/-- erf x for |x| ≤ 12: 2/√π times the sum of (−1)^n x^(2n+1) / (n! (2n+1)). -/
def fxErf (x : Int) : Int :=
  let q := -(fxMul x x)
  let s := ((List.range 640).foldl (fun (a : Int × Int) (n : Nat) => (a.1 + a.2 / (2 * n + 1), fxMul a.2 q / (n + 1))) (0, x)).1
  fxDiv (2 * s) (fxSqrt fxPi)

/-- x held to −c … c: beyond, the functions that use it differ from their limit by less than the resolution of a result. -/
def fxCap (c : Nat) (x : Int) : Int := max (-(c * fxOne)) (min (c * fxOne) x)

def fxSigmoid (x : Int) : Int := fxDiv fxOne (fxOne + fxExp (-(fxCap 300 x)))

def fxTanh (x : Int) : Int :=
  let e := fxExp (2 * fxCap 64 x)
  fxDiv (e - fxOne) (e + fxOne)

/-- The standard normal distribution function, of which GELU is x times. -/
def fxPhi (x : Int) : Int := (fxOne + fxErf (fxCap 12 (fxDiv x (fxSqrt (2 * fxOne))))) / 2

/-- The tanh form of GELU: x/2 · (1 + tanh(√(2/π) (x + 0.044715 x³))), as x times a logistic function. -/
def fxGeluTanhWeight (x : Int) : Int :=
  let y := fxCap 20 x
  let u := fxMul (fxSqrt (fxDiv (2 * fxOne) fxPi)) (y + fxMul (fxMul y y) y * 44715 / 1000000)
  fxDiv fxOne (fxOne + fxExp (-(2 * u)))

/-! ## Functions -/

/-- ln(n / d) for n / d > 0. -/
def fxLog (n d : Nat) : Int :=
  let e := floorLog2 n d
  fxLn ((n * pow2Den e : Nat) * fxOne / ((d * pow2Num e : Nat) : Int)) + e * fxLn2

/-- The real value of a function at n / d, where it has one; the derivative forms have no bound in the spec. -/
def realFn (f : Config.Fn) (n : Int) (d : Nat) : Option Num :=
  let x := n * fxOne / (d : Int)
  let fx := fun (v : Int) => some (dyadic v (-512))
  match f with
  | .recip => if n = 0 then none else some (Num.quot (.fin 1 1) (.fin n d))
  | .rsqrt => if n ≤ 0 then none else fx (fxSqrt (fxDiv d n))
  | .exp2 =>
    let c := fxCap 300 x
    fx (fxShift (fxExp01 (fxMul (c % fxOne) fxLn2)) (c / fxOne))
  | .log2 => if n ≤ 0 then none else fx (fxDiv (fxLog n.toNat d) fxLn2)
  | .exp => fx (fxExp (fxCap 300 x))
  | .log => if n ≤ 0 then none else fx (fxLog n.toNat d)
  | .tanh => fx (fxTanh x)
  | .sigmoid => fx (fxSigmoid x)
  | .erf => fx (fxErf (fxCap 12 x))
  | .geluErf => fx (fxMul (max x (-20 * fxOne)) (fxPhi x))
  | .geluTanh => fx (fxMul (max x (-20 * fxOne)) (fxGeluTanhWeight x))
  | .silu => fx (fxMul (max x (-300 * fxOne)) (fxSigmoid x))
  | .geluErfDeriv | .siluDeriv => none

/-- The bound of Table 6-9 in ulp. -/
def fnUlps (f : Config.Fn) : Nat :=
  match f with
  | .recip | .rsqrt | .exp2 | .log2 => 1
  | _ => 2

/-! ## Binary32 values within a bound -/

/-- Binary32 values in order, both zeros at 0. -/
def f32Rank (w : Word) : Int := if w.getLsbD 31 then -((w.toNat % 2 ^ 31 : Nat) : Int) else (w.toNat : Int)
def f32OfRank (i : Int) (neg : Bool) : Word :=
  BitVec.ofNat 32 ((if i < 0 || (i = 0 && neg) then 2 ^ 31 else 0) + i.natAbs)

/-- A binary32 value lies within k ulp of the value v, up to the error of v itself. An ulp is the spacing of binary32 at v. -/
def withinUlps (k : Nat) (v : Num) (w : Word) : Bool :=
  match f32Num w with
  | .nan | .inf _ => false
  | x =>
    let e := EFmt.f32.quantum v.n.natAbs v.d
    let err := x.add v.neg
    -- the bound with a margin of 2^-64 ulp
    decide ((err.n.natAbs * pow2Den e) * 2 ^ 64 ≤ (k * 2 ^ 64 + 1) * pow2Num e * err.d)

/-- Of the binary32 values within k ulp of v one that a free word picks, the nearest if it picks another. -/
def nearUlps (k : Nat) (v : Num) (free : Word) : Word :=
  let c := toF32 v
  let w := f32OfRank (f32Rank c + ((free.toNat % (4 * k + 3) : Nat) : Int) - (2 * k + 1)) (free.getLsbD 31)
  if withinUlps k v w then w else c

/-- A function of Table 6-9 given to within a bound (R177): NaN on NaN; within its bound of the real value where there is one and it is
in range; free otherwise (assumption 3). -/
def f32Fn (f : Config.Fn) (a : Word) : Word :=
  match f32Num a with
  | .nan => canonNan
  | .inf _ => Config.fn f a
  | x =>
    match realFn f x.n x.d with
    | none => Config.fn f a
    | some v => if (f32Num (toF32 v)).isFin then nearUlps (fnUlps f) v (Config.fn f a) else Config.fn f a

end Sys2Proof
end

