-- ==== Sys2Proof/Machine/Vec.lean ====
section
/-!
DEFINITION. The element operations of the vector engine and of the epilogue in binary32 (R67, R68, R168, R177, R178).
-/
namespace Sys2Proof

/-- IEEE order with −0 below +0, on operands that are not NaN. -/
def ieeeLe (a b : Word) : Bool :=
  let x := f32Num a
  let y := f32Num b
  if x.lt y then true else if y.lt x then false else x.isNeg || !y.isNeg

/-- IEEE 754-2019 maximum and minimum (R67): NaN when either operand is NaN. -/
def f32Max (a b : Word) : Word :=
  if (f32Num a).isNan || (f32Num b).isNan then canonNan else if ieeeLe a b then b else a
def f32Min (a b : Word) : Word :=
  if (f32Num a).isNan || (f32Num b).isNan then canonNan else if ieeeLe a b then a else b

/-- maximumNumber and minimumNumber (R67): the other operand when exactly one is NaN. -/
def f32MaxNum (a b : Word) : Word :=
  if (f32Num a).isNan && (f32Num b).isNan then canonNan
  else if (f32Num a).isNan then b else if (f32Num b).isNan then a else f32Max a b
def f32MinNum (a b : Word) : Word :=
  if (f32Num a).isNan && (f32Num b).isNan then canonNan
  else if (f32Num a).isNan then b else if (f32Num b).isNan then a else f32Min a b

/-- Division, correctly rounded (Table 6-9). -/
def f32Div (a b : Word) : Word :=
  let x := f32Num a
  let y := f32Num b
  toF32 (match x, y with
    | .nan, _ | _, .nan => .nan
    | .inf _, .inf _ => .nan
    | .inf p, y => .inf (p != y.isNeg)
    | x, .inf q => if x.isNeg != q then .negZero else .fin 0 1
    | x, y => if y.isZero then (if x.isZero then .nan else .inf (x.isNeg != y.isNeg)) else x.quot y)

/-- Square root, correctly rounded (Table 6-9): a scaled integer root with one sticky bit below it. -/
def f32Sqrt (a : Word) : Word :=
  match f32Num a with
  | .nan => canonNan
  | .negZero => 0x80000000#32
  | .inf n => if n then canonNan else 0x7F800000#32
  | .fin n d =>
    if n < 0 then canonNan
    else
      let x := n.toNat * 2 ^ 256 / d
      let r := x.sqrt
      toF32 (.fin ((2 * r + b2f (decide (r * r * d ≠ n.toNat * 2 ^ 256)) : Nat) : Int) (2 ^ 129))
where
  /-- The sticky bit. -/
  b2f (b : Bool) : Nat := if b then 1 else 0

/-- Quiet comparisons of VCMP (Table 9-8, R67). -/
def f32Cmp (fn : Nat) (a b : Word) : Bool :=
  let x := f32Num a
  let y := f32Num b
  let un := x.isNan || y.isNan
  match fn with
  | 0 => !un && x.eq y
  | 1 => un || !x.eq y
  | 2 => x.lt y
  | 3 => !un && !y.lt x
  | 4 => y.lt x
  | 5 => !un && !x.lt y
  | _ => un

/-- VOP on one element (Table 9-9). -/
def vopElem (fn : Nat) (a b c : Word) : Word :=
  match fn with
  | 0x00 => f32Add a b
  | 0x01 => f32Add a (f32Neg b)
  | 0x02 => f32Mul a b
  | 0x03 => f32Fma a b c
  | 0x04 => f32Min a b
  | 0x05 => f32Max a b
  | 0x06 => f32MinNum a b
  | 0x07 => f32MaxNum a b
  | 0x08 => if (f32Num c).isZero then b else a
  | 0x09 => f32Neg a
  | 0x0A => if (f32Num a).isNan then canonNan else a &&& 0x7FFFFFFF#32
  | 0x0B => f32Div a b
  | 0x0C => f32Sqrt a
  | 0x0D => f32Fn .recip a
  | 0x0E => f32Fn .rsqrt a
  | 0x0F => f32Fn .exp2 a
  | 0x10 => f32Fn .log2 a
  | 0x11 => f32Fn .exp a
  | 0x12 => f32Fn .log a
  | 0x13 => f32Fn .tanh a
  | 0x14 => f32Fn .sigmoid a
  | 0x15 => f32Fn .erf a
  | 0x16 => f32Fn .geluErf a
  | 0x17 => f32Fn .geluTanh a
  | 0x18 => f32Fn .silu a
  | _ => a

/-- ACT of Table 6-6 on a binary32 value; `aux` is the aux operand of the derivative forms. -/
def actElem (act : Nat) (clo chi x aux : Word) : Word :=
  match act with
  | 0x1 => f32Max x 0
  | 0x2 => f32Mul (f32Max x 0) (f32Max x 0)
  | 0x3 => f32Fn .geluErf x
  | 0x4 => f32Fn .geluTanh x
  | 0x5 => f32Fn .silu x
  | 0x6 => f32Fn .sigmoid x
  | 0x7 => f32Fn .tanh x
  | 0x8 => f32Min (f32Max x clo) chi
  | 0x9 => f32Mul x (if f32Cmp 4 aux 0 then 0x3F800000#32 else 0)
  | 0xA => f32Mul x (f32Fn .geluErfDeriv aux)
  | 0xB => f32Mul x (f32Fn .siluDeriv aux)
  | _ => x

/-- The binary32 pattern 2^e, clamped to normal exponents. -/
def f32Pow2 (e : Int) : Word := BitVec.ofNat 32 ((max (-126) (min 127 e) + 127).toNat * 2 ^ 23)

/-- An unsigned integer as binary32. -/
def f32OfNat (n : Nat) : Word := toF32 (.fin n 1)

end Sys2Proof
end

