-- ==== Sys2Proof/Machine/Product.lean ====
section
/-!
DEFINITION. The arithmetic of matrix products: operand rows as the arrays see them (R102 to R107, R119, R127 to R139, R145,
R155, R159 to R165), window placement (R79, R80, R164), the ledgers of an output tile (R77 to R90, R146) and the fused stages
of the epilogue (R166 to R171).
-/
namespace Sys2Proof.Machine

/-- A reader of memory for one requester: what the read serves, the kinds accepted, address, length. -/
abbrev Reader := Use → Accept → Nat → Nat → Except Stop (List Byte)

/-- A reader as a tenant; `range` is the status of an unmapped address (R287). -/
def State.reader (s : State) (ten : BitVec 6) (range : Half) : Reader :=
  fun u acc a n => s.read { tenant := ten, use := u, range := range } acc a n

end Sys2Proof.Machine

namespace Sys2Proof
open Sys2Proof.Machine

/-! ## Operand rows -/

/-- One row of an operand as the arrays see it: the expanded element at each reduction index (none: pad, pruned or absent),
the scale byte of each block, the scales its window bound is taken from, which elements stand in no operand block (an empty
slot's row, padding of a convolution; [] when none does), which presence blocks are present, the record of its quantisation on
the way in, and how many elements that quantised. -/
structure Row where
  vals   : List (Option Elem)
  scales : List Nat
  bound  : List Nat
  pads   : List Bool
  live   : List Bool
  qrec   : Sill
  qn     : Nat
deriving DecidableEq, Repr

def Row.absent (k : Nat) : Row :=
  { vals := List.replicate k none, scales := [], bound := [], pads := List.replicate k true, live := List.replicate (ceilDiv k 32) false,
    qrec := {}, qn := 0 }

/-- Element p is no element of an operand block: padding, an empty slot, or part of an absent presence block (R119, R135, R145). -/
def Row.void (r : Row) (p : Nat) : Bool := r.pads.getD p false || !r.live.getD (p / 32) true

/-- Stored values per group of four (Table 5-1). -/
def keepCount (spat : Nat) : Nat := match spat with | 1 => 2 | 2 => 1 | _ => 4

/-- Depth D of a stationary tile (Tables 4-1, 5-2). -/
def tileDepth (f : EFmt) (spat : Nat) : Nat := 1024 / f.bits * (4 / keepCount spat)

/-- One run of a stored row: element address, stored values, index address, scale address, dense length. -/
structure Seg where
  ea : Nat
  v  : Nat
  ia : Nat
  sa : Nat
  d  : Nat
deriving DecidableEq, Repr

/-- Where row r of an operand lies: packed tiles of a stationary operand with LD = 0 (R104, R128), rows otherwise (Table 9-5,
R55, R128). A stationary row is cut by stationary tiles, a streaming row is one run. -/
def Opnd.segs (o : Opnd) (stationary : Bool) (spat k r : Nat) : List Seg :=
  let keep := keepCount spat
  let blk := o.t.lay.block
  if stationary && o.ld = 0 then
    let d := tileDepth o.t.f spat
    let st := ceilDiv k d
    let v := d * keep / 4
    let nb := d / blk
    (List.range st).map (fun t =>
      let x := r / 32 * st + t
      { ea := o.addr + x * 4096 + 128 * (r % 32), v := v, ia := o.aux + x * 8 * v + r % 32 * (v / 4),
        sa := o.scale + x * 32 * nb + r % 32 * nb, d := d })
  else
    let d := if spat = 0 then k else ceilDiv k 4 * 4
    let v := d * keep / 4
    let ld := if o.ld = 0 then o.t.f.rowBytes v else o.ld
    if stationary then
      let dt := tileDepth o.t.f spat
      let vt := dt * keep / 4
      (List.range (ceilDiv k dt)).map (fun t =>
        { ea := o.addr + r * ld + 128 * t, v := min vt (v - t * vt), ia := o.aux + r * ceilDiv v 4 + t * (vt / 4),
          sa := o.scale + r * ceilDiv k blk + t * (dt / blk), d := min dt (d - t * dt) })
    else [{ ea := o.addr + r * ld, v := v, ia := o.aux + r * ceilDiv v 4, sa := o.scale + r * ceilDiv k blk, d := d }]

/-- Place stored values at their group positions (R127); 2:4 indices must ascend (R129). -/
def scatterGroup (keep : Nat) (codes : List Nat) (idx : List Byte) (d : Nat) : Except Stop (List (Option Nat)) :=
  let ix := fun (j : Nat) => (leAt idx (j / 4) 1 >>> (2 * (j % 4))) % 4
  let n := codes.length
  if keep = 2 && (List.range (n / 2)).any (fun g => decide (ix (2 * g + 1) ≤ ix (2 * g))) then .error (.fail 0x0307 0)
  else .ok ((List.range d).map (fun p =>
    match (List.range keep).find? (fun i => ix (keep * (p / 4) + i) == p % 4 && decide (keep * (p / 4) + i < n)) with
    | some i => some (codes.getD (keep * (p / 4) + i) 0)
    | none => none))

/-- Element codes of a stored run, reading only its present blocks of 32 (R135). -/
def readCodes (rd : Reader) (u : Use) (f : EFmt) (a n : Nat) (live : Nat → Bool) : Nat → Nat → Except Stop (List Nat)
  | 0, _ => .ok []
  | fuel + 1, at_ =>
    if n ≤ at_ then .ok []
    else do
      let m := min 32 (n - at_)
      let cs ← if live (at_ / 32) then do
          let lo := at_ * f.bits / 8
          let bs ← rd u (acceptElem f.code) (a + lo) (f.rowBytes (at_ + m) - lo)
          pure ((List.range m).map (f.code1 bs))
        else pure (List.replicate m 0)
      let rest ← readCodes rd u f a n live fuel (at_ + m)
      return cs ++ rest

/-- The value of a block scale byte as an exact number; NaN when the byte is NaN. -/
def scaleNum (l : Layout) (b : Nat) : Num :=
  match scaleParts l b with | some (m, e) => dyadic m e | none => .nan

/-- Expansion of R155: value × block scale in binary32. -/
def expandWord (l : Layout) (x : Option Elem) (b : Nat) : Word :=
  match x with
  | none => 0
  | some e => if (scaleParts l b).isNone then canonNan else toF32 ((e.underScale (scaleParts l b)).num.mul (scaleNum l b))

/-- One butterfly stage of R161. -/
def butterfly (x : List Word) (s : Nat) : List Word :=
  (List.range x.length).map (fun j =>
    if j.testBit s then f32Add (x.getD (j - 2 ^ s) 0) (f32Neg (x.getD j 0)) else f32Add (x.getD j 0) (x.getD (j + 2 ^ s) 0))

/-- Rotation of one block of n elements whose first reduction index is j0 (R161, R162). -/
def rotateBlock (seed strm : Dword) (j0 : Nat) (x : List Word) : List Word :=
  let n := x.length
  let y := (List.range n).map (fun i => if rotNeg seed strm (j0 + i) then f32Neg (x.getD i 0) else x.getD i 0)
  let z := (List.range n.log2).foldl butterfly y
  z.map (fun w => f32Mul w (f32Pow2 (-((n.log2 : Int) / 2))))

/-- Rotation of a whole row. -/
def rotateRow (n : Nat) (seed strm : Dword) (x : List Word) : List Word :=
  let gs := cut n x
  ((List.range gs.length).map (fun i => rotateBlock seed strm (i * n) (gs.getD i []))).flatten

/-- The format the prologue quantises an operand into (R165). -/
def Opnd.qfmt (o : Opnd) : DstFmt :=
  { f := o.t.f, lay := o.t.lay, ocp := o.t.ocp, rnd := o.t.rnd, sill := o.t.sill, s := o.mscale, seed := o.qSeed,
    stream := o.qStrm }

/-- The dense positions of the kept elements of a pruned row. -/
def densify (marks : List Keep) : List Nat → List (Option Nat)
  | codes => (marks.foldl (fun (acc : List (Option Nat) × List Nat) m =>
      match m, acc.2 with
      | .drop, _ => (acc.1 ++ [none], acc.2)
      | _, c :: cs => (acc.1 ++ [some c], cs)
      | _, [] => (acc.1 ++ [none], [])) ([], codes)).1

/-- One block of a row on its way through the quantiser: its dense codes, its scale, the record of the elements that are to be
merged and the number quantised. An element is given with what it is, its logical index, whether it is void (R119, R135: it stays a
pad element) and whether it enters the record. -/
def DstFmt.quantBlock (d : DstFmt) (xs : List ((Src × Keep × Nat) × Bool × Bool)) : List (Option Nat) × Nat × Sill × Nat :=
  let real := xs.filter (fun x => !x.2.1)
  let conv := fun (ys : List (Src × Keep × Nat)) => if d.lay = .plain then d.convPlain ys else d.convBlock ys
  let b := conv (real.map (·.1))
  let counted := real.filter (fun x => x.2.2)
  let dense := densify (xs.map (fun x => if x.2.1 then Keep.drop else x.1.2.1)) b.codes
  if real.isEmpty then (dense, if d.lay = .fine then 0x7C else 0x7F, {}, 0)
  else (dense, b.scale, (if counted.length = real.length then b.sill else (conv (counted.map (·.1))).sill), real.length)

/-- Rotate, when the operand names it, and quantise the expanded elements `x` of a row (R155, R161, R165). `idx` is the logical
index of an element in the source tensor (R215), `once` says which elements this row enters into the record (R157). -/
def Opnd.quantise (o : Opnd) (spat k : Nat) (idx : Nat → Nat) (once : Nat → Bool) (x : List Word) (row : Row) : Row :=
  let y := if o.rotates then rotateRow o.rot o.rotSeed o.rotStrm x else x
  let src := (List.range k).map (fun p =>
    (({ v := (f32Num (y.getD p 0)).mul (f32Num o.mscale) } : Src), Keep.conv, idx p))
  let marked := if spat = 0 then src else (pruneRow spat src).1
  let all := marked.zipIdx.map (fun m => (m.1, row.void m.2, once m.2))
  let bs := (if o.t.lay = .plain then [all] else cut o.t.lay.block all).map o.qfmt.quantBlock
  { row with vals := (bs.flatMap (·.1)).map (fun c => c.map (o.t.f.elem (decide (o.t.lay = .coarse)))),
             scales := if o.t.lay = .plain then [] else bs.map (·.2.1),
             qrec := bs.foldl (fun g b => g.plus b.2.2.1) {}, qn := (bs.map (·.2.2.2)).sum }

/-- The expanded elements of a row as it is stored in the operand's own layout (R155). -/
def Opnd.expanded (o : Opnd) (k : Nat) (row : Row) : List Word :=
  (List.range k).map (fun p => expandWord o.t.lay (row.vals.getD p none) (row.scales.getD (p / o.t.lay.block) 0))

/-- Row r of a transposed operand (R158, assumption 61): element r of each row of the stored tensor, whose rows `toks` lists (R145)
and whose blocks lie along those rows. One answer per reduction index: an empty slot, or the element with its scale byte. -/
def Opnd.column (o : Opnd) (src : Tfd) (rd : Reader) (u : Use) (toks : List Nat) (r : Nat) (need : Nat → Bool) :
    Except Stop (List (Option (Option Elem × Nat))) :=
  toks.zipIdx.mapM (fun x => do
    let ld := if o.ld = 0 then src.f.rowBytes o.rows else o.ld
    if o.auxk = 3 && x.1 = 0xFFFFFFFF then return none
    else if o.auxk = 3 && decide (Config.rowCount o.addr ≤ x.1) then throw (.fail stIndexRange 0)
    else do
      let sc ← if src.lay = .plain then pure []
               else rd u (acceptScale src.lay.scaleFmt) (o.scale + x.1 * ceilDiv o.rows src.lay.block + r / src.lay.block) 1
      if !need x.2 then return some (none, leAt sc 0 1)
      else do
        let lo := r * src.f.bits / 8
        let bs ← rd u (acceptElem src.f.code) (o.addr + x.1 * ld + lo) (max 1 (src.f.bits / 8))
        return some (some (src.f.elem (decide (src.lay = .coarse)) (src.f.code1 bs (if src.f.bits = 4 then r % 2 else 0))), leAt sc 0 1))

/-- A block mask (R138). -/
structure MaskBits where
  gen  : Nat
  off  : Int
  w    : Nat
  rows : List (List Byte)
deriving DecidableEq, Repr

/-- Block (i, j) present (Table 5-3). -/
def MaskBits.present (m : MaskBits) (i j : Nat) : Bool :=
  let bitm := bit (leAt (m.rows.getD i []) (j / 8) 1) (j % 8)
  let causal := decide ((j : Int) ≤ i + m.off)
  match m.gen with
  | 0 => true
  | 1 => bitm
  | 2 => causal
  | 3 => decide ((i : Int) - m.w < j) && causal
  | _ => bitm && causal

/-- The presence blocks that the mask of a value product leaves of streaming row r (R139). -/
def MaskBits.blocks (m : MaskBits) (k r : Nat) : List Bool := (List.range (ceilDiv k 32)).map (fun j => m.present (r / 32) j)

/-- Read the mask of a product: bitmap rows of the mask address when MASKGEN names one. -/
def Prod.readMask (p : Prod) (rd : Reader) : Except Stop MaskBits := do
  let nby := ceilDiv (ceilDiv (if p.mrole then p.k else p.n) 32) 8
  let nrow := ceilDiv (if p.mrole && p.mode.stat = 1 then p.n else p.m) 32
  let rows ← if p.maskg = 1 || p.maskg = 4 then
      (List.range nrow).mapM (fun i => rd .other acceptBitmap (p.maskA + i * nby) nby)
    else pure []
  return { gen := p.maskg, off := p.off, w := p.w, rows := rows }

/-- The presence blocks of row r of an operand: its bitmap (R134), and a value product's mask (R139). -/
def Opnd.presence (o : Opnd) (rd : Reader) (u : Use) (k r : Nat) (extra : Option (List Bool)) : Except Stop (List Bool) := do
  let np := ceilDiv k 32
  let own ← if o.auxk = 2 then do
      let bs ← rd u acceptBitmap (o.aux + r * ceilDiv np 8) (ceilDiv np 8)
      pure ((List.range np).map (fun j => bit (leAt bs (j / 8) 1) (j % 8)))
    else pure (List.replicate np true)
  return match extra with | some e => (List.range np).map (fun j => own.getD j true && e.getD j true) | none => own

/-- The stationary tiles whose elements are read: those that are loaded (R135) and, for an operand that is rotated, those that share
a rotation block with one (R161). -/
def Opnd.reads (o : Opnd) (d : Nat) (need : Nat → Bool) (t : Nat) : Bool :=
  let per := if o.rotates then max d o.rot / d else 1
  (List.range per).any (fun i => need (t / per * per + i))

/-- Read one row of an operand (R154). `r` is its source row; `extra` is a presence bitmap that a value product's mask gives (R139);
`need` says which stationary tiles are loaded (R135). Scale bytes are read of the whole row, for the window (R80). -/
def Opnd.row (o : Opnd) (rd : Reader) (u : Use) (stationary : Bool) (spat k r : Nat) (extra : Option (List Bool))
    (need : Nat → Bool) : Except Stop Row := do
  let live ← o.presence rd u k r extra
  let keep := keepCount spat
  let sp := if stationary then spat else 0
  let d := tileDepth o.t.f sp
  let wanted := fun (p : Nat) => if stationary then o.reads d need (p / d) else live.getD (p / 32) true
  match o.tr with
  | some src =>
    let toks ← if o.auxk = 3 then do
        let bs ← rd .other .any o.aux (4 * k)
        pure ((List.range k).map (fun i => leAt bs (4 * i) 4))
      else pure (List.range k)
    let es ← o.column src rd u toks r wanted
    let vals := es.map (fun e => match e with | some (some x, _) => some x | _ => none)
    let bound := es.map (fun e => match e with | some (_, b) => b | none => 0)
    let row : Row := { vals := vals, scales := [], bound := bound, pads := es.map Option.isNone, live := live, qrec := {}, qn := 0 }
    if o.quant then
      let x := es.map (fun e => match e with | some (x, b) => expandWord src.lay x b | none => 0)
      return o.quantise sp k (fun p => toks.getD p 0 * o.rows + r) (fun _ => true) x row
    else return row
  | none =>
    let parts ← (o.segs stationary sp k r).zipIdx.mapM (fun g => do
      let sc ← if o.t.lay = .plain then pure []
               else rd u (acceptScale o.t.lay.scaleFmt) g.1.sa (ceilDiv g.1.d o.t.lay.block)
      let on := !stationary || o.reads d need g.2
      let codes ← readCodes rd u o.t.f g.1.ea g.1.v (fun j => on && (stationary || live.getD j true)) (g.1.v / 32 + 2) 0
      let dense ← if !on then pure (List.replicate g.1.d none)
        else if sp = 0 then pure (codes.map some)
        else do
          let ix ← rd u acceptIndex g.1.ia (ceilDiv g.1.v 4)
          scatterGroup keep codes ix g.1.d
      return (dense, sc.map BitVec.toNat))
    let codes := (parts.flatMap (·.1)).take k
    let scales := parts.flatMap (·.2)
    let vals := (List.range k).map (fun p =>
      if live.getD (p / 32) true then (codes.getD p none).map (o.t.f.elem (decide (o.t.lay = .coarse))) else none)
    let row : Row := { vals := vals, scales := scales, bound := scales, pads := [], live := live, qrec := {}, qn := 0 }
    return if o.quant then o.quantise sp k (fun p => r * k + p) (fun _ => true) (o.expanded k row) row else row

/-- The first output coordinate (of `n`) whose kernel of `taps` positions meets input coordinate y (R119). -/
def firstUse (n taps stride dil idil pad y : Nat) : Option Nat :=
  (List.range n).find? (fun p => (List.range taps).any (fun t => p * stride + t * dil == y * idil + pad))

/-- Element codes of channels [lo, lo + n) of a run of bytes that starts at element `e0` of the tensor row at `a`, read only where
`live` (R135). -/
def readRun (rd : Reader) (f : EFmt) (a e0 : Nat) (live : Nat → Bool) (n : Nat) : Except Stop (List (Option Nat)) :=
  (List.range n).mapM (fun c =>
    if live c then do
      let at_ := (e0 + c) * f.bits / 8
      let bs ← rd .matrix (acceptElem f.code) (a + at_) (max 1 (f.bits / 8))
      return some (f.code1 bs (if f.bits = 4 then (e0 + c) % 2 else 0))
    else return none)

/-- The row of a convolution that stands for streaming row m, output pixel `pix`, in group g (R119). A convolution reads operand A
dense: no rule lays out a sparse convolution input, so with STAT = 1 and SPAT ≠ 0 its index tensor is not read (DESIGN CHOICE,
assumption 62). An element quantised on the way in is drawn at its index in the input tensor (R165, R215) and enters the record
at its first use (R157). -/
def Opnd.convRowAt (o : Opnd) (rd : Reader) (cd : ConvD) (k m pix g : Nat) (extra : Option (List Bool)) : Except Stop Row := do
  let live ← o.presence rd .matrix k m extra
  let n := pix / (cd.p * cd.q)
  let pp := pix / cd.q % cd.p
  let q := pix % cd.q
  let ch := cd.groups * cd.c
  let blk := o.t.lay.block
  let ld := if o.ld = 0 then o.t.f.rowBytes ch else o.ld
  -- one run of C channels for each (kr, ks): its codes, scales, whether it is padding, its position, whether this is its first use
  let runs ← (List.range (cd.r * cd.s)).mapM (fun i => do
    let y : Int := (pp * cd.strH : Nat) - cd.padT + (i / cd.s * cd.dilH : Nat)
    let x : Int := (q * cd.strW : Nat) - cd.padL + (i % cd.s * cd.dilW : Nat)
    if y < 0 || x < 0 || y % cd.idH ≠ 0 || x % cd.idW ≠ 0 || decide ((cd.h : Int) ≤ y / cd.idH) ||
       decide ((cd.w : Int) ≤ x / cd.idW) then
      return (List.replicate cd.c (none : Option Nat), List.replicate (ceilDiv cd.c blk) 0x7F, true, 0, false)
    else do
      let yy := (y / cd.idH).toNat
      let xx := (x / cd.idW).toNat
      let pos := (n * cd.h + yy) * cd.w + xx
      let sc ← if o.t.lay = .plain then pure []
               else rd .matrix (acceptScale o.t.lay.scaleFmt) (o.scale + pos * ceilDiv ch blk + g * cd.c / blk)
                      (ceilDiv cd.c blk)
      let cs ← readRun rd o.t.f (o.addr + pos * ld) (g * cd.c) (fun c => live.getD ((i * cd.c + c) / 32) true) cd.c
      let first := firstUse cd.p cd.r cd.strH cd.dilH cd.idH cd.padT yy == some pp &&
                   firstUse cd.q cd.s cd.strW cd.dilW cd.idW cd.padL xx == some q
      return (cs, sc.map BitVec.toNat, false, pos, first))
  let vals := (runs.flatMap (·.1)).map (fun c => c.map (o.t.f.elem (decide (o.t.lay = .coarse))))
  let scales := if o.t.lay = .plain then [] else runs.flatMap (·.2.1)
  let row : Row := { vals := vals, scales := scales, bound := scales,
                     pads := runs.flatMap (fun u => List.replicate cd.c u.2.2.1), live := live, qrec := {}, qn := 0 }
  let run := fun (p : Nat) => runs.getD (p / max 1 cd.c) ([], [], true, 0, false)
  return if o.quant then o.quantise 0 k (fun p => (run p).2.2.2.1 * ch + g * cd.c + p % max 1 cd.c) (fun p => (run p).2.2.2.2)
      (o.expanded k row) row
    else row

/-! ## Window and ledgers -/

/-- The longest run over which both scales are constant (R79). -/
def adderLen (a b : Opnd) : Nat := if a.t.lay = .fine || b.t.lay = .fine then 16 else 32

/-- Elements [lo, lo + n) of the row stand in no operand block. -/
def Row.gone (r : Row) (lo n : Nat) : Bool := let p := (r.pads.drop lo).take n; !p.isEmpty && p.all id

/-- Bound u of one adder block of a row (Table 3-3, R164); none when a scale of it is NaN or no operand block feeds it (R79). The
scales are those of the source: an operand quantised on the way in keeps its adder block in T by its source bound also where its
new scale is NaN (DESIGN CHOICE, assumption 62). -/
def Opnd.bound (o : Opnd) (plainU : Int) (k al kb : Nat) (row : Row) : Option Int :=
  let lo := kb * al
  let hi := min (lo + al) k
  let lo' := if o.rotates then lo - lo % o.rot else lo
  let hi' := if o.rotates then max hi (lo' + o.rot) else hi
  -- a transposed source has one scale byte for each reduction index
  let blk := if o.tr.isSome then 1 else o.t.lay.block
  let base : Option Int :=
    if row.gone lo' (hi' - lo') then none
    else match o.srcT.lay with
    | .plain => some plainU
    | l =>
      let is := ((List.range (ceilDiv hi' blk - lo' / blk)).map (lo' / blk + ·)).filter (fun i => !row.gone (i * blk) blk)
      let bs := is.map (fun i => row.bound.getD i 0)
      if bs.any (fun b => b == 0xFF) then none
      else some ((bs.map (fun b => uBlock o.srcT.f (scaleBound l b))).foldl max (-100000))
  base.map (fun u => if o.quant then u + 1 + (if o.rotates then (o.rot.log2 : Int) / 2 else 0) else u)

/-- u of a plain operand, tightened by its record when SREC = 1 (Table 3-3). -/
def Opnd.plainBound (o : Opnd) (rd : Reader) : Except Stop Int := do
  if o.srcT.lay = .plain && o.srec then
    let bs ← rd .other acceptRecord o.sill 32
    return uPlain o.srcT.f (some (BitVec.ofNat 32 (leAt bs 0 4))) o.mscale
  else return uPlain o.srcT.f none o.mscale

/-- The larger of the bounds of many rows. -/
def maxBound (l : List (Option Int)) : Option Int := l.foldl maxP none

/-- Bounds of every adder block of one product over the rows of an output tile (R79). The scales of blocks that a presence bitmap or a
block mask leaves out of a streamed row count in T with the rest of its scale tensor; rows that stream for no column of the tile,
empty slots and padding do not (DESIGN CHOICE, assumption 62). -/
def blockBounds (a b : Opnd) (ua ub : Int) (k : Nat) (ra rb : List Row) : List (Option Int × Option Int) :=
  let al := adderLen a b
  (List.range (ceilDiv k al)).map (fun kb =>
    (maxBound (ra.map (a.bound ua k al kb)), maxBound (rb.map (b.bound ub k al kb))))

/-- Contributions of one output element of one product, in ascending reduction order (R77, R81, R82, R90). -/
def contribs (single : Bool) (a b : Opnd) (k : Nat) (x y : Row) : List Contrib :=
  let al := adderLen a b
  (List.range (ceilDiv k al)).flatMap (fun kb =>
    let idx := (List.range (min al (k - kb * al))).map (fun i => kb * al + i)
    let prs := idx.filterMap (fun p =>
      match x.vals.getD p none, y.vals.getD p none with
      | some u, some v => some (u, v)
      | _, _ => none)
    let sc := fun (o : Opnd) (r : Row) =>
      if o.t.lay = .plain then some (1, 0) else scaleParts o.t.lay (r.scales.getD (kb * al / o.t.lay.block) 0)
    if single then prs.filterMap (fun p => blockContrib [p] (sc a x) (sc b y))
    else (blockContrib prs (sc a x) (sc b y)).toList)

/-- A contribution as an exact number. -/
def Contrib.exact (c : Contrib) : Num :=
  match c with
  | .fin n e => dyadic n e
  | .negZero => .negZero | .inf b => .inf b | .nan => .nan

/-- What the cells hold of one output element: a ledger, or a binary32 sum in F32 mode. -/
inductive Acc where
  | led (g : Ledger)
  | f32 (w : Word)
deriving DecidableEq, Repr

/-- Add a contribution (R78, R90). -/
def Acc.add (x : Acc) (c : Contrib) : Acc :=
  match x with
  | .led g => .led (g.add c)
  | .f32 w => .f32 (toF32 ((f32Num w).add c.exact))

/-- The source value of its conversion (R84, R90). -/
def Acc.src (x : Acc) (sa sb : Num) : Src :=
  match x with
  | .led g => { v := g.readout sa sb, wloss := g.wloss, sat := g.sat }
  | .f32 w => { v := ((f32Num w).mul sa).mul sb }

/-! ## Output tiles -/

/-- An output tile: first streaming row, rows, first stationary column, columns. -/
structure Tile where
  s0 : Nat
  sn : Nat
  c0 : Nat
  cn : Nat
deriving DecidableEq, Repr

/-- Widths of the column ranges of a product (R109, R321, R324, R325). -/
def rangeWidths (mode seq acc : Nat) : Nat → Nat → Nat → List Nat
  | 0, _, _ => []
  | fuel + 1, j, left =>
    if left = 0 then []
    else
      let narrow := acc ≠ 2 && (mode = 2 || mode = 3 || (mode = 1 && j % 16 = seq % 16))
      let w := min (if narrow then 31 else 32) left
      w :: rangeWidths mode seq acc fuel (j + 1) (left - w)

/-- Ranges (start, width) over `total`. -/
def accRanges (start : Nat) : List Nat → List (Nat × Nat)
  | [] => []
  | w :: ws => (start, w) :: accRanges (start + w) ws

/-- Rows of an output tile (Table 4-4, R112, R322). -/
def tileRows (mode acc total : Nat) : Nat :=
  let per := if mode = 3 then 31 else 32
  match acc with | 0 => 4 * per | 1 => 12 * per | _ => max 1 total

/-- The output tiles of a product in row-major order of their position (R109, R267). `groups` cuts the columns of a grouped
convolution (Table 4-8). -/
def outputTiles (m n mode seq : Nat) (md : PMode) (groups : Nat) : List Tile :=
  let s := if md.stat = 1 then n else m
  let c := if md.stat = 1 then m else n
  let cap := tileRows mode md.acc s
  let rows := accRanges 0 ((List.range (ceilDiv s cap)).map (fun i => min cap (s - i * cap)))
  let per := if md.stat = 1 then c else c / max 1 groups
  let cols := (List.range (if md.stat = 1 then 1 else max 1 groups)).flatMap (fun g =>
    accRanges (g * per) (rangeWidths mode seq md.acc (per / 31 + 1) 0 per))
  if md.stat = 1 then cols.flatMap (fun q => rows.map (fun r => { s0 := r.1, sn := r.2, c0 := q.1, cn := q.2 }))
  else rows.flatMap (fun r => cols.map (fun q => { s0 := r.1, sn := r.2, c0 := q.1, cn := q.2 }))

/-- Work counts of a part (Tables 4-11, 5-11, 6-11). -/
structure Counts where
  tiles    : Nat := 0
  rowcyc   : Nat := 0
  macs     : Nat := 0
  skipTile : Nat := 0
  skipRow  : Nat := 0
  qelems   : Nat := 0
  epElems  : Nat := 0
deriving DecidableEq, Repr

def Counts.plus (a b : Counts) : Counts :=
  { tiles := a.tiles + b.tiles, rowcyc := a.rowcyc + b.rowcyc, macs := a.macs + b.macs, skipTile := a.skipTile + b.skipTile,
    skipRow := a.skipRow + b.skipRow, qelems := a.qelems + b.qelems, epElems := a.epElems + b.epElems }

/-- The work of one output tile: its cells (none: masked), and the records its quantisation on the way in merges. -/
structure TileRes where
  cells  : List (Nat × Nat × Option Acc)
  recs   : List (Nat × Sill)
  counts : Counts
  wbase  : Int
deriving DecidableEq, Repr

/-- A whole product: the main descriptor, its convolution descriptor, its companion (R119, R193). -/
structure Job2 where
  p    : Prod
  conv : Option ConvD
  comp : Option Prod
deriving DecidableEq, Repr

/-- The token list of a gathering operand (R145): one 32-bit index per streaming row. The list of an operand that is transposed names
rows of the stored tensor, which its rows read (Table 6-1). -/
def Opnd.tokens (o : Opnd) (rd : Reader) (n : Nat) : Except Stop (List Nat) := do
  if o.auxk = 3 && o.tr.isNone then
    let bs ← rd .other .any o.aux (4 * n)
    return (List.range n).map (fun i => leAt bs (4 * i) 4)
  else return List.range n

/-- One streaming or stationary row of a product by its position (R145, R159). -/
def Opnd.fetch (o : Opnd) (rd : Reader) (stationary : Bool) (md : PMode) (k : Nat) (toks : List Nat) (mk : Option MaskBits)
    (need : Nat → Bool) (r : Nat) : Except Stop Row :=
  let src := if o.auxk = 3 then toks.getD r 0xFFFFFFFF else r
  let extra := mk.map (fun m => m.blocks k r)
  if o.tr.isSome then o.row rd .matrix stationary md.spat k r extra need
  else if o.auxk = 3 && src = 0xFFFFFFFF then .ok (Row.absent k)
  else if o.auxk = 3 && decide (Config.rowCount o.addr ≤ src) then .error (.fail stIndexRange 0)
  else o.row rd .matrix stationary md.spat k src extra need

/-- The initial value of column n under BIAS 0b01, or the bias element of stage 2 (R167). -/
def Prod.biasAt (p : Prod) (bs : List Byte) (n : Nat) : Word :=
  if p.biasF then BitVec.ofNat 32 (leAt bs (4 * n) 4) else BitVec.ofNat 32 (leAt bs (2 * n) 2 * 2 ^ 16)

/-- The bias vector (R167). -/
def Prod.readBias (p : Prod) (rd : Reader) : Except Stop (List Byte) :=
  if p.bias = 0 || p.n = 0 then .ok [] else rd .other .any p.biasA (p.n * (if p.biasF then 4 else 2))

/-- Counts of the stationary-tile periods of an output tile (R125, R135, R137, R153). -/
def periodCounts (d k : Nat) (rows : List (List Bool × Bool)) : Counts :=
  (List.range (ceilDiv k d)).foldl (fun c t =>
    let on := fun (x : List Bool × Bool) =>
      x.2 && ((x.1.drop (t * d / 32)).take (ceilDiv (min d (k - t * d)) 32)).any id
    let per := fun (a : Nat) => ((List.range rows.length).filter (fun j => j % 4 == a && on (rows.getD j ([], false)))).length
    let p := max (max (per 0) (per 1)) (max (per 2) (per 3))
    let skipped := (rows.filter (fun x => !on x)).length
    if p = 0 then { c with skipTile := c.skipTile + 1, skipRow := c.skipRow + skipped }
    else { c with tiles := c.tiles + 1, rowcyc := c.rowcyc + p, skipRow := c.skipRow + skipped }) {}

/-- Row r of operand A: of a convolution's output pixel that the row names (R119; with a token list its entry names the pixel,
assumption 62), or as it is stored. -/
def Job2.rowA (j : Job2) (rd : Reader) (stationary : Bool) (toks : List Nat) (mk : Option MaskBits) (g : Nat) (need : Nat → Bool)
    (r : Nat) : Except Stop Row :=
  match j.conv with
  | none => j.p.a.fetch rd stationary j.p.mode j.p.k toks mk need r
  | some c =>
    let pix := if j.p.a.auxk = 3 then toks.getD r 0xFFFFFFFF else r
    if j.p.a.auxk = 3 && pix = 0xFFFFFFFF then .ok (Row.absent j.p.k)
    else if j.p.a.auxk = 3 && decide (j.p.m ≤ pix) then .error (.fail stIndexRange 0)
    else j.p.a.convRowAt rd c j.p.k r pix g (mk.map (fun m => m.blocks j.p.k r))

/-- Work one output tile of a product (R79 to R90, R109, R135, R139, R157). Only what streams is read: a row that streams for no
column of the tile, and a stationary tile that no row streams for, are left in memory (R135, R139). -/
def Job2.tile (j : Job2) (rd : Reader) (mask : MaskBits) (bias : List Byte) (t : Tile) : Except Stop TileRes := do
  let p := j.p
  let md := p.mode
  let stat := decide (md.stat = 1)
  let str := if stat then p.b else p.a
  let sta := if stat then p.a else p.b
  let toks ← str.tokens rd (if stat then p.n else p.m)
  let sRows := (List.range t.sn).map (t.s0 + ·)
  let cCols := (List.range t.cn).map (t.c0 + ·)
  let vmask := if p.mrole && p.maskg ≠ 0 then some mask else none
  let per := match j.conv with | some c => max 1 (p.n / c.groups) | none => max 1 p.n
  let group := fun (n : Nat) => if j.conv.isSome then n / per else 0
  let isMasked := fun (m n : Nat) => p.maskg ≠ 0 && !p.mrole && !mask.present (m / 32) (n / 32)
  let streams := fun (r : Nat) => cCols.any (fun c => if stat then !isMasked c r else !isMasked r c)
  let ms := if stat then cCols else sRows
  let ns := if stat then sRows else cCols
  let gs := (ns.map group).eraseDups
  -- the streaming rows, by group of the convolution when A streams
  let first ← (if stat then [0] else gs).mapM (fun g => sRows.mapM (fun r =>
    if !streams r then pure (Row.absent p.k)
    else if stat then p.b.fetch rd false md p.k toks vmask (fun _ => true) r
    else j.rowA rd false toks vmask g (fun _ => true) r))
  let at2 := fun (l : List Row) (i : Nat) => l.getD i (Row.absent 0)
  let rowsFlags := (List.range t.sn).map (fun i => ((at2 (first.headD []) i).live, streams (t.s0 + i)))
  let d := tileDepth sta.t.f md.spat
  let need := fun (x : Nat) => rowsFlags.any (fun f => f.2 && ((f.1.drop (x * d / 32)).take (ceilDiv (min d (p.k - x * d)) 32)).any id)
  let second ← (if stat then gs else [0]).mapM (fun g => cCols.mapM (fun c =>
    if stat then j.rowA rd true [] none g need c else p.b.fetch rd true md p.k [] none need c))
  let ra := if stat then second else first
  let rb := if stat then first.headD [] else second.headD []
  let ua ← p.a.plainBound rd
  let ub ← p.b.plainBound rd
  let mainUs := blockBounds p.a p.b ua ub p.k ra.flatten rb
  -- the companion of the base-note path (R193)
  let cp ← match j.comp with
    | none => pure none
    | some c => do
      let cmd := { md with spat := 0 }
      let ctoks ← (if stat then c.b else c.a).tokens rd (if stat then c.n else c.m)
      let ca ← ms.mapM (fun m => if stat || streams m then c.a.fetch rd stat cmd c.k (if stat then [] else ctoks) none (fun _ => true) m
                                 else pure (Row.absent c.k))
      let cb ← ns.mapM (fun n => if !stat || streams n then c.b.fetch rd (!stat) cmd c.k (if stat then ctoks else []) none (fun _ => true) n
                                 else pure (Row.absent c.k))
      let va ← c.a.plainBound rd
      let vb ← c.b.plainBound rd
      pure (some (c, ca, cb, blockBounds c.a c.b va vb c.k ca cb))
  let us := mainUs ++ (match cp with | some (_, _, _, u) => u | none => [])
  let wide := decide (md.acc = 1)
  let wb := windowBase wide (windowT us)
  let single := md.acc = 2 || p.a.t.f == .bf16 || p.b.t.f == .bf16
  -- F32 with K = 0 gives +0, and with a loaded initial value that value (R90; DESIGN CHOICE, assumption 62)
  let start : Acc := if md.acc = 2 then .f32 (if p.k = 0 then 0 else 0x80000000#32) else .led (Ledger.cleared wide wb)
  let init := fun (n : Nat) =>
    if p.bias = 1 then (match start with
      | .led g => .led (g.add (f32Num (p.biasAt bias n)).contrib)
      | .f32 _ => .f32 (p.biasAt bias n))
    else start
  let work : List (Nat × Nat × Option Acc × Nat) := (List.range ms.length).flatMap (fun i => (List.range ns.length).map (fun jn =>
    let m := ms.getD i 0
    let n := ns.getD jn 0
    if isMasked m n then (m, n, (none : Option Acc), 0)
    else
      let x := at2 (ra.getD (gs.idxOf (group n)) []) i
      let y := at2 rb jn
      let cs := contribs single p.a p.b p.k x y
      let acc := cs.foldl Acc.add (init n)
      let pairs := ((List.range p.k).filter (fun q => (x.vals.getD q none).isSome && (y.vals.getD q none).isSome)).length
      match cp with
      | none => (m, n, some acc, pairs)
      | some (c, ca, cb, _) =>
        let x' := at2 ca i
        let y' := at2 cb jn
        let cpairs := ((List.range c.k).filter (fun q => (x'.vals.getD q none).isSome && (y'.vals.getD q none).isSome)).length
        (m, n, some ((contribs false c.a c.b c.k x' y').foldl Acc.add acc), pairs + cpairs)))
  let pc := periodCounts d p.k rowsFlags
  -- the stationary tiles of the companion product take periods of their own (R193)
  let pc := match cp with
    | some (c, ca, cb, _) =>
      let cstr := if stat then cb else ca
      pc.plus (periodCounts (tileDepth c.a.t.f 0) c.k ((List.range t.sn).map (fun i => ((at2 cstr i).live, streams (t.s0 + i)))))
    | none => pc
  -- what enters the records of operands quantised on the way in (R157): A's rows by group, B's rows
  let recA := if !p.a.quant then []
    else (List.range gs.length).flatMap (fun i =>
      if j.conv.isSome then (if ns.contains (gs.getD i 0 * per) then ra.getD i [] else [])
      else if (if stat then t.s0 else t.c0) = 0 then ra.getD i [] else [])
  let recB := if p.b.quant && (if stat then t.c0 else t.s0) = 0 then rb else []
  let qn := fun (rows : List (List Row)) => (rows.flatten.map (·.qn)).sum
  -- groups of one channel run in the vector engine and count in no matrix counter (Table 4-8)
  let pc := if (j.conv.map (·.c)).getD 0 = 1 then ({} : Counts) else { pc with macs := (work.map (fun w => w.2.2.2)).sum }
  return { cells := work.map (fun w => (w.1, w.2.1, w.2.2.1)),
           recs := ([(p.a, recA), (p.b, recB)].filter (fun r => r.1.t.sill && !r.2.isEmpty)).map (fun r =>
             (r.1.sill, r.2.foldl (fun g x => g.plus x.qrec) {})),
           -- a staged stream is quantised with column range 0 alone (R157)
           counts := { pc with qelems := (if md.stage && t.c0 ≠ 0 then 0 else qn first) + qn second,
                               epElems := (work.filter (fun w => w.2.2.1.isSome)).length }, wbase := wb }

/-! ## Scatter-add (R146) -/

/-- AMAX of a record as floor(log2), with +infinity taken as 2^128; none for +0. -/
def amaxLog (w : Word) : Option Int :=
  match f32Num w with
  | .fin n d => if n ≤ 0 then none else some (floorLog2 n.toNat d)
  | .inf _ => some 128
  | _ => none

/-- Output rows of a scatter-add: the rows of the destination tensor (assumption 25). -/
def Prod.scatRows (p : Prod) : Nat := Config.rowCount p.d0.addr

/-- The ledgers of one output tile of a scatter-add. Rows of the tile are token rows. -/
def Prod.scatTile (p : Prod) (rd : Reader) (bias : List Byte) (t : Tile) : Except Stop TileRes := do
  let toks ← p.a.tokens rd p.m
  if toks.any (fun x => decide (x ≠ 0xFFFFFFFF) && decide (p.scatRows ≤ x)) then throw (.fail stIndexRange 0)
  let gates ← rd .matrix (acceptElem 7) p.b.addr (4 * p.m)
  let ry ← rd .other acceptRecord p.a.sill 32
  let rg ← rd .other acceptRecord p.b.sill 32
  let tt : Int := match amaxLog (BitVec.ofNat 32 (leAt ry 0 4)), amaxLog (BitVec.ofNat 32 (leAt rg 0 4)) with
    | some y, some g => y + g + 10
    | _, _ => 0
  let wide := decide (p.mode.acc = 1)
  -- a WIDE scatter-add takes T - 48, as R88 has it of a product; R146 gives T - 168 alone (DESIGN CHOICE, assumption 62)
  let wb := windowBase wide tt
  let slots := (List.range p.m).filter (fun i => decide (t.s0 ≤ toks.getD i 0) && decide (toks.getD i 0 < t.s0 + t.sn))
  let rows ← slots.mapM (fun i => do
    let r ← p.a.row rd .matrix false 0 p.n i none (fun _ => true)
    return (toks.getD i 0, r, f32Num (BitVec.ofNat 32 (leAt gates (4 * i) 4))))
  let cells := (List.range t.sn).flatMap (fun i => (List.range t.cn).map (fun jn =>
    let n := t.c0 + jn
    let g0 := Ledger.cleared wide wb
    let g1 := if p.bias = 1 then g0.add (f32Num (p.biasAt bias n)).contrib else g0
    let g := rows.foldl (fun g r =>
      if r.1 = t.s0 + i then
        match r.2.1.vals.getD n none with
        | some e =>
          let sc := if p.a.t.lay = .plain then some (1, 0) else scaleParts p.a.t.lay (r.2.1.scales.getD (n / p.a.t.lay.block) 0)
          let y := if sc.isNone then Num.nan else (e.underScale sc).num.mul (scaleNum p.a.t.lay (r.2.1.scales.getD (n / p.a.t.lay.block) 0x7F))
          g.add (y.mul r.2.2).contrib
        | none => g
      else g) g1
    (t.s0 + i, n, some (Acc.led g))))
  return { cells := cells, recs := [], counts := { epElems := cells.length }, wbase := wb }

/-! ## The fused stages (R166 to R170) -/

/-- Whether stage 1 reads the ledger into binary32 (R166). -/
def Prod.staged (p : Prod) : Bool := p.bias = 2 || p.act ≠ 0 || p.res = 1 || p.term ≠ 0

/-- The residual or aux elements of row m, columns [c, c + w), read at the positions of the output elements (R169). -/
def Prod.resRow (p : Prod) (rd : Reader) (m c w : Nat) : Except Stop (List Word) := do
  match p.resT with
  | none => return []
  | some t =>
    if p.res = 0 || w = 0 then return []
    else
      let lo := c * t.f.bits / 8
      let bs ← rd .other (acceptElem t.f.code) (p.resA + m * t.f.rowBytes p.n + lo) (t.f.rowBytes (c + w) - lo)
      let blk := t.lay.block
      let sc ← if t.lay = .plain then pure []
               else rd .other (acceptScale t.lay.scaleFmt) (p.resS + m * ceilDiv p.n blk + c / blk) (ceilDiv (c + w) blk - c / blk)
      return (List.range w).map (fun i =>
        let n := c + i
        let skip := if t.f.bits = 4 then c % 2 else 0
        let x := expandWord t.lay (some (t.f.elem (decide (t.lay = .coarse)) (t.f.code1 bs (skip + i)))) (leAt sc (n / blk - c / blk) 1)
        f32Mul x p.resM)

/-- Stages 2 to 4 on one element: bias, activation, residual. -/
def Prod.stages (p : Prod) (bias : List Byte) (n : Nat) (aux : Word) (x : Word) : Word :=
  let x := if p.bias = 2 then f32Add x (p.biasAt bias n) else x
  let x := actElem p.act p.clo p.chi x aux
  if p.res = 1 then f32Add x aux else x

/-- The source of an element's conversion after the enabled stages (R70, R166, assumption 29). -/
def Prod.epilogue (p : Prod) (bias : List Byte) (sa sb : Num) (n : Nat) (aux : Word) (x : Acc) : Src :=
  let r := x.src sa sb
  if p.staged then { r with v := f32Num (p.stages bias n aux (toF32 r.v)) } else r

/-- Scale-gradient term of one converted element (R170): source x, block scale parts, code written. -/
def termOf (d : DstFmt) (x : Num) (nanBlock : Bool) (b : Nat) (code : Nat) : Word :=
  if nanBlock || !x.isFin then 0
  else
    let p := (scaleParts d.lay b).getD (1, 0)
    let s := f32Num d.s
    let v := x.divBy (p.1 * pow2Num p.2 * s.n.toNat) (pow2Den p.2 * s.d)
    let q := d.f.num (decide (d.lay = .coarse)) code
    let bn := dyadic p.1 p.2
    let lim := if decide (d.f = .int8) && decide (d.lay = .coarse) then v.divBy 1 64 else v
    if d.f.clipsNum lim then toF32 (bn.mul q) else toF32 (bn.mul (q.add v.neg))

/-- One LEDGER96 block of a TERM region (R171): exact products by column. -/
def termBlock (cols : List (List Num)) : List Byte :=
  let fin := (cols.flatten.filter (fun x => x.isFin && !x.isZero)).map (fun x => floorLog2 x.n.natAbs x.d)
  let bexp : Int := match fin with | [] => 0 | a :: r => r.foldl max a - 80
  let elems := (List.range 32).map (fun i =>
    match (cols.getD i []).map (fun x => x.contrib) with
    | [] => (L96.empty, false)
    | c :: cs => match cs.foldl Contrib.plus c with
      | .nan => (L96.nan, false)
      | .inf n => (L96.sat n, false)
      | .negZero => (L96.negZero, false)
      | .fin n e => let r := rneShift n (e - bexp); (L96.fin r.1, r.2))
  ({ bexp := bexp, wloss := elems.any (·.2), elems := elems.map (·.1) } : L96Block).bytes

end Sys2Proof
end

