-- ==== Sys2Proof/Machine/Output.lean ====
section
/-!
DEFINITION. From converted elements to memory: a destination's row cut into blocks that are formed whole (R175, R510), what
each block writes (R49, R55, R134, R136, R139, R170, R171), the commit of a part (R72, R172, R267) and the marking of a failed
part's destinations (R315).
-/
namespace Sys2Proof
open Sys2Proof.Machine

/-- One element of an output row: its value and its stage-4 value, masked, or lost with a failed tile. -/
inductive CellV where
  | val (x : Src) (g : Word)
  | masked
  | failed
deriving DecidableEq, Repr

structure OutCell where
  part : Nat
  v    : CellV
deriving DecidableEq, Repr

/-- A block of a destination row, formed whole by the part that holds its last element (R510). -/
structure Chunk where
  owner : Nat
  parts : List Nat
  ok    : Bool
  touch : List (Nat × Nat)
  elems : List (Nat × List Byte)
  scls  : List (Nat × List Byte)
  pres  : List (Nat × Byte × Byte)
  idx   : List (Nat × List Byte)
  terms : List (Nat × List Byte)
  sill  : Sill
deriving DecidableEq, Repr

/-- Elements of a destination row that are formed together. -/
def Dst.chunk (d : Dst) : Nat :=
  if d.hasP || d.spat ≠ 0 || d.fmt.lay = .coarse then 32
  else if d.fmt.lay = .fine then 16
  else if d.fmt.f.bits = 4 then 2 else 1

/-- Stored elements before dense column c of a row. -/
def Dst.stored (d : Dst) (c : Nat) : Nat := if d.spat = 0 then c else ceilDiv c 4 * keepCount d.spat

/-- Bytes from one output row to the next (Table 9-6). -/
def Dst.rowLd (d : Dst) (n : Nat) : Nat := if d.ld = 0 then d.fmt.f.rowBytes (d.stored n) else d.ld

/-- Where pruning indices go (assumption 26). -/
def Dst.idxBase (d : Dst) : Nat := Config.placeBlock 0 d.addr % 0x2000000 * 4096

/-- Address of the element at row m, dense column c. -/
def Dst.elemAddr (d : Dst) (n m c : Nat) : Nat := d.addr + m * d.rowLd n + d.stored c * d.fmt.f.bits / 8
def Dst.scaleAddr (d : Dst) (n m c : Nat) : Nat := d.scale + m * ceilDiv n d.fmt.lay.block + c / d.fmt.lay.block
def Dst.presAddr (d : Dst) (n m c : Nat) : Nat := d.pres + m * ceilDiv (ceilDiv n 32) 8 + c / 32 / 8
def Dst.idxAddr (d : Dst) (n m c : Nat) : Nat := d.idxBase + m * ceilDiv (d.stored n) 4 + d.stored c / 4

/-- Byte ranges of every destination tensor that hold elements [c, c + w) of row m (R315). -/
def Dst.touch (d : Dst) (n m c w : Nat) : List (Nat × Nat) :=
  let a := d.elemAddr n m c
  (a, d.fmt.f.rowBytes (d.stored (c + w) - d.stored c)) ::
  ((if d.fmt.lay = .plain then [] else [(d.scaleAddr n m c, ceilDiv w d.fmt.lay.block)]) ++
   (if d.hasP then [(d.presAddr n m c, 1)] else []) ++
   (if d.spat = 0 then [] else [(d.idxAddr n m c, ceilDiv (d.stored (c + w) - d.stored c) 4)]))

/-- A presence bit as a byte with its mask. -/
def presWrite (a c : Nat) (b : Bool) : Nat × Byte × Byte :=
  (a, BitVec.ofNat 8 (2 ^ (c / 32 % 8)), BitVec.ofNat 8 (b2n b * 2 ^ (c / 32 % 8)))

/-- One block of row m from column c on. `term` is TERM_ADDR when the block also writes its terms (Table 6-8); `zero` names
the columns a base-note list takes out (R192). -/
def Dst.chunkOut (d : Dst) (term : Option Nat) (fill n m c : Nat) (zero : Nat → Bool) (cells : List OutCell) : Chunk :=
  let w := cells.length
  let parts := (cells.map (·.part)).eraseDups
  let base : Chunk :=
    { owner := (cells.getLast?.map (·.part)).getD 0, parts := parts, ok := !cells.any (fun x => x.v == .failed),
      touch := d.touch n m c w, elems := [], scls := [], pres := [], idx := [], terms := [], sill := {} }
  if !base.ok then base
  else if cells.any (fun x => x.v == .masked) then
    let nb := ceilDiv w d.fmt.lay.block
    let one : Byte := if d.fmt.lay = .fine then 0x7C else 0x7F
    let pres := if d.hasP then [presWrite (d.presAddr n m c) c false] else []
    if fill = 0 then { base with pres := pres }
    else
      let code := if fill = 1 then d.fmt.f.signed true d.fmt.f.infCode else 0
      -- a pruned destination holds its kept values alone: FILL takes the lowest positions of each group (DESIGN CHOICE, assumption 62)
      let stored := d.stored (c + w) - d.stored c
      { base with
        elems := [(d.elemAddr n m c, d.fmt.f.pack (List.replicate stored code))],
        scls := if d.fmt.lay = .plain then [] else [(d.scaleAddr n m c, List.replicate nb one)], pres := pres,
        idx := if d.spat = 0 then []
               else [(d.idxAddr n m c, packIndex ((List.range stored).map (fun i => i % keepCount d.spat)))] }
  else
    let xs := (List.range w).map (fun i =>
      let x := (cells.getD i ⟨0, .failed⟩).v
      ((match x with | .val s _ => s | _ => { v := .nan }), (if zero (c + i) then Keep.zero else Keep.conv), m * n + c + i))
    let pr := if d.spat = 0 then (xs, []) else pruneRow d.spat xs
    let bs := d.fmt.convRow pr.1
    let codes := bs.flatMap (·.codes)
    let terms := match term with
      | none => []
      | some ta =>
        let blk := if d.fmt.lay = .plain then w else d.fmt.lay.block
        let dense := if d.spat = 0 then codes.map some else densify (pr.1.map (·.2.1)) codes
        let ts := (List.range w).map (fun i =>
          let b := bs.getD (i / blk) ⟨[], 0, {}⟩
          termOf d.fmt ((xs.getD i ({ v := .nan }, .conv, 0)).1.v) (decide (d.fmt.lay ≠ .plain) && b.scale == 0xFF) b.scale
            ((dense.getD i none).getD 0))
        [(ta + (m * n + c) * 4, ts.flatMap (fun t => leBytes 4 t.toNat))]
    -- pad positions that a cut group stores hold code 0 (R127, R128)
    let pad := d.stored (c + w) - d.stored c - codes.length
    { base with
      elems := [(d.elemAddr n m c, d.fmt.f.pack (codes ++ List.replicate pad 0))],
      scls := if d.fmt.lay = .plain then [] else [(d.scaleAddr n m c, bs.map (fun b => BitVec.ofNat 8 b.scale))],
      pres := if d.hasP then [presWrite (d.presAddr n m c) c ((presenceBits d.fmt w bs).any id)] else [],
      idx := if d.spat = 0 then [] else [(d.idxAddr n m c, packIndex pr.2)],
      terms := terms,
      sill := bs.foldl (fun g b => g.plus b.sill) {} }

/-- All blocks of row m. -/
def Dst.rowOut (d : Dst) (term : Option Nat) (fill n m : Nat) (zero : Nat → Bool) (cells : List OutCell) : List Chunk :=
  let cs := cut d.chunk cells
  (List.range cs.length).map (fun i => d.chunkOut term fill n m (i * d.chunk) zero (cs.getD i []))

/-! ## Parts -/

/-- Writes to one tensor: kind, format and TIDF of Table 12-3, runs of bytes, bytes changed under a mask, and the same of blocks that
other parts share and that are written only when those commit too (R510). -/
structure Wr where
  kind : BitVec 4
  fmt  : BitVec 4
  tid  : Word
  runs : List (Nat × List Byte)
  bits : List (Nat × Byte × Byte)
  sruns : List (List Nat × Nat × List Byte) := []
  sbits : List (List Nat × Nat × Byte × Byte) := []
deriving DecidableEq, Repr

/-- What one part of a shot would commit (R267): its writes, its merges, the destination ranges that go STALE when it fails,
its counts, and its failure. -/
structure PartOut where
  writes : List Wr := []
  merges : List (Nat × Sill) := []
  /-- merges of blocks that other parts share: those parts, the record, the counts (R510) -/
  smerges : List (List Nat × Nat × Sill) := []
  touch  : List (Nat × Nat) := []
  counts : Counts := {}
  wloss  : Bool := false
  sat    : Bool := false
  fail   : Option (Half × Nat) := none
deriving DecidableEq, Repr

/-- The writes of one destination for the blocks a part owns: those it holds alone, and those it shares. -/
def Dst.writes (d : Dst) (cs split : List Chunk) : List Wr :=
  let f := d.fmt.f.code
  let w := fun (kind : BitVec 4) (fmt : Nat) (tid : Word) (g : Chunk → List (Nat × List Byte)) =>
    ({ kind := kind, fmt := BitVec.ofNat 4 fmt, tid := tid, runs := cs.flatMap g, bits := [],
       sruns := split.flatMap (fun c => (g c).map (fun x => (c.parts, x.1, x.2))) } : Wr)
  [w kElem f d.tid (·.elems), w kScale d.fmt.lay.scaleFmt d.tid (·.scls), w kIndex 0 d.tid (·.idx), w kElem 7 0 (·.terms),
   { kind := kBitmap, fmt := 0, tid := d.tid, runs := [], bits := cs.flatMap (·.pres),
     sbits := split.flatMap (fun c => c.pres.map (fun x => (c.parts, x.1, x.2.1, x.2.2))) }]

/-- The share of part p in one destination. -/
def Dst.part (d : Dst) (chunks : List Chunk) (p : Nat) : PartOut :=
  let mine := chunks.filter (fun c => c.owner == p && c.ok)
  let own := mine.filter (fun c => c.parts.all (· == p))
  let split := mine.filter (fun c => !c.parts.all (· == p))
  let g := own.foldl (fun g c => g.plus c.sill) ({} : Sill)
  { writes := d.writes own split,
    merges := if d.fmt.sill && !mine.isEmpty then [(d.sill, g)] else [],
    smerges := if d.fmt.sill then split.map (fun c => (c.parts, d.sill, c.sill)) else [],
    touch := (chunks.filter (fun c => c.parts.contains p)).flatMap (·.touch) }

/-- Counts added to the merge of a record. -/
def addMerge (ms : List (Nat × Sill)) (a : Nat) (g : Sill) : List (Nat × Sill) :=
  if ms.any (fun m => m.1 == a) then ms.map (fun m => if m.1 = a then (a, m.2.plus g) else m) else ms ++ [(a, g)]

/-- The writes of one tensor once it is known which parts fail: a block that a failed part shares is not written (R510). -/
def Wr.settle (failed : List Nat) (w : Wr) : Wr :=
  let ok := fun (ps : List Nat) => !ps.any failed.contains
  { w with runs := w.runs ++ (w.sruns.filter (fun x => ok x.1)).map (·.2),
           bits := w.bits ++ (w.sbits.filter (fun x => ok x.1)).map (·.2), sruns := [], sbits := [] }

/-- What a part commits once it is known which parts fail (R510). -/
def PartOut.settle (failed : List Nat) (p : PartOut) : PartOut :=
  { p with writes := p.writes.map (Wr.settle failed),
           merges := (p.smerges.filter (fun x => !x.1.any failed.contains)).foldl (fun ms x => addMerge ms x.2.1 x.2.2) p.merges,
           smerges := [] }

def PartOut.plus (a b : PartOut) : PartOut :=
  { writes := a.writes ++ b.writes, merges := a.merges ++ b.merges, smerges := a.smerges ++ b.smerges, touch := a.touch ++ b.touch,
    counts := a.counts.plus b.counts, wloss := a.wloss || b.wloss, sat := a.sat || b.sat, fail := a.fail <|> b.fail }

end Sys2Proof

namespace Sys2Proof.Machine

/-- Bytes changed under a mask, as runs over what memory holds now. -/
def State.maskRuns (s : State) (bits : List (Nat × Byte × Byte)) : List (Nat × List Byte) :=
  (bits.map (·.1)).eraseDups.map (fun a =>
    (a, [bits.foldl (fun b w => if w.1 = a then (b &&& ~~~w.2.1) ||| w.2.2 else b)
      (if (s.slate (a / 4096)).kind = kUnwritten then 0 else tget zeroByte s.hbm.mem a)]))

/-- Write one tensor's part. -/
def State.commitWr (s : State) (q : Req) (taint : List Nat) (w : Wr) : Except Stop State :=
  s.writeRuns q taint w.kind w.fmt w.tid (w.runs ++ s.maskRuns w.bits)

/-- Commit one part: its writes, then its merges (R72, R172). -/
def State.commitPart (s : State) (q : Req) (taint : List Nat) (flag : Bool) (p : PartOut) : Except Stop State := do
  let s ← p.writes.foldlM (fun s w => s.commitWr q taint w) s
  p.merges.foldlM (fun s m => s.rmw q m.1 32 (mergeSillage (m.2.record flag))) s

/-- Try every part in order; a part whose commit fails commits nothing. None: an access waits. -/
def State.commitParts (q : Req) (taint : List Nat) (flag : Bool) :
    List PartOut → State → Option (State × List (Option (Half × Nat)))
  | [], s => some (s, [])
  | p :: ps, s =>
    match p.fail with
    | some f => (State.commitParts q taint flag ps s).map (fun r => (r.1, some f :: r.2))
    | none =>
      match s.commitPart q taint flag p with
      | .ok t => (State.commitParts q taint flag ps t).map (fun r => (r.1, none :: r.2))
      | .error (.fail st a) => (State.commitParts q taint flag ps s).map (fun r => (r.1, some (st, a) :: r.2))
      | .error .wait => none

/-- Parts with the failures of a first pass. -/
def failParts (ps : List PartOut) (fs : List (Option (Half × Nat))) : List PartOut :=
  List.zipWith (fun p f => { p with fail := p.fail <|> f }) ps fs

/-- Parts as they commit, by which of them fail (R510). -/
def settleParts (ps : List PartOut) : List PartOut :=
  let failed := (List.range ps.length).filter (fun i => (ps.getD i {}).fail.isSome)
  ps.map (PartOut.settle failed)

/-- Blocks that hold any byte of the ranges. -/
def rangeBlocks (rs : List (Nat × Nat)) : List Nat :=
  (rs.flatMap (fun r => if r.2 = 0 then [] else (List.range ((r.1 + r.2 - 1) / 4096 - r.1 / 4096 + 1)).map (r.1 / 4096 + ·))).eraseDups

/-- Mark the destinations of the failed parts STALE (R315), and report each failure (R318). -/
def State.failures (s : State) (reel : Nat) (seq : Word) (ps : List PartOut) (fs : List (Option (Half × Nat))) : State :=
  let bad := (ps.zip fs).filterMap (fun x => x.2.map (fun f => (x.1, f)))
  let s := (rangeBlocks (bad.flatMap (fun b => b.1.touch))).foldl State.markStale s
  bad.foldl (fun s b => s.slateFault b.2.1 b.2.2 reel seq) s

/-- Commit the parts of a split request: when any part fails, the records of the others carry PARTIAL (R72). -/
def State.runParts (s : State) (q : Req) (taint : List Nat) (reel : Nat) (seq : Word) (ps : List PartOut) :
    Option (State × List (Option (Half × Nat))) :=
  match State.commitParts q taint false (settleParts ps) s with
  | none => none
  | some (t, fs) =>
    if fs.any Option.isSome then
      match State.commitParts q taint true (settleParts (failParts ps fs)) s with
      | none => none
      | some (t, fs) => some (t.failures reel seq ps fs, fs)
    else some (t, fs)

/-- FAILMASK of Table 10-5. -/
def failMask (fs : List (Option (Half × Nat))) : Dword :=
  BitVec.ofNat 64 ((List.range fs.length).foldl (fun n i => n + b2n (fs.getD i none).isSome * 2 ^ i) 0)

/-- The status of the lowest-numbered failed part (Table 10-5). -/
def failStatus (fs : List (Option (Half × Nat))) : Half := ((fs.findSome? id).map (·.1)).getD 0

/-- A status that holds its reel when the shot completes: class 0x03 (R318), the causes that abort a collective (R391), the
launch statuses (R406, R407) and the reset statuses (R482). -/
def holdsReel (st : Half) : Bool :=
  st.toNat / 256 = 3 || [0x0401, 0x0402, 0x0405, 0x0406, 0x0730, 0x0731, 0x0732, 0x0740, 0x0741, 0x0742].contains st.toNat

/-- A shot's work has landed with these parts. -/
def Tracked.land (t : Tracked) (fs : List (Option (Half × Nat))) (wloss sat : Bool) : Tracked :=
  { t with phase := .landed, nparts := max 1 fs.length, failmask := failMask fs, status := failStatus fs,
           wloss := wloss, sat := sat, holdFor := (fs.filterMap (·.map (·.1))).find? holdsReel }

/-- A shot of one part has ended with a status. -/
def Tracked.landOne (t : Tracked) (st : Half) : Tracked :=
  let st := if st = 0 then ((t.lost.head?).map (·.2.1)).getD 0 else st
  { t with phase := .landed, nparts := 1, failmask := if st = 0 ∨ st = 1 ∨ st = 2 then 0 else 1, status := st,
           holdFor := if holdsReel st then some st else none }

/-- A shot rejected by check 9 of R265: status, NPARTS 1, FAILMASK 0. -/
def Tracked.reject (t : Tracked) (st : Half) : Tracked :=
  { t with phase := .landed, nparts := 1, failmask := 0, status := st }

/-- Work counts on a core (Tables 4-11, 5-11, 6-11). -/
def Core.addCounts (v : Core) (c : Counts) : Core :=
  { v with mxTiles := satAdd v.mxTiles c.tiles, mxRowcyc := satAdd v.mxRowcyc c.rowcyc, mxMacs := satAdd v.mxMacs c.macs,
           spSkipTile := satAdd v.spSkipTile c.skipTile, spSkipRow := satAdd v.spSkipRow c.skipRow,
           peQelems := satAdd v.peQelems c.qelems, epElems := satAdd v.epElems c.epElems }

/-- Work counts of part p go to the physical core of logical core p (assumption 30). -/
def State.countPart (s : State) (p : Nat) (c : Counts) : State :=
  match s.physical (p % 512) with
  | none => s
  | some k => s.modCoreK k (·.addCounts c)

def State.countParts (s : State) (ps : List PartOut) : State :=
  (List.range ps.length).foldl (fun s i => s.countPart i (ps.getD i {}).counts) s

end Sys2Proof.Machine
end

