-- ==== Sys2Proof/Machine/ProductRun.lean ====
section
/-!
DEFINITION. A whole product from its descriptors to what it would commit (R102, R119, R146, R166 to R175, R193, R267, R510),
shared by the shots MATMUL, CONV and SCATTER and by the instructions MMA, CONV and SCAT.
-/
namespace Sys2Proof
open Sys2Proof.Machine

/-- An evaluation shot rounds to nearest even and merges no record (R205). -/
def Tfd.quiet (t : Tfd) : Tfd := { t with rnd := false, sill := false }
def DstFmt.quiet (d : DstFmt) : DstFmt := { d with rnd := false, sill := false }
def Prod.quiet (p : Prod) : Prod :=
  { p with a := { p.a with t := p.a.t.quiet }, b := { p.b with t := p.b.t.quiet },
           d0 := { p.d0 with fmt := p.d0.fmt.quiet }, d1 := p.d1.map (fun d => { d with fmt := d.fmt.quiet }) }

/-- What a product is made of, once its descriptors have passed their checks. -/
structure ProdJob where
  job  : Job2
  scat : Bool
  mode : Nat
  seq  : Nat
  /-- LEDGER96 blocks each output tile expects (NBLK of Table 9-3); 0 when no running sums arrive -/
  nblk : Nat := 0
deriving DecidableEq, Repr

/-- Output rows: M, or the destination's rows in a scatter-add. -/
def ProdJob.rows (j : ProdJob) : Nat := if j.scat then j.job.p.scatRows else j.job.p.m

/-- The output tiles (R109, R267). -/
def ProdJob.tiles (j : ProdJob) : List Tile :=
  if j.scat && j.job.p.m = 0 then []
  else outputTiles j.rows j.job.p.n j.mode j.seq j.job.p.mode (match j.job.conv with | some c => c.groups | none => 1)

/-- Where the destination blocks or the TERM regions do not fit the tiles (R171, R175). -/
def ProdJob.gridBad (j : ProdJob) : Bool :=
  let p := j.job.p
  let st := decide (p.mode.stat = 1)
  let ds := p.d0 :: (match p.d1 with | some d => [d] | none => [])
  j.tiles.any (fun t =>
    (p.term = 2 && (if st then t.c0 else t.s0) % 32 ≠ 0) ||
    (st && ds.any (fun d => decide (16 ≤ d.chunk) && t.s0 % d.chunk ≠ 0)))

/-- One cell of a worked tile. -/
structure Worked where
  cells  : List CellV
  recs   : List (Nat × Sill)
  counts : Counts
  wloss  : Bool
  sat    : Bool
  /-- term elements of a reducing product by row: row, first column, elements -/
  terms  : List (Nat × Nat × List Word)
deriving DecidableEq, Repr

/-- TERM elements of row m, columns [c, c + w), of a reducing product (R170): binary32, N to a row. -/
def Prod.termRow (p : Prod) (rd : Reader) (m c w : Nat) : Except Stop (List Word) := do
  if w = 0 then return []
  else
    let bs ← rd .other (.of [(kElem, some 7)]) (p.termA + (m * p.n + c) * 4) (w * 4)
    return (List.range w).map (fun n => BitVec.ofNat 32 (leAt bs (4 * n) 4))

/-- Where arriving tensors stand for a reader: beyond every device address, one window for A, B and the running sums (R174). -/
def arriveBase (i : Nat) : Nat := 2 ^ 80 * (i + 1)

/-- Byte of LEDGER96 block bi within its tensor (R91). -/
def l96Offset (bi : Nat) : Nat := 4096 * (bi / 10) + 400 * (bi % 10)

/-- Arriving running sums enter the ledgers of a tile (R96, R114, R174): the first NBLK blocks that cover it. With fewer blocks
than it expects the tile waits. -/
def ProdJob.addSums (j : ProdJob) (rd : Reader) (r : TileRes) : Except Stop TileRes := do
  if j.nblk = 0 then return r
  else
    let nc := ceilDiv j.job.p.n 32
    let bi := fun (c : Nat × Nat × Option Acc) => c.1 * nc + c.2.1 / 32
    let ids := (r.cells.map bi).eraseDups
    if ids.length < j.nblk then throw .wait
    let bs ← (ids.take j.nblk).mapM (fun i => do
      let b ← rd .other .any (arriveBase 2 + l96Offset i) 400
      match L96Block.decode b with
      | none => throw (.fail 0x030A 0)
      | some x => return (i, x))
    return { r with cells := r.cells.map (fun c =>
      match c.2.2, bs.find? (fun b => b.1 == bi c) with
      | some (.led g), some b => (c.1, c.2.1, some (Acc.led (g.addL96 (b.2.elems.getD (c.2.1 % 32) .empty) b.2.bexp b.2.wloss)))
      | some a, some b =>
        (c.1, c.2.1, some (match (b.2.elems.getD (c.2.1 % 32) L96.empty).contrib b.2.bexp with | some x => a.add x | none => a))
      | _, _ => c) }

/-- The ledgers of one tile, before the epilogue. -/
def ProdJob.sums (j : ProdJob) (rd : Reader) (mask : MaskBits) (bias : List Byte) (t : Tile) : Except Stop TileRes := do
  let r ← if j.scat then j.job.p.scatTile rd bias t else j.job.tile rd mask bias t
  j.addSums rd r

/-- A tile's ledgers through stages 1 to 5. -/
def ProdJob.finish (j : ProdJob) (rd : Reader) (bias : List Byte) (t : Tile) (r : TileRes) : Except Stop Worked := do
  let p := j.job.p
  let ms := if p.mode.stat = 1 then (List.range t.cn).map (t.c0 + ·) else (List.range t.sn).map (t.s0 + ·)
  let n0 := if p.mode.stat = 1 then t.s0 else t.c0
  let nw := if p.mode.stat = 1 then t.sn else t.cn
  let aux ← ms.mapM (fun m => p.resRow rd m n0 nw)
  let terms ← if p.term = 2 then ms.mapM (fun m => (p.termRow rd m n0 nw).map (fun w => (m, n0, w))) else pure []
  let sa := f32Num p.a.mscale
  let sb := f32Num p.b.mscale
  let val := fun (c : Nat × Nat × Option Acc) =>
    match c.2.2 with
    | none => CellV.masked
    | some a =>
      let x := (aux.getD (ms.idxOf c.1) []).getD (c.2.1 - n0) 0
      let src := p.epilogue bias sa sb c.2.1 x a
      CellV.val src (p.stages bias c.2.1 x (toF32 (a.src sa sb).v))
  let leds := r.cells.filterMap (fun c => match c.2.2 with | some (.led g) => some g | _ => none)
  return { cells := r.cells.map val, recs := r.recs, counts := r.counts, wloss := leds.any (·.wloss), sat := leds.any (·.sat),
           terms := terms }

/-- Work one tile through stage 5. -/
def ProdJob.work (j : ProdJob) (rd : Reader) (mask : MaskBits) (bias : List Byte) (t : Tile) : Except Stop Worked := do
  let r ← j.sums rd mask bias t
  j.finish rd bias t r

/-- The work of a tile: done, or failed with the access that failed it. -/
abbrev Tried := Except (Half × Nat) Worked

/-- Work every tile. None: an access waits. -/
def ProdJob.workAll (j : ProdJob) (rd : Reader) (mask : MaskBits) (bias : List Byte) : List Tile → Option (List (Tile × Tried))
  | [] => some []
  | t :: ts =>
    match j.work rd mask bias t, ProdJob.workAll j rd mask bias ts with
    | .error .wait, _ | _, none => none
    | .error (.fail st a), some r => some ((t, .error (st, a)) :: r)
    | .ok w, some r => some ((t, .ok w) :: r)

/-- The cell at output row m, column n, with the index of its tile. -/
def cellAt (stat : Bool) (ws : List (Tile × Tried)) (m n : Nat) : Nat × CellV :=
  let i := ws.findIdx (fun x =>
    let r := if stat then n else m
    let c := if stat then m else n
    decide (x.1.s0 ≤ r) && decide (r < x.1.s0 + x.1.sn) && decide (x.1.c0 ≤ c) && decide (c < x.1.c0 + x.1.cn))
  match ws[i]? with
  | some (t, .ok w) =>
    (i, w.cells.getD (if stat then (m - t.c0) * t.sn + (n - t.s0) else (m - t.s0) * t.cn + (n - t.c0)) .failed)
  | _ => (i, .failed)

/-- The TERM regions of a product (R171, R510): per region its owner part, the parts that share it, whether it is whole, and
its block. -/
def ProdJob.regions (j : ProdJob) (stat : Bool) (partOf : Nat → Nat) (ws : List (Tile × Tried)) :
    List (Nat × List Nat × Bool × Nat × List Byte) :=
  let p := j.job.p
  let nc := ceilDiv p.n 32
  let tAt := fun (m n : Nat) =>
    let i := (cellAt stat ws m n).1
    match ws[i]? with
    | some (_, .ok w) => ((w.terms.find? (fun x => x.1 == m)).map (fun x => x.2.2.getD (n - x.2.1) 0)).getD 0
    | _ => 0
  if p.term ≠ 2 then []
  else (List.range (ceilDiv j.rows 32 * nc)).map (fun bi =>
    let ms := (List.range (min 32 (j.rows - bi / nc * 32))).map (bi / nc * 32 + ·)
    let ns := (List.range (min 32 (p.n - bi % nc * 32))).map (bi % nc * 32 + ·)
    let at2 := ms.flatMap (fun m => ns.map (fun n => cellAt stat ws m n))
    let cols := ns.map (fun n => ms.filterMap (fun m =>
      match (cellAt stat ws m n).2 with
      | .val _ g => some ((f32Num g).mul (f32Num (tAt m n)))
      | _ => none))
    (partOf (at2.getLast?.map (·.1) |>.getD 0), (at2.map (fun c => partOf c.1)).eraseDups,
     !at2.any (fun c => c.2 == .failed), bi, termBlock cols))

/-- Where LEDGER96 block bi of a tensor stands, with the zeros that end its 4 KiB block (R91). -/
def l96Runs (base bi last : Nat) (bs : List Byte) : List (Nat × List Byte) :=
  (base + l96Offset bi, bs) ::
  (if bi % 10 = 9 || bi = last then [(base + 4096 * (bi / 10) + 4000, zeros 96)] else [])

/-- What every part would commit once its tiles are worked. -/
def ProdJob.outcome (j : ProdJob) (np : Nat) (ws : List (Tile × Tried)) : List PartOut :=
  let p := j.job.p
  let tn := ws.length
  let partOf := fun i => ((List.range np).find? (fun q => decide (i < (partRange tn np q).2))).getD np
  let stat := decide (p.mode.stat = 1)
  let row := fun m => (List.range p.n).map (fun n =>
    let c := cellAt stat ws m n
    ({ part := partOf c.1, v := c.2 } : OutCell))
  let rows := (List.range j.rows).map row
  let zero := fun (_ : Nat) => false
  let out := fun (d : Dst) (term : Option Nat) =>
    (List.range j.rows).flatMap (fun m => d.rowOut term p.fill p.n m zero (rows.getD m []))
  let c0 := out p.d0 (if p.term = 1 then some p.termA else none)
  let c1 := match p.d1 with | some d => (out d none, some d) | none => ([], none)
  let regs := j.regions stat partOf ws
  (List.range np).map (fun q =>
    let r := partRange tn np q
    let mine := (List.range (r.2 - r.1)).filterMap (fun i => ws[r.1 + i]?)
    let good := mine.filterMap (fun x => match x.2 with | .ok w => some w | .error _ => none)
    let bad := mine.findSome? (fun x => match x.2 with | .error e => some e | .ok _ => none)
    let own := regs.filter (fun g => g.1 == q && g.2.2.1)
    let run := fun (g : Nat × List Nat × Bool × Nat × List Byte) => l96Runs p.termO g.2.2.2.1 (regs.length - 1) g.2.2.2.2
    let term : PartOut :=
      { writes := [{ kind := kLedger, fmt := 0xA, tid := 0, bits := [], runs := (own.filter (fun g => g.2.1.all (· == q))).flatMap run,
                     sruns := (own.filter (fun g => !g.2.1.all (· == q))).flatMap (fun g => (run g).map (fun x => (g.2.1, x.1, x.2))) }],
        touch := (regs.filter (fun g => g.2.1.contains q)).map (fun g => (p.termO + l96Offset g.2.2.2.1, 400)) }
    let base : PartOut :=
      { merges := good.flatMap (·.recs), counts := good.foldl (fun c w => c.plus w.counts) {},
        wloss := good.any (·.wloss), sat := good.any (·.sat), fail := bad }
    let d1 := match c1 with | (cs, some d) => d.part cs q | _ => {}
    (((p.d0.part c0 q).plus d1).plus term).plus base)

/-- Every part of a product fails with one failed access: nothing is written, and every destination block is to go STALE (R315). -/
def ProdJob.allFail (j : ProdJob) (np : Nat) (st : Half) (a : Nat) : List PartOut :=
  (j.outcome np (j.tiles.map (fun t => (t, .error (st, a))))).map (fun p => { p with fail := some (st, a) })

/-- What every part of a product would commit, in `np` parts (R267). None: an access waits. -/
def ProdJob.parts (j : ProdJob) (rd : Reader) (np : Nat) : Option (List PartOut) :=
  let p := j.job.p
  match p.readMask rd, p.readBias rd with
  | .error .wait, _ | _, .error .wait => none
  | .error (.fail st a), _ => some (j.allFail np st a)
  | _, .error (.fail st a) => some (j.allFail np st a)
  | .ok mask, .ok bias =>
    (j.workAll rd mask bias j.tiles).map (j.outcome np)

/-- The tiles of a list up to the first that waits. -/
def ProdJob.workUntil (j : ProdJob) (rd : Reader) (mask : MaskBits) (bias : List Byte) : List Tile → Except Stop (List (Tile × Tried))
  | [] => .ok []
  | t :: ts =>
    match j.work rd mask bias t with
    | .error .wait => .ok []
    | .error (.fail st a) => .error (.fail st a)
    | .ok w => (ProdJob.workUntil j rd mask bias ts).map ((t, .ok w) :: ·)

/-- The output tiles from the first on that are worked before one waits, and the failed access that ends them (R172). -/
def ProdJob.ready (j : ProdJob) (rd : Reader) : Except Stop (List (Tile × Tried)) := do
  let mask ← j.job.p.readMask rd
  let bias ← j.job.p.readBias rd
  j.workUntil rd mask bias j.tiles

/-- What commits as the output tiles [lo, hi) complete after those before them (R172): their own blocks and records, and the blocks
split with a tile before them, which the owner writes once it holds every share (R510). -/
def ProdJob.advance (j : ProdJob) (ws : List (Tile × Tried)) (lo hi : Nat) : PartOut :=
  let n := j.tiles.length
  let outs := j.outcome n (ws.take hi ++ (j.tiles.drop hi).map (fun t => (t, .error (0, 0))))
  let now := fun (ps : List Nat) => ps.all (fun i => decide (i < hi)) && ps.any (fun i => decide (lo ≤ i))
  (List.range hi).foldl (fun acc i =>
    let o := outs.getD i {}
    let new := decide (lo ≤ i)
    let settled : PartOut :=
      { o with writes := o.writes.map (fun w =>
                 { w with runs := (if new then w.runs else []) ++ (w.sruns.filter (fun x => now x.1)).map (·.2),
                          bits := (if new then w.bits else []) ++ (w.sbits.filter (fun x => now x.1)).map (·.2), sruns := [], sbits := [] }),
               merges := (o.smerges.filter (fun x => now x.1)).foldl (fun ms x => addMerge ms x.2.1 x.2.2) (if new then o.merges else []),
               smerges := [], counts := if new then o.counts else {}, wloss := new && o.wloss, sat := new && o.sat }
    acc.plus settled) {}

/-! ## Descriptors -/

/-- A product descriptor with its checks: kind, whether a shot names it, mode, references, evaluation. -/
def Prod.read (kind : PKind) (shot : Bool) (md : PMode) (refs : Refs) (eval : Bool) (l : List Byte) : Except Half Prod :=
  (Prod.parse kind shot md refs l).map (fun p => if eval then p.quiet else p)

/-- The job of a product with its companion or convolution. -/
def prodJob (p : Prod) (conv : Option ConvD) (comp : Option Prod) (scat : Bool) (mode seq : Nat) : Except Half ProdJob :=
  let j : ProdJob := { job := { p := p, conv := conv, comp := comp }, scat := scat, mode := mode, seq := seq }
  checked ([(decide (0 < p.a.bnCnt) && comp.isNone, stFormat)] ++
           (match conv with | some c => convChecks c p | none => []) ++
           (match comp with | some c => companionChecks p c | none => []) ++ [(j.gridBad, stFormat)]) j

end Sys2Proof
end

