-- ==== Sys2Proof/Machine/Shots.lean ====
section
/-!
DEFINITION. Shots as their units give them: header, extensions and body (R261 to R264, Table 10-8), the nine checks of R265,
the completion record (R266) and what every shot's meaning shares.
-/
namespace Sys2Proof.Machine

/-! ## Opcodes and bodies (Tables 10-7, 10-8) -/

/-- Body units of an opcode; none for a reserved one. -/
def bodyUnits (op : Nat) : Option Nat :=
  match op with
  | 0x000 => some 0 | 0x001 => some 1 | 0x010 => some 1 | 0x011 => some 1 | 0x012 => some 1 | 0x013 => some 2
  | 0x014 => some 4 | 0x015 => some 1 | 0x100 => some 2 | 0x101 => some 2 | 0x102 => some 1 | 0x103 => some 2
  | 0x200 => some 4 | 0x201 => some 4 | 0x202 => some 4 | 0x203 => some 4 | 0x204 => some 4
  | 0x300 => some 1 | 0x301 => some 1 | 0x302 => some 1 | 0x303 => some 1
  | 0x400 => some 1 | 0x401 => some 9 | 0x402 => some 1 | 0x403 => some 3 | 0x404 => some 1 | 0x405 => some 2
  | _ => none

/-- Admin opcodes (Table 10-7). -/
def isAdminOp (op : Nat) : Bool := decide (0x400 ≤ op) && decide (op ≤ 0x405)

/-- A predicate unit (Table 5-9), or the condition of WAIT_FLAG; the second half says whether a rule of R147 is broken. -/
def predOf (u : List Byte) : Pred × Bool :=
  let ctl := leAt u 5 1
  let sp := leAt u 6 2
  ({ flagAddr := BitVec.ofNat 40 (leAt u 0 5), op := BitVec.ofNat 4 ctl, half := bit ctl 4, span := BitVec.ofNat 12 sp,
     mask := BitVec.ofNat 32 (leAt u 8 4), value := BitVec.ofNat 32 (leAt u 12 4) },
   decide (32 ≤ ctl) || decide (0x1000 ≤ sp) || leAt u 0 5 % 8 ≠ 0 || decide (8 ≤ ctl % 16) ||
   ((ctl % 16 = 6 || ctl % 16 = 7) && leAt u 12 4 ≠ 0))

/-- The condition of a predicate on a half of a flag word (Table 5-10). -/
def Pred.holds (p : Pred) (flag : Dword) : Bool :=
  let f : Word := (if p.half then BitVec.ofNat 32 (flag.toNat / 2 ^ 32) else BitVec.ofNat 32 flag.toNat) &&& p.mask
  match p.op.toNat with
  | 0 => f == p.value
  | 1 => f != p.value
  | 2 => decide (f.toNat < p.value.toNat)
  | 3 => decide (p.value.toNat ≤ f.toNat)
  | 4 => decide (f.toInt < p.value.toInt)
  | 5 => decide (p.value.toInt ≤ f.toInt)
  | 6 => f == p.mask
  | _ => f != 0

/-- Bytes [a, a + n) of a body are reserved and nonzero. -/
def rz (b : List Byte) (a n : Nat) : Bool := leAt b a n != 0
/-- The field of n bytes at a is no multiple of k. -/
def misaligned (b : List Byte) (a n k : Nat) : Bool := leAt b a n % k ≠ 0

/-- A value lies outside lo to hi. -/
def outside (x lo hi : Nat) : Bool := decide (x < lo) || decide (hi < x)

/-- A TFD of LEDGER96 blocks (R44), or of plain binary32 elements; its SILL, SRULE and RND may be set. -/
def sumTfd (w : Nat) : Bool := decide (w < 0x200) && fld w 0 6 = 0xA
def plainF32 (w : Nat) : Bool := decide (w < 0x200) && fld w 0 6 = 7

/-- The body checks of the collectives (R380). STFD names a tensor that is only read: its SILL, SRULE and RND are ignored (Table 2-6). A
DTFD that keeps LEDGER96 may carry them (R44, R58), and then they have no effect. DESIGN CHOICE (assumption 62): a DTFD with a block
layout is FORMAT, since Table 13-17 gives no address for its scales. -/
def collectiveChecks (op : Nat) (b : List Byte) : List (Bool × Half) :=
  let ctl := leAt b 2 1
  let csz := ctl / 16
  let mode := bit ctl 0
  let feed := bit ctl 1
  let count := leAt b 16 8
  let isRed := op = 0x201 || op = 0x202
  let chunk := 4096 * 2 ^ csz
  -- LEDGER96 blocks travel ten to 4 KiB
  let bytes := if isRed then ceilDiv (count / 32) 10 * 4096 else count
  [(decide (0x1000 ≤ leAt b 0 2) || fld ctl 2 2 ≠ 0 || decide (7 < csz), stRsvd),
   (feed && op ≠ 0x200, stRsvd),
   (outside (leAt b 3 1) 1 8 || decide (0x80000 < leAt b 3 1 * chunk), stRsvd),
   (if mode then rz b 4 4 else outside (leAt b 6 2) 1 512 || decide (512 < leAt b 4 2 + leAt b 6 2), stRsvd),
   (!(op = 0x200 || op = 0x201) && rz b 8 2, stRsvd),
   (rz b 10 6, stRsvd),
   (op = 0x204 && (count ≠ 0 || rz b 24 16), stRsvd),
   (decide (4096 < ceilDiv bytes chunk), stRsvd),
   (addrBad b 24 || (!feed && addrBad b 32) || (mode && rz b 32 8), stRsvd),
   (!isRed && (rz b 40 2 || rz b 44 4 || rz b 48 8), stRsvd),
   (!isRed && !feed && rz b 42 2, stRsvd), (feed && decide (1024 ≤ leAt b 42 2), stRsvd),
   (isRed && !sumTfd (leAt b 42 2) && !plainF32 (leAt b 42 2), stFormat),
   (isRed && !sumTfd (leAt b 40 2) && (match Tfd.parseDst (leAt b 40 2) with | some t => t.lay ≠ .plain | none => true), stFormat),
   (isRed && !sumTfd (leAt b 40 2) && !scaleOk (BitVec.ofNat 32 (leAt b 44 4)), stScale),
   (op ≠ 0x203 && rz b 56 8, stRsvd), (op = 0x203 && addrBad b 56, stRsvd),
   (isRed && (addrBad b 48 || count % 32 ≠ 0), if addrBad b 48 then stRsvd else stAlign),
   (isRed && !sumTfd (leAt b 40 2) && bit (leAt b 40 2) 8 && misaligned b 48 8 32, stAlign),
   (op = 0x200 && count % 64 ≠ 0, stAlign), (op = 0x203 && count % 4096 ≠ 0, stAlign)]

/-- The checks of a body's own fields (check 9 of R265, R269, Table 10-8). -/
def bodyChecks (op : Nat) (b : List Byte) : List (Bool × Half) :=
  match op with
  | 0x001 => [(addrBad b 0 || rz b 14 2 || outside (leAt b 8 2) 1 8192 || outside (leAt b 12 2) 1 512 ||
               decide (512 < leAt b 10 2 + leAt b 12 2), stRsvd), (misaligned b 0 8 8, stAlign)]
  | 0x010 | 0x011 => [(addrBad b 0 || addrBad b 8, stRsvd), (misaligned b 0 8 64 || misaligned b 8 8 64, stAlign)]
  | 0x012 => [(addrBad b 0 || rz b 8 8, stRsvd), (misaligned b 0 8 64, stAlign)]
  | 0x013 => [(addrBad b 0 || addrBad b 8 || addrBad b 16, stRsvd)]
  | 0x014 =>
    let gd := leAt b 11 1
    [(decide (32 ≤ gd) || [24, 32, 40, 48, 56].any (addrBad b) || addrBad b 0, stRsvd),
     (outside (leAt b 8 2) 1 1024 || outside (leAt b 10 1) 1 8 || decide (leAt b 8 2 < leAt b 10 1) ||
      outside (leAt b 12 4) 32 65536 || misaligned b 12 4 32 || gd % 4 = 3 || fld gd 2 2 = 3, stFormat),
     (leAt b 20 4 % max 1 (leAt b 12 4) ≠ 0 || misaligned b 56 8 32, stAlign)]
  | 0x015 | 0x300 | 0x402 => [(rz b 4 12, stRsvd)]
  | 0x100 => [(addrBad b 0 || addrBad b 8 || rz b 24 8, stRsvd),
              (misaligned b 0 8 64 || misaligned b 8 8 64 || misaligned b 16 8 64, stAlign)]
  | 0x101 => [(addrBad b 0 || rz b 24 8, stRsvd), (misaligned b 0 8 64 || misaligned b 8 8 64, stAlign)]
  | 0x102 => [(addrBad b 0 || rz b 12 4, stRsvd), (misaligned b 0 8 32, stAlign)]
  | 0x103 => [(addrBad b 0 || rz b 24 8, stRsvd), (misaligned b 0 8 8, stAlign)]
  | 0x200 | 0x201 | 0x202 | 0x203 | 0x204 => collectiveChecks op b
  | 0x301 =>
    let p := predOf b
    [(p.2 && leAt b 0 5 % 8 = 0, stRsvd), (p.1.half || p.1.span ≠ 0, stRsvd), (leAt b 0 5 % 8 ≠ 0, stAlign)]
  | 0x302 => [(decide (4 ≤ leAt b 8 1) || rz b 9 7, stRsvd)]
  | 0x303 => [(outside (leAt b 0 1) 32 63 || rz b 1 7 || bit (leAt b 8 8) 63, stRsvd)]
  | 0x400 => [(rz b 4 4 || addrBad b 8, stRsvd), (misaligned b 8 8 4096, stAlign)]
  | 0x401 => [(rz b 6 10 || (leAt b 4 2 = 0xFFFF && rz b 80 64), stRsvd)]
  | 0x403 =>
    if leAt b 4 1 = 0 then
      [(outside (leAt b 5 1) 1 8 || outside (leAt b 6 2) 1 256 || addrBad b 16 || addrBad b 24 || rz b 40 8, stRsvd),
       (misaligned b 24 8 4096, stAlign), (decide (leAt b 32 8 < 0x400000), stRsvd)]
    else [(decide (1 < leAt b 4 1) || rz b 5 3 || rz b 12 36, stRsvd)]
  | 0x404 => [(decide (1 < leAt b 4 1) || rz b 5 3 || (leAt b 4 1 = 1 && rz b 12 4), stRsvd)]
  | 0x405 =>
    let c := leAt b 2 1
    [(decide (0x1000 ≤ leAt b 0 2) || decide (4 ≤ c) || rz b 3 1, stRsvd),
     (bit c 0 && (outside (leAt b 8 4) 1 65536 || decide (leAt b 8 4 ≤ leAt b 12 4) || addrBad b 16), stRsvd),
     (bit c 0 && misaligned b 16 8 8, stAlign)]
  | _ => []

/-! ## Reading the ring (R272) -/

/-- Capacity of a ring in units (R272). -/
def Reel.capacity (r : Reel) : Nat := 2 ^ (r.size.toNat + 10)

/-- Read ring unit u of a reel: device memory as the reel's tenant, or the owner port's host memory. -/
def State.readUnit (s : State) (n u : Nat) : Except Stop (List Byte) :=
  let r := s.reel n
  let a := r.base.toNat + u % r.capacity * 16
  if r.loc then .ok (s.hostRead (if r.owner = 1 then 1 else 0) a 16)
  else s.read { tenant := r.tenant, use := .other, range := stRange } .any a 16

/-- `k` units from u on. -/
def State.readUnits (s : State) (n : Nat) : Nat → Nat → Except Stop (List Byte)
  | 0, _ => .ok []
  | k + 1, u => do
    let a ← s.readUnit n u
    let b ← s.readUnits n k (u + 1)
    return a ++ b

/-- What Ebtor finds at the head of a reel (R265). -/
inductive Head where
  /-- nothing is published -/
  | empty
  /-- the head shot is not wholly published -/
  | part
  /-- the header waits on memory -/
  | wait
  /-- a check of 1 to 3 failed, or the ring cannot be read: status and SEQ for the HOLD event -/
  | bad (st : Half) (seq : Word)
  /-- a later check failed -/
  | reject (sh : Shot) (st : Half)
  | ready (sh : Shot)
deriving DecidableEq, Repr

/-- SREF by R263: the status of an invalid one. -/
def State.srefBad (s : State) (r : Reel) (sref : Dword) : Option Half :=
  let x := sref.toNat
  let mode := x / 2 ^ 62
  let a := x % 2 ^ 40
  let h := x % 2 ^ 62
  if mode = 3 || (mode = 0 && h ≠ 0) || (mode = 1 && h ≠ a) then some stRsvd
  else if mode = 1 && !s.mapped a || mode = 2 && decide (1 < r.owner.toNat) then some stRange
  else if (mode = 1 || mode = 2) && x % 16 ≠ 0 then some stAlign
  else none

/-- Units of extension that FLAGS announce. -/
def extUnits (flags : Byte) : Nat := b2n (bit flags.toNat 4) + b2n (bit flags.toNat 3)

/-- Read a shot from its units. -/
def shotOf (u : List Byte) : Shot :=
  let fl := leAt u 3 1
  let pr := bit fl 4
  let ch := bit fl 3
  let x := 16 + 16 * b2n pr
  { opcode := BitVec.ofNat 12 (leAt u 0 2), version := BitVec.ofNat 4 (leAt u 0 2 / 4096), len16 := leAt u 2 1,
    flags := BitVec.ofNat 8 fl, seq := BitVec.ofNat 32 (leAt u 4 4), sref := BitVec.ofNat 64 (leAt u 8 8),
    pred := if pr then some (predOf (bytesAt u 16 16)).1 else none,
    chk := if ch then some (BitVec.ofNat 3 (leAt u x 1)) else none,
    body := u.drop (16 + 16 * (b2n pr + b2n ch)) }

/-- Checks 4 to 9 of R265 on a shot whose units are all published. -/
def lateChecks (r : Reel) (u : List Byte) (sh : Shot) : List (Bool × Half) :=
  let op := sh.opcode.toNat
  let x := 16 + 16 * b2n (bit sh.flags.toNat 4)
  let ext := extUnits sh.flags
  [((sh.version != 1 : Bool), stVersion), ((bodyUnits op).isNone, stOpcode),
   (isAdminOp op != r.admin && op ≠ 0 && op ≠ 0x303, stNotAdmin),
   (decide (32 ≤ sh.flags.toNat), stRsvd),
   (decide (sh.len16 < 1 + ext), stLength),
   ((sh.pred.isSome && (predOf (bytesAt u 16 16)).2) ||
    (sh.chk.isSome && (leAt u x 16 ≠ leAt u x 1 % 8 || decide (4 < leAt u x 1 % 8))), stExtension),
   (sh.len16 != 1 + ext + (bodyUnits op).getD 0, stLength)] ++ bodyChecks op sh.body

/-- The checks of R265 on the head of a reel. -/
def State.headOf (s : State) (n : Nat) : Head :=
  let r := s.reel n
  let pub := (r.tail - r.head).toNat
  if pub = 0 then .empty
  else match s.readUnit n r.head.toNat with
    | .error .wait => .wait
    | .error (.fail st _) => .bad st r.nextSeq
    | .ok h =>
      let len := leAt h 2 1
      let seq : Word := BitVec.ofNat 32 (leAt h 4 4)
      if len = 0 || decide (16 < len) then .bad stLength seq
      else if pub < len then .part
      else match s.readUnits n len r.head.toNat with
        | .error .wait => .wait
        | .error (.fail st _) => .bad st r.nextSeq
        | .ok u =>
          let sh := shotOf u
          if seq ≠ r.nextSeq then .bad stSeqOrder seq
          else match s.srefBad r sh.sref with
            | some st => .bad st seq
            | none =>
              match firstBad (lateChecks r u sh) with
              | some st => .reject sh st
              | none => .ready sh

/-! ## Completion (R266) -/

/-- A HOST record or host-window access of a tenant with REQIDE needs a Secure stream of the port (R427). -/
def State.ideOk (s : State) (ten : BitVec 6) (port : Nat) : Bool :=
  !(s.tenant ten.toNat).reqIde || !(s.pf port).ideSecure.isEmpty

/-- Write a completion record at SREF; one whose write fails is dropped. None: the write waits. -/
def State.writeRecord (s : State) (owner : BitVec 2) (ten : BitVec 6) (sref : Dword) (rec : List Byte) : Option State :=
  let x := sref.toNat
  match x / 2 ^ 62 with
  | 1 =>
    match s.write { tenant := ten, use := .other, range := stRange } kRecord 0 0 (x % 2 ^ 40) rec with
    | .ok t => some t
    | .error .wait => none
    | .error (.fail _ _) => some s
  | 2 =>
    let p : Fin 2 := if owner = 1 then 1 else 0
    some (if s.ideOk ten p.val then s.hostWrite p (x % 2 ^ 62) rec else s)
  | _ => some s

/-- Completion record, then the COMPLETION event when NOTIFY is set (R266). None: the record's write waits. -/
def State.complete (s : State) (n : Nat) (ten : BitVec 6) (sh : Shot) (rec : List Byte) : Option State :=
  (s.writeRecord (s.reel n).owner ten sh.sref rec).map (fun s =>
    if bit sh.flags.toNat 2 then s.post (s.reel n).notifyMb.toNat (completionWord n sh.seq) else s)

/-- The head shot is journalled with the result of its predicate, and leaves the ring: HEAD and NEXTSEQ advance (R38, R149). -/
def State.consume (s : State) (n : Nat) (sh : Shot) (pred : Option Bool) : State :=
  { s with journal := (⟨Fin.ofNat 1024 n, sh.seq⟩, pred) :: s.journal }.modReel n (fun r =>
    { r with head := r.head + BitVec.ofNat 32 sh.len16, nextSeq := r.nextSeq + 1, ready := none, part := false })

/-- Check the head of a reel until a shot is ready or nothing more can be decided (R265): rejected shots complete at once. -/
def State.lookHead : Nat → Nat → State → State
  | 0, _, s => s
  | fuel + 1, n, s =>
    let r := s.reel n
    if !r.en || r.held || r.ready.isSome || !s.ebtor then s
    else match s.headOf n with
      | .empty => s.setReel n { r with part := false }
      | .part => s.setReel n { r with part := true }
      | .wait => s
      | .bad st seq => (s.setReel n { r with part := false }).hold n st seq
      | .ready sh => s.setReel n { r with part := false, ready := some sh }
      | .reject sh st =>
        -- a member of a false predicate's span is skipped whatever it holds (R150, assumption 36)
        let st := if 0 < r.span then 0x0001#16 else st
        match ((s.setReel n { r with span := r.span - 1 }).consume n sh none).complete n r.tenant sh
            (completionRecord sh.seq st false false false 1 0) with
        | none => s
        | some u => State.lookHead fuel n u

/-- Look at the head of a reel; one pass can reject at most the units of the largest ring. -/
def State.look (s : State) (n : Nat) : State := State.lookHead ((s.reel n).tail - (s.reel n).head).toNat.succ n s

/-! ## What every shot's meaning shares -/

/-- Opcodes whose parts run on cores and so form batches (R449). -/
def isCoreWork (op : Nat) : Bool := op = 0x001 || (decide (0x010 ≤ op) && decide (op ≤ 0x014))

/-- Run a shot that has been dispatched and has not landed; anything else leaves the state as it is (assumption 1). No core works
during a thermal trip (Table 16-2). -/
def State.withShot (s : State) (r : ShotRef) (op : Nat) (g : Tracked → State) : State :=
  match s.trackedOf r with
  | some t => if (t.phase == .dispatched || t.phase == .running) && t.shot.opcode.toNat == op && s.clocks && s.ebtor &&
                !(isCoreWork op && s.pwr.thermTrip)
              then g t else s
  | none => s

/-- The requester of a shot's accesses (R287, R426). -/
def Tracked.req (t : Tracked) : Req := { tenant := t.tenant, use := .other, range := stRange }

/-- The recipe references resolved at dispatch (R189), by block. -/
def Tracked.refs (t : Tracked) (base : Nat) : Refs := fun i =>
  (t.resolved.find? (fun r => r.slot == base + i)).map (fun r =>
    { tfd := r.tfd, rot := r.rot.toNat, rotSeed := r.seed, rotStrm := r.rotStream,
      -- a quantised operand keeps its source's master scale (R155)
      mscale := if r.slot % 4 < 2 then (r.src.map (·.2)).getD r.mscale else r.mscale, trans := r.src.map (·.1), seed := r.seed,
      stream := r.stream, sill := r.sill.toNat, bnAddr := r.bnAddr.toNat, bnCnt := r.bnCnt, tid := r.tid })

/-- End a shot of one part with a status; a memory failure is reported by R318. -/
def State.endShot (s : State) (r : ShotRef) (st : Half) : State := s.modTracked r (fun t => t.landOne st)

/-- End a shot of one part with a failed access. -/
def State.failShot (s : State) (r : ShotRef) (st : Half) (a : Nat) : State :=
  (s.slateFault st a r.reel.val r.seq).endShot r st

/-- End a shot rejected by check 9. -/
def State.rejectShot (s : State) (r : ShotRef) (st : Half) : State := s.modTracked r (fun t => t.reject st)

/-- The parts with those failed whose reads have failed at a hub or on the way from it (R301, R318). -/
def Tracked.withLost (t : Tracked) (ps : List PartOut) : List PartOut :=
  ps.zipIdx.map (fun p =>
    match t.lost.find? (fun x => x.1 == p.2) with
    | some x => { p.1 with fail := some (x.2.1, reported + x.2.2) }
    | none => p.1)

/-- End a split shot with its parts. DESIGN CHOICE (assumption 28): WLOSS and SAT of the completion are those of the parts that did not
fail; the spec does not say whether a failed part's ledgers count (R84). -/
def State.landShot (s : State) (t : Tracked) (r : ShotRef) (taint : List Nat) (ps : List PartOut) : State :=
  let ps := t.withLost ps
  match s.runParts t.req taint r.reel.val r.seq ps with
  | none => s
  | some (u, fs) =>
    let good := (ps.zip fs).filter (fun x => x.2.isNone)
    (u.countParts ps).modTracked r (fun t =>
      { t.land fs (good.any (·.1.wloss)) (good.any (·.1.sat)) with taint := taint })

end Sys2Proof.Machine
end

