-- ==== Sys2Proof/Machine/Checks.lean ====
section
/-!
DEFINITION. What the shots with descriptors in memory are made of, once their descriptors have passed check 9 of R265: MATMUL, CONV,
SCATTER and CONVERT (Tables 9-4 to 9-6, 10-8).
-/
namespace Sys2Proof.Machine

/-- A MATMUL by its product descriptor d and, when its body names one, its companion descriptor c (R193). -/
def matmulJob (t : Tracked) (d c : List Byte) : Except Half ProdJob := do
  let p ← Prod.read .mm true (PMode.ofByte (leAt d 307 1)) (t.refs 0) t.eval d
  let comp ← if leAt t.shot.body 8 5 = 0 then pure none
             else (Prod.read .comp true (PMode.ofByte (leAt c 307 1)) (t.refs 4) t.eval c).map some
  prodJob p none comp false t.mode.toNat t.shot.seq.toNat

/-- A CONV by its product descriptor and its convolution descriptor (R239). -/
def convShotJob (t : Tracked) (d c : List Byte) : Except Half ProdJob := do
  let p ← Prod.read .conv true (PMode.ofByte (leAt d 307 1)) (t.refs 0) t.eval d
  let cd ← ConvD.parse c
  prodJob p (some cd) none false t.mode.toNat t.shot.seq.toNat

/-- A SCATTER by its product descriptor (R240). -/
def scatterJob (t : Tracked) (d : List Byte) : Except Half ProdJob := do
  let p ← Prod.read .scat true (PMode.ofByte (leAt d 307 1)) (t.refs 0) t.eval d
  prodJob p none none true t.mode.toNat t.shot.seq.toNat

/-- What a CONVERT is made of, once its descriptors have passed their checks. -/
structure ConvertJob where
  src  : Opnd
  d0   : Dst
  d1   : Option Dst
  comp : Nat
  rows : Nat
  cols : Nat
deriving DecidableEq, Repr

/-- The checks of a CONVERT (R58, R132, R161, R192). -/
def convertJob (t : Tracked) (src dst : List Byte) : Except Half ConvertJob := do
  let b := t.shot.body
  let refs := t.refs 0
  if leAt dst 54 1 % 2 = 0 then throw stRsvd
  -- a CONVERT transposes nothing (assumption 61)
  let o ← Opnd.parse true ((refs 0).map (fun r => { r with trans := none })) Config.convertRotSeed Config.convertRotStrm 0 0
    (leAt b 24 4) src
  let d0 ← Dst.parse true (refs 2) (bytesAt dst 0 64)
  let d1 ← if leAt dst (64 + 54) 1 % 2 = 1 then (Dst.parse true (refs 3) (bytesAt dst 64 64)).map some else pure none
  let d0 := if t.eval then { d0 with fmt := d0.fmt.quiet } else d0
  let d1 := if t.eval then d1.map (fun d => { d with fmt := d.fmt.quiet }) else d1
  let j : ConvertJob :=
    { src := o, d0 := d0, d1 := d1, comp := leAt b 16 5, rows := leAt b 24 4, cols := leAt b 28 4 }
  checked [(o.auxk = 1, stFormat), (o.quant && j.cols % o.rot ≠ 0, stFormat),
           ((decide (0 < d0.bnCnt) || d1.any (fun d => decide (0 < d.bnCnt))) && j.comp = 0, stFormat)] j

/-- The status an access or a check ends with. -/
def statusOf {α : Type} : Except Half α → Option Half
  | .ok _ => none
  | .error st => some st

end Sys2Proof.Machine
end

