-- ==== Sys2Proof/Machine/PowerOps.lean ====
section
/-!
DEFINITION. What dispatch and the power commands share: excursions (R461), batches and grants (R449 to R453).
-/
namespace Sys2Proof.Machine

/-- An excursion of a row of Table 16-2 on a die (16: the device): EXCUR, PWR_EXCURSIONS, a fault record of KIND 0x0D, and the
timing promise of R409 ends. -/
def State.excursion (s : State) (row die : Nat) (st : Half) : State :=
  (s.modPwr (fun p =>
    { p with excur := if p.excur.contains (row, die) then p.excur else p.excur ++ [(row, die)],
             excursions := satInc p.excursions, promise := false })).fault
    { status := st, kind := 0x0D, outcome := 6, loc := if die < 16 then BitVec.ofNat 16 (die * 1024) else 0,
      tidf := BitVec.ofNat 32 row }

/-- The logical cores a PROGRAM names (Table 10-8). -/
def programCores (body : List Byte) : List Nat := (List.range (leAt body 12 2)).map (leAt body 10 2 + ·)

/-- The dies a shot's batches run on (assumption 31). -/
def State.batchDies (s : State) (sh : Shot) : List Nat :=
  if sh.opcode.toNat = 1 then ((programCores sh.body).filterMap (fun l => (s.physical l).map (· / 34))).eraseDups
  else [0]

/-- The entry of the plan in force that lists a shot (R452, R453). -/
def State.planEntry (s : State) (reel : Nat) (seq : Word) (job : Word) : Option (Half × Nat) :=
  match s.pwr.plan with
  | none => none
  | some p =>
    if p.job = job then
      (p.entries.find? (fun e => e.1 == reel && e.2.1 == seq - (s.reel reel).stepSeq)).map (fun e => (e.2.2.1, e.2.2.2.1))
    else none

/-- Watts of the admitted small batches of a die. -/
def State.smallWatts (s : State) (d : Nat) : Nat :=
  ((s.pwr.batches.filter (fun b => b.die == d && b.small && b.admitted)).map (·.watts)).sum

/-- Admit the small batches of the dies in order while the standing allowance of 30 W lasts (R449); without an active control die no
power beyond idle is granted (R39). -/
def State.admitSmall (s : State) : State :=
  if !s.ebtor then s
  else s.pwr.batches.foldl (fun s b =>
    if b.small && !b.admitted && decide (s.smallWatts b.die + b.watts ≤ 30) then
      s.modPwr (fun p => { p with batches := p.batches.map (fun x => if x = b then { x with admitted := true } else x) })
    else s) s

/-- The die governor runs a granted batch at clock step n, never above FMAX (R26, R450). While a trip wire, an excursion of the die or
THROTTLE# keeps the clock down it does not rise (R344, R458, Table 16-2). -/
def State.runDie (s : State) (d n : Nat) : State :=
  s.modDie d (fun v =>
    { v with clk := if v.tripped || s.pwr.throttle || s.pwr.excur.contains (2, d) || s.pwr.excur.contains (5, d) then min v.clk n
                    else min n v.fmax.toNat })

/-- The highest step up to `top` at which an estimate fits a grant; the floor of 1.0 GHz when none does (R450). -/
def fitStep (watts : Nat → Nat) (grant top : Nat) : Nat :=
  (((List.range (top - 39)).map (top - ·)).find? (fun c => decide (watts c ≤ grant))).getD 40

/-- The batches of a shot that streams `rows` rows, at its dispatch; the plan's grants are issued at once (R449, R453). -/
def State.openBatches (s : State) (ref : ShotRef) (sh : Shot) (job : Word) (rows : Nat) : State :=
  if !isCoreWork sh.opcode.toNat then s
  else
    let plan := s.planEntry ref.reel.val ref.seq job
    let mask := match plan with | some e => e.1 | none => 0
    let listed := (List.range 16).filter (fun d => mask.getLsbD d)
    let dies := if sh.opcode.toNat = 1 || listed.isEmpty then s.batchDies sh else listed
    let bs := dies.map (fun d =>
      let c := (s.die d).fmax.toNat
      ({ die := d, ref := ref, watts := Config.batchWatts sh.opcode sh.body d c rows,
         small := decide (Config.batchEnergy sh.opcode sh.body d c rows ≤ 50000),
         admitted := mask.getLsbD d } : Batch))
    let gs := match plan with
      | some e => listed.map (fun d => ({ die := d, watts := e.2, ref := ref, planned := true } : Grant))
      | none => []
    let s := gs.foldl (fun s g =>
      s.runDie g.die (fitStep (fun c => Config.batchWatts sh.opcode sh.body g.die c rows) g.watts (s.die g.die).fmax.toNat)) s
    (s.modPwr (fun p => { p with batches := p.batches ++ bs, grants := p.grants ++ gs, hold := if gs.isEmpty then p.hold else 0 })).admitSmall

/-- A batch of the shot still waits for its grant (R105, R449). -/
def State.grantWaits (s : State) (ref : ShotRef) : Bool := s.pwr.batches.any (fun b => b.ref == ref && !b.admitted)

/-- A shot's batches and grants end. -/
def State.closeBatches (s : State) (ref : ShotRef) : State :=
  (s.modPwr (fun p => { p with batches := p.batches.filter (fun b => b.ref != ref),
                               grants := p.grants.filter (fun g => g.ref != ref) })).admitSmall

/-- The budget in force (R448, R458, R461). -/
def Power.budget (p : Power) : Nat := if p.throttle || p.plantFault then p.thr.toNat else p.cap.toNat

/-- Watts of the grants in force, the standing allowances, idle draw and cue grants (R450, R451). -/
def State.granted (s : State) : Nat :=
  420 + 16 * 30 + (s.pwr.grants.map (·.watts)).sum +
    8 * ((List.range 16).filter (fun d => (s.die d).cue.en)).length

end Sys2Proof.Machine
end

