-- ==== Sys2Proof/Machine/RecipeOps.lean ====
section
/-!
DEFINITION. The recipe table of a job (R184 to R189): its header and entries, the validation of R188, and the resolution of a
recipe reference at dispatch.
-/
namespace Sys2Proof.Machine

/-- Ebtor's accesses for a job carry the tenant of the reel that bound it (R426). -/
def State.jobReq (s : State) (j : Word) : Req := { tenant := (s.job j).tenant, use := .other, range := stRange }

/-- Read a piece of a job's recipe table. -/
def State.readTable (s : State) (j : Word) (off n : Nat) : Except Stop (List Byte) :=
  s.read (s.jobReq j) .any ((s.job j).table.toNat + off) n

/-- The 64 bytes of the recipe header (Table 7-1). -/
def State.readHeader (s : State) (j : Word) : Except Stop (List Byte) := s.readTable j 0 64

/-- The 128 bytes of entry i (Table 7-2). -/
def State.readEntry (s : State) (j : Word) (i : Nat) : Except Stop (List Byte) := s.readTable j (64 + 128 * i) 128

/-- COUNT entries. -/
def State.readEntries (s : State) (j : Word) (count : Nat) : Except Stop (List (List Byte)) :=
  (List.range count).mapM (s.readEntry j)

/-! Fields of a header (Table 7-1) and of an entry (Table 7-2). -/
def hJob (h : List Byte) : Word := BitVec.ofNat 32 (leAt h 0 4)
def hPolicy (h : List Byte) : Nat := leAt h 5 1
def hCount (h : List Byte) : Nat := leAt h 6 2
def hStep (h : List Byte) : Nat := leAt h 8 8
def hScale (h : List Byte) : Word := BitVec.ofNat 32 (leAt h 16 4)
def hClean (h : List Byte) : Nat := leAt h 20 4
def hGrowth (h : List Byte) : Nat := leAt h 24 2
def hMin (h : List Byte) : Int := toSigned 8 (leAt h 26 1)
def hMax (h : List Byte) : Int := toSigned 8 (leAt h 27 1)
def hOvf (h : List Byte) : Nat := leAt h 28 5
def hSeed (h : List Byte) : Dword := BitVec.ofNat 64 (leAt h 36 8)
def hReport (h : List Byte) : Nat := leAt h 44 5

def eTid (e : List Byte) : Word := BitVec.ofNat 32 (leAt e 0 4)
def eRole (e : List Byte) : Nat := leAt e 4 1
def eState (e : List Byte) : Nat := leAt e 5 1
def eActive (e : List Byte) : Bool := bit (eState e) 0
def eGroup (e : List Byte) : Nat := leAt e 6 2 % 4096
def eTfd (e : List Byte) (fb : Bool) : Nat := if fb then leAt e 10 2 else leAt e 8 2
def eRot (e : List Byte) (fb : Bool) : Nat := if fb then fld (leAt e 12 1) 2 2 else leAt e 12 1 % 4
def eMsrc (e : List Byte) : Nat := leAt e 13 1 % 4
def eShift (e : List Byte) : Int := toSigned 8 (leAt e 14 1)
def eHist (e : List Byte) : Nat := leAt e 15 1 % 32
def eMscale (e : List Byte) : Word := BitVec.ofNat 32 (leAt e 16 4)
def eStrm (e : List Byte) : Nat := leAt e 20 4
def eSill (e : List Byte) : Nat := leAt e 24 5
def eLsc (e : List Byte) : Nat := leAt e 32 5
def eBn (e : List Byte) : Nat := leAt e 40 5
def eBnCnt (e : List Byte) : Nat := leAt e 48 2
def eClipT (e : List Byte) : Nat := leAt e 50 1

/-- A binary32 power of two, as its exponent. -/
def pow2Exp (w : Word) : Option Int :=
  match f32Num w with
  | .fin n d => if 0 < n && n.toNat &&& (n.toNat - 1) = 0 then some ((n.toNat.log2 : Int) - d.log2) else none
  | _ => none

/-- Rules of R188 on a header. -/
def headerBad (h : List Byte) : Bool :=
  let ls := match pow2Exp (hScale h) with | some e => decide (e < hMin h) || decide (hMax h < e) | none => true
  outside (hCount h) 1 4096 || decide (4 ≤ hPolicy h) || rz h 52 12 || addrBad h 28 || addrBad h 44 ||
  decide (hMax h < hMin h) || decide (hMin h < -126) || ls || hGrowth h = 0 || hOvf h % 8 ≠ 0 || hReport h % 4096 ≠ 0

/-- Rules of R188 on one entry. -/
def entryBad (e : List Byte) : Bool :=
  decide (7 < leAt e 4 1) || decide (16 ≤ eState e) || decide (0x1000 ≤ leAt e 6 2) || decide (16 ≤ leAt e 12 1) ||
  decide (4 ≤ leAt e 13 1) || eMsrc e = 3 || decide (32 ≤ leAt e 15 1) || rz e 51 13 ||
  (Tfd.parseDst (eTfd e false)).isNone || (Tfd.parseDst (eTfd e true)).isNone ||
  (decide (0 < eBnCnt e) && (eRot e false ≠ 0 || eRot e true ≠ 0)) ||
  (eMsrc e = 2 && outside (eHist e) 1 16) || ((eMsrc e = 0 || eMsrc e = 2) && !scaleOk (eMscale e)) ||
  addrBad e 24 || addrBad e 32 || addrBad e 40 || eSill e % 32 ≠ 0 || eLsc e % 4 ≠ 0 || eBn e % 4 ≠ 0

/-- Width class of a TFD, for the group rule; binary32 is a class of its own. -/
def tfdClass (w : Nat) : Option Nat := (Tfd.parse w).map (fun t => t.f.bits)

/-- Two members of one group that break R188. -/
def groupBad (a b : List Byte) : Bool :=
  eGroup a = eGroup b &&
  (tfdClass (eTfd a false) ≠ tfdClass (eTfd b false) || tfdClass (eTfd a true) ≠ tfdClass (eTfd b true) ||
   eRot a false ≠ eRot b false || eRot a true ≠ eRot b true || eBn a ≠ eBn b || eBnCnt a ≠ eBnCnt b)

/-- Rules of R188 on a whole table; `bind` adds the rule of R195 that AMAXH starts at +0 (assumption 32). -/
def tableBad (bind : Bool) (j : Word) (h : List Byte) (es : List (List Byte)) : Bool :=
  headerBad h || hJob h ≠ j || es.any entryBad || es.any (fun a => es.any (groupBad a)) ||
  (bind && es.any (fun e => rz e 64 64))

/-- The learned scale of an entry as read now (R189, R196). -/
def State.learned (s : State) (j : Word) (e : List Byte) : Except Stop Word := do
  let b ← s.read (s.jobReq j) (acceptElem 7) (eLsc e) 4
  return BitVec.ofNat 32 (leNat b)

/-- Master scale of an entry at dispatch (R189): the stored one, or the learned one read now. None: the read waits. -/
def State.entryScale (s : State) (j : Word) (e : List Byte) : Option (Except Half Word) :=
  if eMsrc e = 1 then
    match s.learned j e with
    | .error .wait => none
    | .error (.fail st _) => some (.error st)
    | .ok w => some (if scaleOk w then .ok w else .error stScale)
  else some (.ok (eMscale e))

/-- The entry whose conversion wrote the tensor that a weight-gradient entry re-quantises through the transposition (R204): that of
the same TID and role AFWD for AWG, GOD for GOW (assumption 61). -/
def State.transEntry (s : State) (j : Word) (h e : List Byte) : Except Stop (Option (List Byte)) :=
  let want := match eRole e with | 4 => some 1 | 5 => some 3 | _ => (none : Option Nat)
  match want with
  | none => pure none
  | some w => do
    let es ← s.readEntries j (hCount h)
    return es.find? (fun x => eRole x = w && eTid x == eTid e)

/-- A reference resolved from the live table (R189): failures as a status. None: the read waits. -/
def State.resolveLive (s : State) (j : Word) (i : Nat) : Option (Except Half Resolved) :=
  if (s.job j).table = 0 then some (.error stRecipe)
  else match s.readHeader j with
    | .error .wait => none
    | .error (.fail st _) => some (.error st)
    | .ok h =>
      if hCount h ≤ i then some (.error stRecipe)
      else match s.readEntry j i with
        | .error .wait => none
        | .error (.fail st _) => some (.error st)
        | .ok e =>
          let fb := eActive e
          let mk := fun (ms : Word) (src : Option (Half × Word)) =>
            ({ slot := 0, tid := eTid e, tfd := BitVec.ofNat 16 (eTfd e fb), rot := BitVec.ofNat 2 (eRot e fb),
               seed := hSeed h, stream := BitVec.ofNat 64 (eStrm e * 2 ^ 32 + hStep h % 2 ^ 32),
               rotStream := BitVec.ofNat 64 (eGroup e), mscale := ms, sill := BitVec.ofNat 40 (eSill e),
               bnAddr := BitVec.ofNat 40 (eBn e), bnCnt := eBnCnt e, src := src } : Resolved)
          match s.entryScale j e, s.transEntry j h e with
          | none, _ => none
          | some (.error st), _ => some (.error st)
          | some (.ok _), .error .wait => none
          | some (.ok _), .error (.fail st _) => some (.error st)
          | some (.ok w), .ok none => some (.ok (mk w none))
          | some (.ok w), .ok (some t) =>
            match s.entryScale j t with
            | none => none
            | some (.error st) => some (.error st)
            | some (.ok v) => some (.ok (mk w (some (BitVec.ofNat 16 (eTfd t (eActive t)), v))))

/-- A reference resolved from the evaluation snapshot (R205): RND and SILL off. -/
def State.resolveEval (s : State) (j : Word) (i : Nat) : Except Half Resolved :=
  match (s.job j).snap with
  | none => .error stRecipe
  | some (seed, es) =>
    match es[i]? with
    | none => .error stRecipe
    | some e =>
      let r : Resolved :=
        { slot := 0, tid := e.tid, tfd := e.tfd &&& 0xFEBF#16, rot := e.rot, seed := seed, stream := 0,
          rotStream := e.group.setWidth 64, mscale := e.mscale, sill := 0, bnAddr := e.bnAddr, bnCnt := e.bnCnt }
      if scaleOk e.mscale then .ok r else .error stScale

/-- The blocks of a descriptor that may carry a reference: slot, offset of TFD, offset of RREF, offset of EN when it has one. -/
def prodBlocks (base : Nat) : List (Nat × Nat × Nat × Option Nat) :=
  [(base, 36, 39, none), (base + 1, 48 + 36, 48 + 39, none), (base + 2, 128 + 52, 128 + 55, some (128 + 54)),
   (base + 3, 192 + 52, 192 + 55, some (192 + 54))]

/-- Resolve the references of one descriptor (R189, R270). None: an access waits. -/
def State.resolveBlocks (s : State) (eval : Bool) (j : Word) (d : List Byte) :
    List (Nat × Nat × Nat × Option Nat) → Option (Except Half (List Resolved))
  | [] => some (.ok [])
  | b :: bs =>
    let on := leAt d b.2.2.1 1 % 2 = 1 && (match b.2.2.2 with | some e => leAt d e 1 % 2 = 1 | none => true)
    match State.resolveBlocks s eval j d bs with
    | none => none
    | some (.error st) => some (.error st)
    | some (.ok rs) =>
      if !on then some (.ok rs)
      else if 0x1000 ≤ leAt d b.2.1 2 then some (.error stRsvd)
      else
        let i := leAt d b.2.1 2
        match (if eval then some (s.resolveEval j i) else s.resolveLive j i) with
        | none => none
        | some (.error st) => some (.error st)
        | some (.ok r) => some (.ok ({ r with slot := b.1 } :: rs))

/-- Read a descriptor for resolution; one that cannot be read now resolves nothing and fails when its shot runs. -/
def State.peek (s : State) (ten : BitVec 6) (a n : Nat) : Option (List Byte) :=
  match s.read { tenant := ten, use := .other, range := stRange } .any a n with
  | .ok b => some b
  | .error (.fail _ _) => some []
  | .error .wait => none

/-- Every reference of a shot (R189, R270). None: an access waits. -/
def State.resolveShot (s : State) (r : Reel) (sh : Shot) : Option (Except Half (List Resolved)) :=
  let a := leAt sh.body 0 5
  let b := leAt sh.body 8 5
  let go := fun (addr n : Nat) (bl : List (Nat × Nat × Nat × Option Nat)) =>
    match s.peek r.tenant addr n with
    | none => none
    | some d => if d.isEmpty then some (Except.ok []) else s.resolveBlocks r.eval r.job d bl
  let both := fun (x y : Option (Except Half (List Resolved))) =>
    match x, y with
    | none, _ | _, none => none
    | some (.error st), _ => some (.error st)
    | some (.ok _), some (.error st) => some (.error st)
    | some (.ok u), some (.ok v) => some (.ok (u ++ v))
  match sh.opcode.toNat with
  | 0x010 => both (go a 384 (prodBlocks 0)) (if b = 0 then some (.ok []) else go b 384 (prodBlocks 4))
  | 0x011 | 0x012 => go a 384 (prodBlocks 0)
  | 0x013 => both (go a 48 [(0, 36, 39, none)]) (go b 128 [(2, 52, 55, some 54), (3, 64 + 52, 64 + 55, some (64 + 54))])
  | _ => some (.ok [])

end Sys2Proof.Machine
end

