-- ==== Sys2Proof/Machine/CoreOps.lean ====
section
/-!
DEFINITION. What commands on cores share: which physical core takes a part (R23, R334), stand-ins and MIRROR partners (R327,
R332), purges and fences (R333, R428), the move of a core's work (R253, R341), and the start and the end of a program's part
(R230, R236, R267).
-/
namespace Sys2Proof.Machine

/-- The die's cores may run work: not stopped, not in reset, not left out at boot. -/
def State.dieRuns (s : State) (d : Nat) : Bool := !(s.die d).stopped && !(s.die d).inReset && !s.boot.dieOut.contains d

/-- The core the die's cue mode reserves (R414). -/
def State.isCueCore (s : State) (k : Nat) : Bool :=
  let q := (s.die (k / 34)).cue
  q.en && q.core.toNat == k % 34

/-- A core with no part, of a die that runs, not testing, fenced, reserved for cue mode or given to a MIRROR pair. -/
def State.idle (s : State) (k : Nat) : Bool :=
  let c := s.coreK k
  (c.role == 0 || c.role == 1) && c.part.isNone && c.pstate != 1 && c.pstate != 2 && c.pstate != 3 && s.dieRuns (k / 34) &&
  !s.isCueCore k && c.partner.isNone

/-- A free stand-in (Table 12-9). -/
def State.isFreeStandIn (s : State) (k : Nat) : Bool := (s.coreK k).role == 1 && s.idle k

/-- A free stand-in of the die, then of any die (R331, R341). -/
def State.freeStandIn (s : State) (d : Nat) : Option Nat :=
  ((dieKeys d).find? s.isFreeStandIn).or (allKeys.find? s.isFreeStandIn)

/-- A MIRROR partner or third core for core k (R327): a free stand-in of its die, of any die, then an idle enabled core. -/
def State.helper (s : State) (k : Nat) (avoid : List Nat) : Option Nat :=
  let free := fun j => s.isFreeStandIn j && !avoid.contains j && j ≠ k
  let idle := fun j => (s.coreK j).role == 0 && s.idle j && !avoid.contains j && j ≠ k
  (((dieKeys (k / 34)).find? free).or (allKeys.find? free)).or (allKeys.find? idle)

/-- The core a part of logical core l goes to now: its physical core, or for a vacant index an enabled core of the same die, and of
any die when that one has none (R334). The part goes to the first of them that is idle, and waits while none is (assumption 34). -/
def State.hostOf (s : State) (l : Nat) : Option Nat :=
  match s.physical l with
  | some k => some k
  | none =>
    let on := fun j => (s.coreK j).role == 0 && s.dieRuns (j / 34)
    let here := (dieKeys (l / 32)).filter on
    (if here.isEmpty then allKeys.filter on else here).find? s.idle

/-! ## Purge, fence, move -/

/-- The cells emptied: no ledger, no sum, no held set. -/
def Mx.cleared (m : Mx) : Mx :=
  { m with ledgers := [], pendCheck := [], pendTile := [], f32 := [], held := none, shape := (0, 0), shares := [], shadowSet := none,
           busy := false, left := 0, back := false, cur := false }

/-- The purge of R428: scratchpad with its descriptor slots, organ, tile registers, row accumulators, ledgers. -/
def Core.purge (c : Core) : Core :=
  { c with scratch := [], organ := [], tl := [], racc := [], mx := c.mx.cleared }

/-- The matrix unit at its committed state (R87, R330): pending sums are discarded but for those of arriving blocks, which are added
again (R174), the stationary sets are abandoned (R118), and the tiles not committed are still to be swapped in. With the
last tile of the output tile before not yet committed, the arrays return to that one. -/
def Mx.restored (m : Mx) : Mx :=
  let keep := (m.pendCheck ++ m.pendTile).filter (·.arriving)
  let m := match m.shadowSet with
    | some o =>
      if o.check then
        { m with ledgers := o.ledgers, f32 := o.f32, acc := o.acc, stat := o.stat, wbase := o.wbase, sa := o.sa, sb := o.sb, desc := o.desc,
                 row0 := o.row0, col0 := o.col0, rowsN := o.rows, colsN := o.cols, shadowSet := none, busy := true, left := 1,
                 checked := true }
      else { m with left := m.left + b2n m.back + b2n m.cur }
    | none => { m with left := m.left + b2n m.back + b2n m.cur }
  { m with pendTile := keep, pendCheck := [], active := none, shadow := none, due := [], latched := [], back := false, cur := false }

/-- The matrix unit as it leaves at a tile boundary (R113, R118, R255): the committed ledgers, and what repeats the uncommitted work. -/
def Mx.atCut (m : Mx) : Mx := { m.restored with state := 6 }

/-- A ledger set or group drains (CORE_MX_STATUS DRAIN). -/
def Mx.drains (m : Mx) : Bool := match m.shadowSet with | some o => !o.check && !o.ready.isEmpty | none => false

/-- An organ slot as it leaves (R181): one that was VALID is filled again before the program goes on, from blocks whose generations must
be those recorded; a fill in flight starts again. -/
def Slot.again : Slot → Slot
  | .filling d nr nc g => .filling d nr nc g
  | .valid _ _ gens d nr nc => .filling d nr nc (some gens)

/-- The organ as it leaves a core. -/
def Core.organAgain (v : Core) : Tab (Option Slot) := v.organ.map (fun e => (e.1, e.2.map Slot.again))

/-- The part of a core that a context holds (Table 9-15). -/
def Core.takeContext (dst src : Core) : Core :=
  { dst with mx := { src.mx.atCut with state := 0, transients := dst.mx.transients, slowRun := 0 }, prog := src.prog, pc := src.pc, queue := src.queue, faultWait := src.faultWait, pstate := src.pstate, pr := src.pr, scratch := src.scratch,
             tl := src.tl, racc := src.racc, topk := src.topk, organ := src.organAgain, cq := src.cq, dq := src.dq,
             arrived := src.arrived, vxTry := src.vxTry, part := src.part, tenant := src.tenant, taint := src.taint }

/-- A core whose context has left. -/
def Core.emptied (c : Core) : Core :=
  { c.purge with mx := { rows := c.mx.rows, transients := c.mx.transients }, prog := [], pc := 0, queue := [], faultWait := none, pr := [], cq := [], dq := [],
                 arrived := [], vxTry := 0, part := none, pstate := 0, taint := [], cut := none }

/-- A change of the CCHKs of every open collective. -/
def State.modCchk (s : State) (g : List (Nat × Nat × Nat) → List (Nat × Nat × Nat)) : State :=
  s.modLinks (fun l => { l with open_ := l.open_.map (fun o => (o.1, { o.2 with cchk := g o.2.cchk })) })

/-- Core key a becomes b in the tracked shots and the CCHKs (a part has moved; R255 for blocks still to arrive). -/
def State.retarget (s : State) (a b : Nat) : State :=
  { (s.modCchk (fun l => l.map (fun x => if x.2.1 = a then (x.1, b, x.2.2) else x))) with tracked := s.tracked.map (fun t => { t with running := t.running.map (fun x => if x.1 = a then (b, x.2) else x) }) }

/-- The work and the logical index of core a move to core b (R253, R331, R341), and its place in a MIRROR pair; b is ENABLED from then
on, or a busy stand-in as a was. -/
def State.moveWork (s : State) (a b : Nat) : State :=
  let ca := s.coreK a
  let s := s.modCoreK b (fun c => { c.takeContext ca with role := if ca.role = 2 then 2 else 0, logical := ca.logical, cut := none,
                                                          partner := ca.partner, votes := ca.votes })
  let s := match ca.partner with
    | some p => s.modCoreK p.key (fun c => { c with partner := some (keyCore b) })
    | none => s
  (s.modCoreK a (fun c => { c.emptied with logical := 0x3FF, partner := none })).retarget a b

/-- Fence a core (R333): purged, out of the logical map, recorded in flash, one fault record with OUTCOME 0x02. -/
def State.fence (s : State) (k : Nat) (cause : BitVec 4) (kind : Nat) (st : Half) (reel : Nat) (seq : Word) : State :=
  ((s.modCoreK k (fun c => { c.emptied with role := 4, logical := 0x3FF, fcause := cause, partner := none, fenceNext := none,
                                            due := false, deferred := false })).modBoot
    (fun b => { b with fences := b.fences ++ [(k, cause)], recSeq := b.recSeq + 1 })).fault
    { status := st, kind := kind, outcome := 2, loc := locCore k, reel := reel, seq := seq }

/-- A transient of core k (R330): counted and logged; the fourth within 24 hours fences the core at its next tile boundary. -/
def State.transient (s : State) (k : Nat) : State :=
  let now := s.clap.count
  s.modCoreK k (fun c =>
    let ts := now :: c.mx.transients.filter (fun t => decide ((now - t).toNat < 86400000000000))
    { c with mx := { c.mx with transients := ts }, fenceNext := if 4 ≤ ts.length then some 1 else c.fenceNext })

/-- Request a cut (R251): issue stops; the core cuts at its next cut point. A program with a precise fault ends instead (Table 9-16). -/
def State.requestCut (s : State) (k : Nat) (why : Nat) : State :=
  if (s.coreK k).pstate = 2 && (s.coreK k).faultWait.isNone then s.modCoreK k (fun c => { c with pstate := 3, cut := some why }) else s

/-- A test in place (R341, R342): ROLE TESTING; the core keeps the logical index it gives back. -/
def State.testCore (s : State) (k : Nat) : State :=
  s.modCoreK k (fun c => { c with role := 3, home := c.logical, logical := 0x3FF, due := false, deferred := false })

/-- An enabled core of the die that can leave the logical map now: one of them, by a free value (R414, assumption 19). -/
def State.cueCandidate (s : State) (d : Nat) : Option Nat :=
  let cs := (dieKeys d).filter (fun k => (s.coreK k).role == 0 && s.idle k)
  cs[s.freeVal.toNat % max 1 cs.length]?

/-- Reserve the die's cue core: it leaves the logical map (R414). With no core to take, EN waits. -/
def State.cueReserve (s : State) (d : Nat) : State :=
  match s.cueCandidate d with
  | none => s.modCue d (fun q => { q with enNext := some true })
  | some k =>
    ((s.modCoreK k (fun c => { c.purge with role := 5, home := c.logical, logical := 0x3FF })).modCue d
      (fun q => { q with en := true, enNext := none, core := BitVec.ofNat 6 (k % 34) })).tick

/-- The cue core returns to the logical map (R414): to its own index when that is vacant, else as a free stand-in. -/
def State.cueReturn (s : State) (d : Nat) : State :=
  let k := d * 34 + (s.die d).cue.core.toNat
  let h := (s.coreK k).home
  let vacant := h ≠ 0x3FF && (s.physical h.toNat).isNone
  (s.modCue d (fun q => { q with en := false, enNext := none, armed := false })).modCoreK k
    (fun c => if c.role = 5 then { c with role := if vacant then 0 else 1, logical := if vacant then h else 0x3FF, home := 0x3FF }
              else c)

/-! ## Parts of a program -/

/-- The status of part p of a program shot: of the lowest of its cores that has failed. The cores of a part are its units of work
(R267). -/
def Tracked.partFail (t : Tracked) (p : Nat) : Option Half :=
  let r := partRange (leAt t.shot.body 12 2) t.nparts p
  ((List.range (leAt t.shot.body 12 2)).filter (fun u => decide (r.1 ≤ u) && decide (u < r.2))).findSome?
    (fun u => (t.fails.find? (fun f => f.1 == u)).map (·.2))

/-- The part of a program shot that its core p belongs to (R267). -/
def Tracked.partOf (t : Tracked) (p : Nat) : Nat :=
  ((List.range t.nparts).find? (fun i =>
    let r := partRange (leAt t.shot.body 12 2) t.nparts i
    decide (r.1 ≤ p) && decide (p < r.2))).getD 0

/-- A tracked program shot lands once no core runs or waits for it (R266, R267). -/
def Tracked.settle (t : Tracked) : Tracked :=
  if t.running.isEmpty && t.queued.isEmpty && t.phase == .running then
    t.land ((List.range t.nparts).map (fun p => (t.partFail p).map (fun st => (st, 0)))) t.wloss t.sat
  else t

/-- The work of core unit p ends with a status (0 when it has succeeded). -/
def Tracked.partDone (t : Tracked) (p : Nat) (st : Half) : Tracked :=
  { t with running := t.running.filter (fun x => x.2 ≠ p), queued := t.queued.filter (· ≠ p),
           fails := if st = 0 then t.fails else t.fails ++ [(p, st)] }.settle

/-- The work of core unit p of a program shot ends. When the shot lands with it, the destinations of its failed parts go STALE (R315). -/
def State.unitDone (s : State) (r : ShotRef) (p : Nat) (st : Half) : State :=
  let s := s.modTracked r (·.partDone p st)
  match s.trackedOf r with
  | some t =>
    if t.phase == .landed && t.failmask ≠ 0 then
      (rangeBlocks ((t.dests.filter (fun x => bit t.failmask.toNat (t.partOf x.1))).map (·.2))).foldl State.markStale s
    else s
  | none => s

/-- Release the MIRROR partner of core k. -/
def State.releasePartner (s : State) (k : Nat) : State :=
  match (s.coreK k).partner with
  | none => s
  | some p => (s.modCoreK p.key (fun c => { c with partner := none, role := if c.role = 2 then 1 else c.role })).modCoreK k
      (fun c => { c with partner := none, votes := 0 })

/-- Start core unit p of a PROGRAM shot when its core is free (R230, R327, R428); anything else leaves it waiting. -/
def State.startPart (s : State) (r : ShotRef) (t : Tracked) (p : Nat) : State :=
  let b := t.shot.body
  -- a core that has begun to load the part goes on with it (PSTATE 0b001)
  let loads := fun (k : Nat) => (s.coreK k).pstate = 1 && (s.coreK k).part == some (r, p)
  match (allKeys.find? loads).or (s.hostOf (leAt b 10 2 + p)) with
  | none => s
  | some k =>
    if !s.idle k && !loads k then s
    else
      let mate := if t.mode = 4 then s.helper k [] else none
      if t.mode = 4 && mate.isNone then s
      else match s.read t.req .any (leAt b 0 5) (8 * leAt b 8 2) with
        | .error .wait => s.modCoreK k (fun c => { c with pstate := 1, part := some (r, p) })
        | .error (.fail st a) =>
          let s := if loads k then s.modCoreK k (fun c => { c with pstate := 5, part := none }) else s
          (s.slateFault st a r.reel.val r.seq).unitDone r p st
        | .ok bytes =>
          let prog := (cut 8 bytes).map (fun w => BitVec.ofNat 64 (leNat w))
          let s := s.modCoreK k (fun c =>
            { (if c.tenant = t.tenant then c else c.purge) with
              prog := prog, pc := 0, queue := [], faultWait := none, pr := [], organ := [], cq := [], dq := [], arrived := [], pstate := 2, fstat := 0, vxTry := 0,
              mx := c.mx.cleared,
              part := some (r, p), tenant := t.tenant, taint := [], partner := mate.map keyCore, cut := none })
          let s := match mate with
            | none => s
            | some m => s.modCoreK m (fun c => { c with partner := some (keyCore k), role := if c.role = 1 then 2 else c.role })
          s.modTracked r (fun t => { t with running := t.running ++ [(k, p)], queued := t.queued.filter (· ≠ p) })

/-- Start every waiting part of a PROGRAM shot that has a free core. -/
def State.startParts (s : State) (r : ShotRef) : State :=
  match s.trackedOf r with
  | none => s
  | some t => if s.grantWaits r then s else t.queued.foldl (fun s p => s.startPart r t p) s

/-- Waiting parts of every program take the cores that are free, while a control die is active (R39). -/
def State.kickPrograms (s : State) : State :=
  if !s.ebtor then s
  else (s.tracked.filter (fun t => t.phase == .running && !t.queued.isEmpty)).foldl
    (fun s t => s.startParts ⟨t.reel, t.shot.seq⟩) s

/-- The part on core k ends with a status; the core is idle, or ended by a fault (Table 9-18). -/
def State.endPart (s : State) (k : Nat) (st : Half) (pstate : BitVec 3) : State :=
  match (s.coreK k).part with
  | none => s.modCoreK k (fun c => { c with pstate := pstate })
  | some (r, p) =>
    ((((s.releasePartner k).modCchk (·.filter (fun x => x.2.1 ≠ k))).modCoreK k
        (fun c => { c with part := none, pstate := pstate, taint := [], cut := none, vxTry := 0, queue := [], faultWait := none })).unitDone r p st).kickPrograms

/-- Collective chunks of a core whose context is in HBM belong to the context until it is resumed (R255). -/
def contextKey (n : Nat) : Nat := 1024 + n

/-- The core a saved context goes back to: no core holds its number any longer. -/
def State.takeSaved (s : State) (n : Nat) : State :=
  { s with contexts := tset s.contexts n none,
           cores := s.cores.map (fun e => (e.1, if e.2.saved = some n then { e.2 with saved := none } else e.2)) }

/-- The program of a saved context ends with a status: its part fails (R86, R267, R318). -/
def State.endSaved (s : State) (n : Nat) (x : Context) (st : Half) (a : Nat) : State :=
  let s := (s.takeSaved n).modCchk (·.filter (fun y => y.2.1 ≠ contextKey n))
  match x.rest.part with
  | some (r, p) => ((s.slateFault st a r.reel.val r.seq).unitDone r p st).kickPrograms
  | none => s

/-- The program that holds a collective chunk, on its core or in a saved context, ends with a status. -/
def State.endHolder (s : State) (key : Nat) (st : Half) : State :=
  if key < contextKey 0 then (if (s.coreK key).part.isSome then s.endPart key st 5 else s)
  else match tget (fun _ => (none : Option Context)) s.contexts (key - contextKey 0) with
    | some x => s.endSaved (key - contextKey 0) x st 0
    | none => s

/-- A core fails its part with a memory failure (R318). -/
def State.failCore (s : State) (k : Nat) (st : Half) (a : Nat) : State :=
  match (s.coreK k).part with
  | none => s
  | some (r, _) =>
    let s := if (slateKind st).isSome then s.modCoreK k (fun c => { c with slateErr := satInc c.slateErr }) else s
    (s.slateFault st a r.reel.val r.seq).endPart k st 5

end Sys2Proof.Machine
end

