-- ==== Sys2Proof/Machine/Reels.lean ====
section
/-!
DEFINITION. Reels: doorbells (R275), dispatch (R274, R147 to R152, R189), completion (R266), flush (R276), release, and the
reel configuration (R273).
-/
namespace Sys2Proof.Machine

/-! ## Doorbells -/

/-- A doorbell word for reel n, from its owner or not, in a Secure IDE stream or not (R275, R427). -/
def State.ringDoorbell (s : State) (n : Nat) (owner ide whole : Bool) (w : Dword) : State :=
  let r := s.reel n
  let x := w.toNat
  let tail : Word := BitVec.ofNat 32 x
  if whole && owner && (ide || !(s.tenant r.tenant.toNat).reqIde) && r.en && x / 2 ^ 48 = 0 && x / 2 ^ 32 % 0x10000 = r.epoch.toNat &&
     decide (0 ≤ (tail - r.tail).toInt) && decide ((tail - r.head).toNat ≤ r.capacity) then
    (s.setReel n { r with tail := tail }).look n
  else s.setReel n { r with dbRej := satInc r.dbRej }

/-- R275, R488: a write into BAR2. A poisoned one is dropped and logged (R490). -/
def doorbell (a : BarAccess) (s : State) : State :=
  let n := a.off / 0x1000
  if a.poison then s.emit (.aerPoisoned a.port)
  else if n < 1024 then
    s.ringDoorbell n ((s.reel n).owner.toNat == a.port.val) a.ide (a.off % 0x1000 = 0 && a.size = 8) a.val
  else s
def execDoorbell (a : BarAccess) (s : State) : Out State := .next (doorbell a s)

/-! ## Dispatch -/

/-- Ebtor dispatches (R39, R274, R286, R468, R476). -/
def State.dispatching (s : State) : Bool :=
  s.ebtor && s.boot.done && !s.boot.failed && !s.boot.quiescing && s.clocks && decide (s.tracked.length < 16384)

/-- Tracked shots of a reel. -/
def State.onReel (s : State) (n : Nat) : List Tracked := s.tracked.filter (fun t => t.reel.val == n)

/-- The fences of R274. -/
def State.fencesOpen (s : State) (n : Nat) (sh : Shot) : Bool :=
  (!bit sh.flags.toNat 0 || (s.onReel n).isEmpty) && !(s.onReel n).any (fun t => bit t.shot.flags.toNat 1)

/-- A shot of the reel holds back those behind it: STEP_END (R273), WAIT_FLAG (R271), LAUNCH_AT (R405). -/
def State.barred (s : State) (n : Nat) : Bool :=
  (s.onReel n).any (fun t => t.shot.opcode == 0x300 || t.shot.opcode == 0x301 || t.shot.opcode == 0x302)

/-- A collective opcode. -/
def isCollective (op : Nat) : Bool := decide (0x200 ≤ op) && decide (op ≤ 0x204)

/-- A collective is open on the cast entry (R382). -/
def State.castBusy (s : State) (sh : Shot) : Bool :=
  isCollective sh.opcode.toNat &&
  (s.links.open_.any (fun e => e.1 == leAt sh.body 0 2) ||
   s.tracked.any (fun t => isCollective t.shot.opcode.toNat && t.phase != .landed && leAt t.shot.body 0 2 == leAt sh.body 0 2))

/-- A region of the tenant waits for its release (Table 15-9). -/
def State.tenantReleasing (s : State) (ten : BitVec 6) : Bool :=
  s.sec.releasing.any (fun e => s.sec.regions.any (fun r => r.1 == e && r.2.owner == ten))

/-- The check mode of a shot (R320). -/
def modeOf (r : Reel) (sh : Shot) : BitVec 3 := sh.chk.getD r.check

/-- Under MIRROR each core that runs the shot finds a partner (R327). -/
def State.mirrorReady (s : State) (r : Reel) (sh : Shot) : Bool :=
  if modeOf r sh = 4 && isCoreWork sh.opcode.toNat then
    let cs := if sh.opcode = 1 then (programCores sh.body).filterMap s.physical else []
    let free := allKeys.filter (fun k => s.idle k && !cs.contains k)
    decide (max 1 cs.length ≤ free.length)
  else true

/-- The head shot of the reel is ready by R274. -/
def State.isReady (s : State) (n : Nat) (sh : Shot) : Bool :=
  let r := s.reel n
  r.en && !r.held && s.fencesOpen n sh

/-- The head shot of the reel may dispatch now. -/
def State.canDispatch (s : State) (n : Nat) : Bool :=
  match (s.reel n).ready with
  | none => false
  | some sh =>
    s.isReady n sh && !s.barred n &&
    (decide (0 < (s.reel n).span) ||
     (!s.castBusy sh && !s.tenantReleasing (s.reel n).tenant && s.mirrorReady (s.reel n) sh))

/-- Round robin within one priority, after the reel served last (R274). -/
def State.pickIn (s : State) (prio : BitVec 2) : Option Nat :=
  let last := tget (fun _ => 1023) s.lastServed prio.toNat
  let cs := (s.reels.map (·.1)).filter (fun n => (s.reel n).prio == prio && s.canDispatch n)
  (cs.find? (fun n => decide (last < n))).or cs.head?

/-- The reel Ebtor serves next (R274). -/
def State.pick (s : State) : Option Nat := (((s.pickIn 0).or (s.pickIn 1)).or (s.pickIn 2)).or (s.pickIn 3)

/-- A shot that ends at dispatch leaves the ring and completes at once. None: its completion record waits (R266). -/
def State.finishNow (s : State) (n : Nat) (sh : Shot) (st : Half) (failmask : Dword) (pred : Option Bool) : Option State :=
  (s.consume n sh pred).complete n (s.reel n).tenant sh (completionRecord sh.seq st false false false 1 failmask)

/-- Logical cores a shot needs: those a PROGRAM names; those of up to 64 parts of other work on cores (assumption 33). -/
def coresNeeded (sh : Shot) : List Nat :=
  if sh.opcode.toNat = 1 then programCores sh.body else if isCoreWork sh.opcode.toNat then List.range 64 else []

/-- Cut the work that a PREEMPT reel's shot displaces (R274, assumption 33). -/
def State.preempt (s : State) (r : Reel) (sh : Shot) : State :=
  if r.preempt then
    ((coresNeeded sh).filterMap s.physical).foldl (fun s k =>
      match (s.coreK k).part with
      | some (q, _) => if r.prio.toNat < (s.reel q.reel.val).prio.toNat then s.requestCut k 0 else s
      | none => s) s
  else s

/-- The rows that a product shot streams, by its descriptors as they read now (R137). 0: no product, or one that cannot be judged yet. -/
def State.streamedRows (s : State) (t : Tracked) : Nat :=
  let get := fun (a n : Nat) => (s.peek t.tenant a n).getD []
  let d := get (leAt t.shot.body 0 5) 384
  let b := leAt t.shot.body 8 5
  let j := match t.shot.opcode.toNat with
    | 0x010 => matmulJob t d (if b = 0 then [] else get b 384)
    | 0x011 => convShotJob t d (get b 64)
    | 0x012 => scatterJob t d
    | _ => .error 0
  match j with
  | .error _ => 0
  | .ok j => (((j.parts (s.reader t.tenant stRange) 1).getD []).map (·.counts.rowcyc)).sum

/-- Dispatch a shot: journalled, tracked, its recipe references resolved, its batches opened (R38, R189, R274, R449). -/
def State.track (s : State) (n : Nat) (sh : Shot) (rs : List Resolved) (pred : Option Bool) : State :=
  let r := s.reel n
  let ref : ShotRef := ⟨Fin.ofNat 1024 n, sh.seq⟩
  let t : Tracked :=
    { reel := ref.reel, shot := sh, mode := modeOf r sh, tenant := r.tenant, job := r.job, eval := r.eval, resolved := rs }
  let s := s.consume n sh pred
  (({ s with tracked := s.tracked ++ [t] }).openBatches ref sh r.job (s.streamedRows t)).preempt r sh

/-- The predicate of a shot, read once at dispatch (R148 to R151). None: the read waits. -/
def State.predicate (s : State) (n : Nat) (sh : Shot) : Option (Except (Half × Nat) Bool) :=
  match sh.pred with
  | none => some (.ok true)
  | some p =>
    match s.read { tenant := (s.reel n).tenant, use := .other, range := stRange } acceptRecord p.flagAddr.toNat 8 with
    | .error .wait => none
    | .error (.fail st a) => some (.error (st, a))
    | .ok b => some (.ok (Pred.holds p (BitVec.ofNat 64 (leNat b))))

/-- Check 9 of R265 on the descriptors a shot names, with its references resolved. One that cannot be read now is judged when the shot
runs. -/
def State.descBad (s : State) (r : Reel) (sh : Shot) (rs : List Resolved) : Option Half :=
  let t : Tracked :=
    { reel := 0, shot := sh, mode := modeOf r sh, tenant := r.tenant, job := r.job, eval := r.eval, resolved := rs }
  let get := fun (a n : Nat) => (s.peek r.tenant a n).filter (fun b => !b.isEmpty)
  let a := leAt sh.body 0 5
  let b := leAt sh.body 8 5
  match sh.opcode.toNat with
  | 0x010 => match get a 384, (if b = 0 then some [] else get b 384) with
    | some d, some c => statusOf (matmulJob t d c)
    | _, _ => none
  | 0x011 => match get a 384, get b 64 with
    | some d, some c => statusOf (convShotJob t d c)
    | _, _ => none
  | 0x012 => match get a 384 with
    | some d => statusOf (scatterJob t d)
    | none => none
  | 0x013 => match get a 48, get b 128 with
    | some d, some c => statusOf (convertJob t d c)
    | _, _ => none
  | _ => none

/-- Serve the head shot of reel n: check 9 of R265 comes before the predicate, and a predicate before the shot runs (R150). A shot whose
completion record cannot be written yet stays at the head. -/
def State.serve (s : State) (n : Nat) (sh : Shot) : State :=
  let r := s.reel n
  if 0 < r.span then ((s.finishNow n sh 0x0001 0 none).map (·.modReel n (fun r => { r with span := r.span - 1 }))).getD s
  else match s.resolveShot r sh with
    | none => s
    | some (.error st) => (s.finishNow n sh st 0 none).getD s
    | some (.ok rs) =>
      match s.descBad r sh rs with
      | some st => (s.finishNow n sh st 0 none).getD s
      | none =>
        match s.predicate n sh with
        | none => s
        | some (.error (st, a)) => (((s.slateFault st a n sh.seq).finishNow n sh st 1 none).map (·.holdHead n st)).getD s
        | some (.ok false) =>
          ((s.finishNow n sh 0x0001 0 (some false)).map
            (·.modReel n (fun r => { r with span := (sh.pred.map (·.span.toNat)).getD 0 }))).getD s
        | some (.ok true) => s.track n sh rs (sh.pred.map (fun _ => true))

/-- Check the head of every reel that has been set up. -/
def State.lookAll (s : State) : State := (s.reels.map (·.1)).foldl State.look s

/-- R274. -/
def dispatch (s : State) : State :=
  if !s.dispatching then s
  else
    let s := s.lookAll
    match s.pick with
    | none => s
    | some n =>
      match (s.reel n).ready with
      | none => s
      | some sh =>
        let u := s.serve n sh
        ({ u with lastServed := tset u.lastServed (s.reel n).prio.toNat n }).look n
def execDispatch (s : State) : Out State := .next (dispatch s)

/-! ## Completion -/

/-- PARTIAL of Table 10-5: a part failed and a part committed. -/
def Tracked.partFlag (t : Tracked) : Bool := t.failmask ≠ 0 && t.failmask.toNat ≠ 2 ^ t.nparts - 1

/-- The completion record of a landed shot (Table 10-5). -/
def Tracked.record (t : Tracked) : List Byte :=
  completionRecord t.shot.seq t.status t.wloss t.sat t.partFlag t.nparts t.failmask

/-- A PROGRAM some of whose parts failed: the records that its other parts have merged take PARTIAL = 1 (R70, R72). None: a merge waits. -/
def State.flagRecords (s : State) (t : Tracked) : Option State :=
  if !t.partFlag then some s
  else (((t.recs.filter (fun x => !bit t.failmask.toNat (t.partOf x.1))).map (·.2)).eraseDups).foldl (fun o a =>
    o.bind (fun u => match u.rmw t.req a 32 (mergeSillage (({} : Sill).record true)) with
      | .ok v => some v
      | .error .wait => none
      | .error (.fail st x) => some (u.slateFault st x t.reel.val t.shot.seq))) (some s)

/-- A reel whose function has been reset is held without an event (R280). -/
def State.holdMuted (s : State) (n : Nat) : State := s.modReel n (fun r => { r with held := true })

/-- A landed shot completes (R266): record, event, hold; it is tracked no longer. While its record cannot be written it stays tracked. -/
def State.completeShot (s : State) (r : ShotRef) (t : Tracked) : State :=
  match (s.flagRecords t).bind (fun u => if t.mute then some u else u.complete r.reel.val t.tenant t.shot t.record) with
  | none => s
  | some s =>
    let s := { s with tracked := s.tracked.filter (fun x => !(x.reel == r.reel && x.shot.seq == r.seq)) }
    let s := (s.closeBatches r).releasePending.openWindow
    match t.holdFor with
    | none => s
    | some st => if t.mute then s.holdMuted r.reel.val else s.holdHead r.reel.val st

/-- R266. -/
def shotComplete (r : ShotRef) (s : State) : State :=
  match s.trackedOf r with
  | some t => if t.phase == .landed && s.ebtor then s.completeShot r t else s
  | none => s
def execShotComplete (r : ShotRef) (s : State) : Out State := .next (shotComplete r s)

/-! ## Flush, release, configuration -/

/-- Shots among `pub` published units from unit u on (FLDROP of Table 10-9). -/
def State.countShots (s : State) (n : Nat) : Nat → Nat → Nat → Nat
  | 0, _, _ => 0
  | fuel + 1, u, pub =>
    if pub = 0 then 0
    else match s.readUnit n u with
      | .error _ => 1
      | .ok h =>
        let len := leAt h 2 1
        if len = 0 || decide (16 < len) || decide (pub ≤ len) then 1 else 1 + s.countShots n fuel (u + len) (pub - len)

/-- A flush takes effect (R276, R152). -/
def State.flushReel (s : State) (n : Nat) : State :=
  let r := s.reel n
  let pub := (r.tail - r.head).toNat
  s.setReel n { r with head := r.tail, epoch := r.epoch + 1, flSeq := r.nextSeq, ready := none, part := false, span := 0,
                       flDrop := BitVec.ofNat 32 (s.countShots n pub r.head.toNat pub) }

/-- R276. -/
def flush (reel : Fin 1024) (s : State) : State := s.flushReel reel.val
def execFlush (reel : Fin 1024) (s : State) : Out State := .next (flush reel s)

/-- WAIT_FLAG and LAUNCH_AT shots of the reel that wait end with SUCCESS (Table 10-18). -/
def State.endWaits (s : State) (n : Nat) : State :=
  { s with tracked := s.tracked.map (fun t =>
      if t.reel.val == n && (t.shot.opcode == 0x301 || t.shot.opcode == 0x302) && t.phase != .landed then t.landOne stSuccess
      else t) }

/-- R272: RELEASE ends a hold; a WAIT_FLAG or LAUNCH_AT that waits on a held reel completes (Table 10-18). -/
def release (reel : Fin 1024) (s : State) : State :=
  if (s.reel reel.val).held then (((s.modReel reel.val (fun r => { r with held := false })).modPwr
      (fun p => { p with tripReleased := p.thermTrip })).endWaits reel.val).look reel.val
  else s
def execRelease (reel : Fin 1024) (s : State) : Out State := .next (release reel s)

/-- A write of GLB_REEL_CFG (R273, Table 10-10). -/
def State.writeCfg (s : State) (n : Nat) (w : Word) : State :=
  let v := w.toNat
  let r := s.reel n
  let nmb := fld v 24 6
  let chk := fld v 12 3
  let own := if r.en || r.admin then r.owner else BitVec.ofNat 2 (fld v 9 2)
  if nmb < 32 || 4 < chk || fld v 9 2 = 3 || 10 < v % 16 || (own = 2 && r.loc) then s.rsv
  else
    let s := s.rsvIf (decide (fld v 30 2 ≠ 0) || decide (fld v 15 9 ≠ 0))
    let en := bit v 11
    let r1 : Reel := { r with notifyMb := BitVec.ofNat 6 nmb, owner := own }
    let r2 : Reel :=
      if r.en then { r1 with checkNext := if BitVec.ofNat 3 chk = r.check then none else some (BitVec.ofNat 3 chk) }
      else { r1 with check := BitVec.ofNat 3 chk, checkNext := none, size := BitVec.ofNat 4 v, preempt := bit v 6,
                     eval := if r.admin then r.eval else bit v 7, prio := if r.admin then r.prio else BitVec.ofNat 2 (fld v 4 2) }
    let s := s.setReel n { r2 with en := en, stepSeq := if en && !r.en then r.nextSeq else r.stepSeq }
    if r.en && !en then (s.flushReel n).endWaits n
    else if !r.en && en then s.look n else s

/-- R273: a write with EN = 1. -/
def reelEnable (reel : Fin 1024) (v : Word) (s : State) : State := s.writeCfg reel.val (v ||| 0x800#32)
def execReelEnable (reel : Fin 1024) (v : Word) (s : State) : Out State := .next (reelEnable reel v s)

/-- R273: a write with EN = 0. -/
def reelDisable (reel : Fin 1024) (v : Word) (s : State) : State := s.writeCfg reel.val (v &&& 0xFFFFF7FF#32)
def execReelDisable (reel : Fin 1024) (v : Word) (s : State) : Out State := .next (reelDisable reel v s)

end Sys2Proof.Machine
end

