-- ==== Sys2Proof/Machine/DataShots.lean ====
section
/-!
DEFINITION. The shots Ebtor and the hubs run without a core (Tables 10-7, 10-8): NOP, COPY, FILL, CLEAR_RECORD, FLAG_WRITE,
EVENT, WAIT_FLAG, LAUNCH_AT, STEP_END.
-/
namespace Sys2Proof.Machine

/-- R269: NOP has no effect. -/
def nop (r : ShotRef) (s : State) : State := s.withShot r 0x000 (fun _ => s.endShot r stSuccess)
def execNop (r : ShotRef) (s : State) : Out State := .next (nop r s)

/-! ## COPY and FILL -/

/-- What a piece of a COPY reads: bytes, kind, format and TIDF (R294, Table 12-3). -/
def State.copyPiece (s : State) (q : Req) (bad : HostErrors) (a n : Nat) : Except Stop (List Byte × BitVec 4 × BitVec 4 × Word) :=
  match hostPort a with
  | some _ =>
    match s.hostAddr a with
    | none => .error (.fail q.range a)
    | some (p, ha) =>
      if !s.ideOk q.tenant p.val then .error (.fail 0x0501 a)
      -- a completion with UR, CA or poison (R490)
      else if bad.any (fun x => decide (ha ≤ x) && decide (x < ha + n)) then .error (.fail q.range a)
      else .ok (s.hostRead p ha n, kRaw, 0, 0)
  | none =>
    match s.read q .any a n with
    | .error e => .error e
    | .ok b => let sl := s.slate (a / 4096)
               .ok (if n = 4096 then (b, sl.kind, sl.fmt, sl.tidf) else (b, kRaw, 0, 0))

/-- The source of one destination block: one piece, or two where it crosses a 4 KiB boundary of the source. -/
def State.copySource (s : State) (q : Req) (bad : HostErrors) (a n : Nat) : Except Stop (List Byte × BitVec 4 × BitVec 4 × Word) :=
  let m := min n (4096 - a % 4096)
  if m = n then s.copyPiece q bad a n
  else do
    let x ← s.copyPiece q bad a m
    let y ← s.copyPiece q bad (a + m) (n - m)
    return (x.1 ++ y.1, kRaw, 0, 0)

/-- A byte whose value the spec leaves open: the i-th of this command (assumption 37). -/
def State.freeByte (s : State) (i : Nat) : Byte := (Config.free (s.fresh + i)).setWidth 8

/-- Source bytes that lie in the destination of the same COPY are free values (assumption 37). -/
def State.blurred (s : State) (src dst len a : Nat) (bs : List Byte) : List Byte :=
  if src ≠ dst && decide (src < dst + len) && decide (dst < src + len) then
    (List.range bs.length).map (fun i =>
      if dst ≤ a + i && a + i < dst + len then s.freeByte (a + i - src) else bs.getD i 0)
  else bs

/-- Destination blocks of [dst, dst + len) (R267). -/
def destBlocks (dst len : Nat) : Nat := if len = 0 then 0 else (dst + len - 1) / 4096 - dst / 4096 + 1

/-- The bytes of destination block u: first address and one past the last. -/
def destRange (dst len u : Nat) : Nat × Nat := (max dst ((dst / 4096 + u) * 4096), min (dst + len) ((dst / 4096 + u + 1) * 4096))

/-- The destination blocks of part p. -/
def partBlocks (dst len p : Nat) : List (Nat × Nat) :=
  let t := destBlocks dst len
  let r := partRange t (partsOf t) p
  (List.range (r.2 - r.1)).map (fun i => destRange dst len (r.1 + i))

/-- A part whose blocks are each made by `f`; the first failure fails it. None: a read waits. -/
def partFrom (bs : List (Nat × Nat)) (f : Nat → Nat → Except Stop Wr) : Option PartOut :=
  let touch := bs.map (fun b => (b.1, b.2 - b.1))
  bs.foldl (fun acc b =>
    match acc with
    | none => none
    | some p => if p.fail.isSome then some p else
      match f b.1 (b.2 - b.1) with
      | .error .wait => none
      | .error (.fail st a) => some { p with fail := some (st, a) }
      | .ok w => some { p with writes := p.writes ++ [w] }) (some { touch := touch })

/-- All parts of a move, or none while a read waits. -/
def moveParts (dst len : Nat) (f : Nat → Nat → Except Stop Wr) : Option (List PartOut) :=
  (List.range (partsOf (destBlocks dst len))).mapM (fun p => partFrom (partBlocks dst len p) f)

/-- Host writes of a part: what it would write, sent to the host window's port. -/
def State.hostWrites (s : State) (p : PartOut) : State :=
  p.writes.foldl (fun s w => w.runs.foldl (fun s r =>
    match s.hostAddr r.1 with
    | some (port, ha) => s.hostWrite port ha r.2
    | none => s) s) s

/-- What a COPY writes at [a, a + n) of its destination: the source's bytes under its kind (R294, Table 12-3). -/
def State.copyMade (s : State) (t : Tracked) (bad : HostErrors) (a n : Nat) : Except Stop Wr := do
  let src := leAt t.shot.body 0 5
  let dst := leAt t.shot.body 8 5
  let x ← s.copySource t.req bad (src + (a - dst)) n
  return { kind := x.2.1, fmt := x.2.2.1, tid := x.2.2.2, bits := [],
           runs := [(a, s.blurred src dst (leAt t.shot.body 16 8) (src + (a - dst)) x.1)] }

/-- The same into a host window, slice by slice (R293, R427). -/
def State.copyMadeHost (s : State) (t : Tracked) (bad : HostErrors) (a n : Nat) : Except Stop Wr :=
  match s.hostAddr a with
  | none => .error (.fail stRange a)
  | some (port, _) => if s.ideOk t.tenant port.val then s.copyMade t bad a n else .error (.fail 0x0501 a)

/-- R294, R267, R490. -/
def copy (r : CopyRun) (s : State) : State :=
  let bad := r.bad
  let r := r.ref
  s.withShot r 0x100 (fun t =>
    let dst := leAt t.shot.body 8 5
    let len := leAt t.shot.body 16 8
    if len = 0 then s.endShot r stSuccess
    else
      match hostPort dst with
      | none =>
        match moveParts dst len (s.copyMade t bad) with
        | none => s
        | some ps => { (s.landShot t r [] ps) with fresh := s.fresh + len }
      | some _ =>
        match moveParts dst len (s.copyMadeHost t bad) with
        | none => s
        | some ps =>
          let u := ((t.withLost ps).filter (fun p => p.fail.isNone)).foldl State.hostWrites s
          { (u.landShot t r [] (ps.map (fun p => { p with writes := [], touch := [] }))) with fresh := s.fresh + len })
def execCopy (r : CopyRun) (s : State) : Out State := .next (copy r s)

/-- What a FILL writes at [a, a + n): byte i of the destination is byte i mod 8 of the pattern. -/
def fillPiece (t : Tracked) (a n : Nat) : Wr :=
  { kind := kRaw, fmt := 0, tid := 0, bits := [],
    runs := [(a, (List.range n).map (fun i => (bytesAt t.shot.body 16 8).getD ((a - leAt t.shot.body 0 5 + i) % 8) 0))] }

/-- R269: FILL writes the pattern over and over from the destination on; the slate is RAW (Table 12-3). -/
def fill (r : ShotRef) (s : State) : State :=
  s.withShot r 0x101 (fun t =>
    let dst := leAt t.shot.body 0 5
    let len := leAt t.shot.body 8 8
    if len = 0 then s.endShot r stSuccess
    else
      match moveParts dst len (fun a n => .ok (fillPiece t a n)) with
      | none => s
      | some ps => s.landShot t r [] ps)
def execFill (r : ShotRef) (s : State) : Out State := .next (fill r s)

/-- R73, R144, R269: identity records are all zeros. -/
def clearRecord (r : ShotRef) (s : State) : State :=
  s.withShot r 0x102 (fun t =>
    let a := leAt t.shot.body 0 5
    let n := 32 * leAt t.shot.body 8 4
    if n = 0 then s.endShot r stSuccess
    else s.landShot t r []
      [{ writes := [{ kind := kRecord, fmt := 0, tid := 0, runs := [(a, zeros n)], bits := [] }], touch := [(a, n)] }])
def execClearRecord (r : ShotRef) (s : State) : Out State := .next (clearRecord r s)

/-- The update of FLAG_WRITE (Table 10-8): (word AND NOT MASK) OR (VALUE AND MASK). -/
def flagUpdate (value mask : Dword) (old : List Byte) : List Byte :=
  leBytes 8 ((BitVec.ofNat 64 (leNat old) &&& ~~~mask) ||| (value &&& mask)).toNat

/-- R269. -/
def flagWrite (r : ShotRef) (s : State) : State :=
  s.withShot r 0x103 (fun t =>
    let b := t.shot.body
    match s.rmw t.req (leAt b 0 5) 8 (flagUpdate (BitVec.ofNat 64 (leAt b 8 8)) (BitVec.ofNat 64 (leAt b 16 8))) with
    | .error .wait => s
    | .error (.fail st a) => s.failShot r st a
    | .ok u => u.endShot r stSuccess)
def execFlagWrite (r : ShotRef) (s : State) : Out State := .next (flagWrite r s)

/-- R284: the word with bits [62:58] replaced by 0x04 is posted; none is after a reset of the reel's function (R280). -/
def event (r : ShotRef) (s : State) : State :=
  s.withShot r 0x303 (fun t =>
    (if t.mute then s else s.post (leAt t.shot.body 0 1) (eventWord 4 (leAt t.shot.body 8 8))).endShot r stSuccess)
def execEvent (r : ShotRef) (s : State) : Out State := .next (event r s)

/-! ## WAIT_FLAG -/

/-- Read the flag word of a WAIT_FLAG: it completes, fails or waits (R271). -/
def State.pollFlag (s : State) (r : ShotRef) (t : Tracked) : State :=
  let p := (predOf t.shot.body).1
  match s.read t.req acceptRecord p.flagAddr.toNat 8 with
  | .error .wait => s
  | .error (.fail st a) => s.failShot r st a
  | .ok b =>
    if Pred.holds p (BitVec.ofNat 64 (leNat b)) then s.endShot r stSuccess
    else s.modTracked r (fun t => { t with phase := .waiting })

/-- R271: the read at dispatch. -/
def waitFlag (r : ShotRef) (s : State) : State := s.withShot r 0x301 (s.pollFlag r)
def execWaitFlag (r : ShotRef) (s : State) : Out State := .next (waitFlag r s)

/-- Run a shot that waits. -/
def State.withWaiting (s : State) (r : ShotRef) (op : Nat) (g : Tracked → State) : State :=
  match s.trackedOf r with
  | some t => if t.phase == .waiting && t.shot.opcode.toNat == op && s.clocks && s.ebtor then g t else s
  | none => s

/-- R271: the reads that follow, at least every 1 µs. -/
def waitFlagPoll (r : ShotRef) (s : State) : State := s.withWaiting r 0x301 (s.pollFlag r)
def execWaitFlagPoll (r : ShotRef) (s : State) : Out State := .next (waitFlagPoll r s)

/-! ## LAUNCH_AT -/

/-- STATE is ACQUIRING or UNLOCKED (R406). -/
def State.clapUnlocked (s : State) : Bool := s.clap.state = 1 || s.clap.state = 4

/-- Every hub writes back and invalidates its vault (R404). -/
def State.cleanVaults (s : State) : State := (List.range 8).foldl (fun s h => s.modHub h (fun h => { h with vault := [] })) s

/-- R404 to R406: LAUNCH_AT reaches dispatch. Counts compare by their signed difference (R507). -/
def launchAt (r : ShotRef) (s : State) : State :=
  s.withShot r 0x302 (fun t =>
    let target : Dword := BitVec.ofNat 64 (leAt t.shot.body 0 8)
    let late := bit (leAt t.shot.body 8 1) 0
    let clean := bit (leAt t.shot.body 8 1) 1
    if s.clapUnlocked then s.endShot r 0x0730
    else if (if clean then 50000 else 20000) ≤ (target - s.clap.count).toInt then
      let u := s.modTracked r (fun t => { t with phase := .waiting })
      if clean then u.cleanVaults.modPwr (fun p => { p with promise := p.excur.isEmpty }) else u
    else s.endShot r (if late then stSuccess else 0x0731))
def execLaunchAt (r : ShotRef) (s : State) : Out State := .next (launchAt r s)

/-- R407: at count TARGET + 250 the shot behind LAUNCH_AT dispatches, or the launch is missed. -/
def launchTarget (r : ShotRef) (s : State) : State :=
  s.withWaiting r 0x302 (fun t =>
    let n := r.reel.val
    if (s.clap.count - BitVec.ofNat 64 (leAt t.shot.body 0 8)).toInt < 250 then s
    else if s.clapUnlocked then s.endShot r 0x0730
    else
      let s := s.look n
      match (s.reel n).ready with
      | some sh =>
        if s.isReady n sh then
          let u := s.endShot r stSuccess
          if u.dispatching && !u.castBusy sh && !u.tenantReleasing (u.reel n).tenant && u.mirrorReady (u.reel n) sh then
            (u.serve n sh).look n
          else u
        else s.endShot r (if bit (leAt t.shot.body 8 1) 0 then stSuccess else 0x0732)
      | none => s.endShot r (if bit (leAt t.shot.body 8 1) 0 then stSuccess else 0x0732))
def execLaunchTarget (r : ShotRef) (s : State) : Out State := .next (launchTarget r s)

/-! ## STEP_END -/

/-- R273: the reel has reached its STEP_END; the step boundary completes it. -/
def stepEnd (r : ShotRef) (s : State) : State :=
  s.withShot r 0x300 (fun _ => s.modTracked r (fun t => { t with phase := .waiting }))
def execStepEnd (r : ShotRef) (s : State) : Out State := .next (stepEnd r s)

end Sys2Proof.Machine
end

