-- ==== Sys2Proof/Machine/Checkpoint.lean ====
section
/-!
DEFINITION. Checkpoint streaming and restore (R208 to R213) with the two phases of an admin shot (R278).
-/
namespace Sys2Proof.Machine

/-- An admin shot has taken effect (R278, R279). -/
def State.adminDone (s : State) (r : ShotRef) : State :=
  s.modGlb (fun g => { g with lastDone := g.lastDone.set r.reel.val (some r.seq) })

def stStaged : Half := 0x0002
def stNoPrepare : Half := 0x010B
def stStageFull : Half := 0x010C
def stCkptBusy : Half := 0x0230
def stCkptTarget : Half := 0x0231
def stRestoreMismatch : Half := 0x030B

/-- Stage a validated prepare (R278): at most 16. -/
def State.stage (s : State) (r : ShotRef) (p : Prepare) : State :=
  if 16 ≤ (s.reel r.reel.val).staged.length then s.rejectShot r stStageFull
  else (s.modReel r.reel.val (fun x => { x with staged := x.staged ++ [p] })).endShot r stStaged

/-- The prepare a commit names: opcode, JOBID and PREP_SEQ (R278). -/
def State.prepared (s : State) (r : ShotRef) (t : Tracked) (prepAt : Nat) : Option Prepare :=
  (s.reel r.reel.val).staged.find? (fun p => p.shot.opcode == t.shot.opcode && leAt p.shot.body 0 4 == leAt t.shot.body 0 4 &&
    p.shot.seq.toNat == leAt t.shot.body prepAt 4)

def State.unstage (s : State) (r : ShotRef) (p : Prepare) : State :=
  s.modReel r.reel.val (fun x => { x with staged := x.staged.filter (· ≠ p) })

/-- An NVMe-oF target that the configuration area holds as VALID (R375). -/
def State.targetOk (s : State) (n : Nat) : Bool :=
  decide (n < 16) && bit (leAt (tget (fun _ => ([] : List Byte)) s.links.targets n) 19 1) 0

/-- L0 of a target (R211, R375). -/
def State.targetL0 (s : State) (n : Nat) : Nat := leAt (tget (fun _ => ([] : List Byte)) s.links.targets n) 40 8

/-- Connect to a target (R375): an admin queue and an I/O queue of depth 128 per usable port (assumption 40: at each commit). -/
def State.connect (s : State) (n : Nat) : State :=
  let ports := leAt (tget (fun _ => ([] : List Byte)) s.links.targets n) 18 1
  ((List.range 4).filter (ports.testBit ·)).foldl
    (fun s e => (s.emit (.nvmeConnect n e 128 false)).emit (.nvmeConnect n e 128 true)) s

/-- One entry of the region list: address, then length (Table 10-8, R208). -/
def regionEntry (b : List Byte) (i : Nat) : Nat × Nat := (leAt b (16 * i) 8, leAt b (16 * i + 8) 8)

/-- Checks of a region list (R208): device-local and mapped, 4 KiB multiples. -/
def State.regionsBad (s : State) (rs : List (Nat × Nat)) : Option Half :=
  firstBad
    [(rs.any (fun r => decide (2 ^ 40 ≤ r.1)), stRsvd),
     (rs.any (fun r => r.1 % 4096 ≠ 0 || r.2 % 4096 ≠ 0), stAlign),
     (rs.any (fun r => decide (2 ^ 40 < r.1 + r.2) ||
        (decide (0 < r.2) && (!s.mapped r.1 || !s.mapped (r.1 + r.2 - 1) || decide (r.1 < s.hashedEnd) != decide (r.1 + r.2 ≤ s.hashedEnd)))),
      stRange)]

/-- R208, R278. -/
def checkpoint (r : ShotRef) (s : State) : State :=
  s.withShot r 0x403 (fun t =>
    let b := t.shot.body
    if s.ckpt.isSome then s.endShot r stCkptBusy
    else if leAt b 4 1 = 0 then
      if !s.targetOk (leAt b 12 4) then s.endShot r stCkptTarget
      else match s.read t.req .any (leAt b 16 5) (16 * leAt b 6 2) with
        | .error .wait => s
        | .error (.fail st a) => s.failShot r st a
        | .ok l =>
          let rs := (List.range (leAt b 6 2)).map (regionEntry l)
          match s.regionsBad rs with
          | some st => s.rejectShot r st
          | none =>
            if !s.mapped (leAt b 24 5) then s.endShot r stRange
            else s.stage r { shot := t.shot, regions := rs.map (fun x => (x.1 / 4096, x.2 / 4096)) }
    else match s.prepared r t 8 with
      | none => s.rejectShot r stNoPrepare
      | some p =>
        let pb := p.shot.body
        if !s.targetOk (leAt pb 12 4) then (s.unstage r p).endShot r stCkptTarget
        else
          let k : Ckpt :=
            { job := BitVec.ofNat 32 (leAt pb 0 4), ref := r, cap := leAt pb 5 1, target := leAt pb 12 4, regions := p.regions,
              shadow := leAt pb 24 5 / 4096, shadowBlocks := leAt pb 32 8 / 4096 }
          { (((s.unstage r p).adminDone r).connect k.target).modTracked r (fun t => { t with phase := .running }) with ckpt := some k })
def execCheckpoint (r : ShotRef) (s : State) : Out State := .next (checkpoint r s)

/-- Blocks of the regions in order: data block n is the n-th of the list (R211). -/
def Ckpt.blocks (k : Ckpt) : List Nat := k.regions.flatMap (fun r => (List.range r.2).map (r.1 + ·))

def Ckpt.tableBlocks (k : Ckpt) : Nat := ceilDiv k.table.length 4096
def Ckpt.slateBlocks (k : Ckpt) : Nat := ceilDiv k.blocks.length 256

/-- Bytes padded with zeros to whole logical blocks. -/
def padBlocks (n : Nat) (bs : List Byte) : List Byte := bytesAt bs 0 (4096 * n)

/-- The manifest (Table 7-9). -/
def Ckpt.manifest (k : Ckpt) : List Byte :=
  let head := leBytes 4 0x4B504B43 ++ leBytes 2 1 ++ leBytes 2 k.regions.length ++ leBytes 4 k.job.toNat ++ zeros 4 ++
    leBytes 8 k.step.toNat ++ leBytes 8 k.key.toNat ++ leBytes 8 k.blocks.length ++ leBytes 4 k.slateBlocks ++
    leBytes 4 k.tableBlocks ++ leBytes 8 k.clapper.toNat ++ zeros 8
  let body := bytesAt (head ++ k.regions.flatMap (fun r => leBytes 8 (r.1 + r.2 * 2 ^ 28))) 0 4088
  body ++ leBytes 8 (crc64 body).toNat

/-- Write logical blocks of the checkpoint's target, and wait for the completion of each write. -/
def State.ckptWrite (s : State) (k : Ckpt) (lba : Nat) (bs : List (List Byte)) : State × Ckpt :=
  (bs.zipIdx.foldl (fun s b => s.emit (.nvmeWrite k.target (lba + b.2) b.1)) s,
   { k with unacked := k.unacked ++ (List.range bs.length).map (lba + ·) })

/-- When every block is sent, the table and the slates are written; once every write has completed, a Flush is sent (R211). -/
def State.ckptAdvance (s : State) : State :=
  match s.ckpt with
  | none => s
  | some k =>
    let sent := k.captured && k.pend.isEmpty && k.copies.isEmpty
    if sent && !k.allSent then
      let l0 := s.targetL0 k.target
      let n := k.blocks.length
      let slates := (List.range n).flatMap (fun i => slateBytes (((k.sentSlates.find? (fun e => e.1 == i)).map (·.2)).getD {}))
      let r := s.ckptWrite { k with allSent := true } (l0 + 1)
        (Sys2Proof.cut 4096 (padBlocks k.tableBlocks k.table ++ padBlocks k.slateBlocks slates))
      { r.1 with ckpt := some r.2 }
    else if k.allSent && !k.flushSent && k.unacked.isEmpty then
      ({ s with ckpt := some { k with flushSent := true } }).emit (.nvmeFlush k.target)
    else s

/-- Capture a pending checkpoint of the job (R209): every block of the regions is pending; table, STEP, key and clapper. -/
def State.capture (s : State) (j : Word) (table : List Byte) (step : Nat) : State :=
  match s.ckpt with
  | none => s
  | some k =>
    if k.job = j && !k.captured then
      { s with ckpt := some { k with
          captured := true, table := table, step := BitVec.ofNat 64 step, key := s.glb.contKey, clapper := s.clap.count,
          pend := k.blocks.eraseDups } }.ckptAdvance
    else s

/-- The checkpoint ends (R211, R212): pending bits and shadow area are released and its shot lands with the status. -/
def State.ckptEnd (s : State) (st : Half) (a : Nat) : State :=
  match s.ckpt with
  | none => s
  | some k => ({ s with ckpt := none }.failShot k.ref st a).logWaiting

/-- R210: a write to a pending block first copies the block and its slate to the shadow area; with no room the write waits. -/
def checkpointShadowCopy (blk : Nat) (s : State) : State :=
  match s.ckpt with
  | none => s
  | some k =>
    if k.pend.contains blk && s.hubServes blk then
      match s.shadow blk with
      | .ok u => u
      | .error _ => { s with ckpt := some { k with waiting := if k.waiting.contains blk then k.waiting else k.waiting ++ [blk] } }
    else s
def execCheckpointShadowCopy (blk : Nat) (s : State) : Out State := .next (checkpointShadowCopy blk s)

/-- A read of the checkpoint stream: every test of R314, and the ciphertext of a sealed or bound block (Table 12-4). -/
def State.streamRead (s : State) (ten : BitVec 6) (blk : Nat) : Except Stop (List Byte) :=
  let a := blk * 4096
  if !s.mapped a then .error (.fail stRange a)
  else if !s.hubServes blk then .error .wait
  else if s.ownerOf a ≠ ten then .error (.fail 0x0501 a)
  else if s.poisoned blk then .error (.fail 0x0311 a)
  else if s.unlisted blk then .error (.fail 0x0310 a)
  else
    let d := s.block blk
    match slateStatus (s.slate blk) (s.slateOk blk d) .any with
    | some st => .error (.fail st a)
    | none => .ok d

/-- A sent block goes to each of its places on the target, with its slate kept for the slate blocks (R211). -/
def State.sendBlock (s : State) (k : Ckpt) (blk : Nat) (d : List Byte) (sl : Slate) : State :=
  let at_ := (List.range k.blocks.length).filter (fun n => k.blocks.getD n 0 == blk)
  let base := s.targetL0 k.target + 1 + k.tableBlocks + k.slateBlocks
  let s := at_.foldl (fun s n => s.emit (.nvmeWrite k.target (base + n) d)) s
  (({ s with ckpt := some { k with
      unacked := k.unacked ++ at_.map (base + ·),
      pend := k.pend.filter (· ≠ blk), copies := k.copies.filter (fun c => c.1 ≠ blk),
      sentSlates := k.sentSlates ++ at_.map (fun n => (n, sl)) } }).ckptAdvance).logWaiting

/-- R210: one block is sent, from its shadow copy if it has one. -/
def checkpointBlockSend (blk : Nat) (s : State) : State :=
  match s.ckpt with
  | none => s
  | some k =>
    let ten := (s.job k.job).tenant
    if !s.clocks || !s.ebtor then s
    else match k.copies.find? (fun c => c.1 == blk) with
      | some (_, sh, sl) =>
        if !s.hubServes sh then s
        else
          let d := s.block sh
          if s.poisoned sh then s.ckptEnd 0x0311 (sh * 4096)
          else if s.unlisted sh then s.ckptEnd 0x0310 (sh * 4096)
          else match slateStatus (s.slate sh) (s.slateOk sh d) .any with
            | some st => s.ckptEnd st (sh * 4096)
            | none => if slateCrc d sl == sl.crc then s.sendBlock k blk d sl else s.ckptEnd 0x0301 (blk * 4096)
      | none =>
        if !k.pend.contains blk then s
        else match s.streamRead ten blk with
          | .error .wait => s
          | .error (.fail st a) => s.ckptEnd st a
          | .ok d => s.sendBlock k blk d (s.slate blk)
def execCheckpointBlockSend (blk : Nat) (s : State) : Out State := .next (checkpointBlockSend blk s)

/-- R211: after the Flush of everything before it, the manifest is written. -/
def checkpointManifestWrite (s : State) : State :=
  match s.ckpt with
  | none => s
  | some k =>
    if k.flushed && !k.manifestSent && s.clocks && s.ebtor then
      { s with ckpt := some { k with manifestSent := true } }.emit (.nvmeWrite k.target (s.targetL0 k.target) k.manifest)
    else s
def execCheckpointManifestWrite (s : State) : Out State := .next (checkpointManifestWrite s)

/-! ## Restore -/

/-- R213, R278: the commit starts the read of the manifest and unbinds the job's table; while another restore runs it waits
(assumption 40). -/
def restore (r : ShotRef) (s : State) : State :=
  s.withShot r 0x404 (fun t =>
    let b := t.shot.body
    let j : Word := BitVec.ofNat 32 (leAt b 0 4)
    if leAt b 4 1 = 0 then
      if !s.targetOk (leAt b 12 4) then s.endShot r stCkptTarget else s.stage r { shot := t.shot }
    else match s.prepared r t 8 with
      | none => s.rejectShot r stNoPrepare
      | some p =>
        let n := leAt p.shot.body 12 4
        if s.restore.isSome then s
        else if !s.targetOk n then (s.unstage r p).endShot r stCkptTarget
        else
          let a := (s.job j).table
          let a := if a = 0 then BitVec.ofNat 40 (Config.placeBlock 2 j.toNat % 0x2000000 * 4096) else a
          let u := ((((s.unstage r p).adminDone r).connect n).modTracked r (fun t => { t with phase := .running })).modJob j
            (fun x => { x with table := 0, bindNext := none, writes := [], tenant := t.tenant })
          { u with restore := some { job := j, ref := r, target := n, addr := a, out := [0] } }.emit (.nvmeRead n (s.targetL0 n)))
def execRestore (r : ShotRef) (s : State) : Out State := .next (restore r s)

/-- Regions of a manifest: 4 KiB block and length (Table 7-9). -/
def manifestRegions (m : List Byte) : List (Nat × Nat) :=
  (List.range (leAt m 6 2)).map (fun i => (leAt m (64 + 8 * i) 8 % 2 ^ 28, leAt m (64 + 8 * i) 8 / 2 ^ 28 % 2 ^ 28))

def manifestBlocks (m : List Byte) : List Nat := (manifestRegions m).flatMap (fun r => (List.range r.2).map (r.1 + ·))

/-- The checks of R213 on a manifest. -/
def manifestOk (m : List Byte) (key : Dword) : Bool :=
  let d := ((manifestRegions m).map (·.2)).sum
  leAt m 0 4 = 0x4B504B43 && leAt m 4 2 = 1 && decide (1 ≤ leAt m 6 2) && decide (leAt m 6 2 ≤ 256) &&
  leAt m 4088 8 = (crc64 (m.take 4088)).toNat && leAt m 24 8 = key.toNat && leAt m 32 8 = d && leAt m 40 4 = ceilDiv d 256

def State.restoreEnd (s : State) (k : Restore) (st : Half) (a : Nat) : State := { s with restore := none }.failShot k.ref st a

/-- All blocks placed: the captured table is written and bound (R213). None: the write waits. -/
def State.restoreDone (s : State) (k : Restore) : Option State :=
  let q : Req := { tenant := (s.job k.job).tenant, use := .other, range := stRange }
  match s.write q kRecord 0 0 k.addr.toNat (k.table.take (64 + 128 * hCount k.table)) with
  | .error .wait => none
  | .error (.fail st a) => some (s.restoreEnd k st a)
  | .ok u => some (({ u with restore := none }.modJob k.job (fun x => { x with table := k.addr })).endShot k.ref stSuccess)

/-- Ask for n logical blocks of the target, the first at L0 + from: the next part of a restore. -/
def State.askBlocks (s : State) (k : Restore) (from_ n : Nat) : State :=
  (List.range n).foldl (fun s i => s.emit (.nvmeRead k.target (s.targetL0 k.target + from_ + i)))
    { s with restore := some { k with out := (List.range n).map (from_ + ·), got := [] } }

/-- The blocks of a part of a restore, in order. -/
def Restore.part (k : Restore) (from_ n : Nat) : List Byte :=
  (List.range n).flatMap (fun i => ((k.got.find? (fun g => g.1 == from_ + i)).map (·.2)).getD [])

/-- Place data block n at its address, after the test of its slate (R213). -/
def State.placeData (s : State) (k : Restore) (n : Nat) (d : List Byte) : Except Stop State := do
  let blk := (manifestBlocks k.manifest).getD n 0
  let sl := slateOf (bytesAt k.slates (16 * n) 16)
  let q : Req := { tenant := (s.job k.job).tenant, use := .other, range := stRange }
  if slateCrc d sl ≠ sl.crc then throw (.fail 0x0301 (blk * 4096))
  else s.writeBlock q [] sl.kind sl.fmt sl.tidf blk [(0, d)]

/-- Logical block i of the target, counted from L0, has come (R213): the manifest, then the table image, then the slates, then the data
blocks, each part in any order. None: a write waits, and the completion with it. -/
def State.restoreData (s : State) (k : Restore) (i : Nat) (data : List Byte) : Option State :=
  let d := bytesAt data 0 4096
  let tb := leAt k.manifest 44 4
  let sb := leAt k.manifest 40 4
  let k' := { k with out := k.out.filter (· ≠ i), got := k.got ++ [(i, d)] }
  let more := some { s with restore := some k' }
  if k.manifest.isEmpty then
    -- a table has 1 to 4,096 entries, so at most 129 blocks
    some (if manifestOk d s.glb.contKey && decide (0 < leAt d 44 4) && decide (leAt d 44 4 ≤ 129)
      then s.askBlocks { k with manifest := d } 1 (leAt d 44 4) else s.restoreEnd k stRestoreMismatch 0)
  else if k.table.isEmpty then
    if !k'.out.isEmpty then more
    else
      let t := k'.part 1 tb
      if tb ≠ ceilDiv (64 + 128 * hCount t) 4096 then some (s.restoreEnd k stRestoreMismatch 0)
      else if leAt k.manifest 32 8 = 0 then s.restoreDone { k with table := t }
      else some (s.askBlocks { k with table := t } (1 + tb) sb)
  else if k.slates.isEmpty then
    if !k'.out.isEmpty then more
    else some (s.askBlocks { k with slates := k'.part (1 + tb) sb } (1 + tb + sb) (leAt k.manifest 32 8))
  else
    match s.placeData k (i - (1 + tb + sb)) d with
    | .error .wait => none
    | .error (.fail st a) => some (s.restoreEnd k st a)
    | .ok u =>
      let k' := { k' with got := [] }
      if k'.out.isEmpty then u.restoreDone k' else some { u with restore := some k' }

/-- A command of the checkpoint has completed: a write, the Flush once it is sent, and the manifest's write, which ends it (R211). -/
def State.ckptAck (s : State) (k : Ckpt) (c : NvmeCmd) : State :=
  match c with
  | .write lba =>
    if k.manifestSent && lba == s.targetL0 k.target then ({ s with ckpt := none }.endShot k.ref stSuccess).logWaiting
    else ({ s with ckpt := some { k with unacked := k.unacked.filter (· ≠ lba) } }).ckptAdvance
  | .flush => if k.flushSent then { s with ckpt := some { k with flushed := true } } else s
  | .read _ => s

/-- The checkpoint has sent a command that has not completed. -/
def State.ckptOwes (s : State) (k : Ckpt) (c : NvmeCmd) : Bool :=
  match c with
  | .write lba => k.unacked.contains lba || (k.manifestSent && lba == s.targetL0 k.target)
  | .flush => k.flushSent && !k.flushed
  | .read _ => false

/-- R211, R212, R213: an NVMe completion advances the checkpoint or the restore whose command it answers, or ends it with CKPT_TARGET; one
that answers no command in flight is dropped. -/
def nvmeCompletion (ok : Bool) (x : NvmeRsp) (s : State) : State :=
  if !s.ebtor then s
  else match x.cmd, s.restore, s.ckpt with
    | .read lba, some k, _ =>
      let l0 := s.targetL0 k.target
      if k.ref ≠ x.ref || decide (lba < l0) || !k.out.contains (lba - l0) then s
      else if ok then (s.restoreData k (lba - l0) x.data).getD s else s.restoreEnd k stCkptTarget 0
    | .read _, none, _ => s
    | c, _, some k =>
      if k.ref ≠ x.ref || !s.ckptOwes k c then s
      else if ok then s.ckptAck k c else s.ckptEnd stCkptTarget 0
    | _, _, none => s
def execNvmeCompletion (ok : Bool) (data : NvmeRsp) (s : State) : Out State := .next (nvmeCompletion ok data s)

end Sys2Proof.Machine
end

