-- ==== Sys2Proof/Machine/Recipes.lean ====
section
/-!
DEFINITION. Recipe tables: RECIPE_BIND, RECIPE_WRITE, EVAL_SNAPSHOT, LSCHECK (R184 to R188, R198, R206) and the step boundary
with its step-end actions (R34 to R37, R195 to R203, R209, R273).
-/
namespace Sys2Proof.Machine

/-- A recipe table as read: header and entries (R184). -/
structure RTable where
  h  : List Byte
  es : List (List Byte)
deriving DecidableEq, Repr

def RTable.image (t : RTable) : List Byte := t.h ++ t.es.flatten

/-- Read a table at an address. -/
def State.readAt (s : State) (q : Req) (a : Nat) : Except Stop RTable := do
  let h ← s.read q .any a 64
  let es ← (List.range (min 4096 (hCount h))).mapM (fun i => s.read q .any (a + 64 + 128 * i) 128)
  return ⟨h, es⟩

/-- A recipe-write on a table (R184, R185, R195): a whole entry clears AMAXH; a header keeps Ebtor's STEP and CLEAN. A larger
COUNT takes in the entries that memory holds behind the table. -/
def State.applyWrite (s : State) (q : Req) (a : Nat) (t : RTable) (w : Nat × List Byte) : Except Stop RTable :=
  if w.1 = 0xFFFF then do
    let h := putAt (putAt (w.2.take 64) 8 (bytesAt t.h 8 8)) 20 (bytesAt t.h 20 4)
    let n := min 4096 (hCount h)
    let more ← (List.range (n - t.es.length)).mapM (fun i => s.read q .any (a + 64 + 128 * (t.es.length + i)) 128)
    return ⟨h, t.es.take n ++ more⟩
  else return { t with es := t.es.set w.1 (bytesAt w.2 0 64 ++ zeros 64) }

def State.applyWrites (s : State) (q : Req) (a : Nat) (ws : List (Nat × List Byte)) (t : RTable) : Except Stop RTable :=
  ws.foldlM (s.applyWrite q a) t

/-- An enabled reel serves the job (R184); admin reels serve every job and do not count. -/
def State.jobRuns (s : State) (j : Word) : Bool :=
  s.reels.any (fun e => (s.reel e.1).en && !(s.reel e.1).admin && (s.reel e.1).job == j)

/-! ## RECIPE_BIND, RECIPE_WRITE, EVAL_SNAPSHOT, LSCHECK -/

def State.bindJob (s : State) (j : Word) (a : BitVec 40) (ten : BitVec 6) : State :=
  if s.jobRuns j then s.modJob j (fun b => { b with bindNext := some (a, ten) })
  else s.modJob j (fun b => { b with table := a, tenant := ten, bindNext := none })

/-- R184, R188. -/
def recipeBind (r : ShotRef) (s : State) : State :=
  s.withShot r 0x400 (fun t =>
    let j : Word := BitVec.ofNat 32 (leAt t.shot.body 0 4)
    let a := leAt t.shot.body 8 5
    let bound := fun (_ : Unit) => ((s.bindJob j (BitVec.ofNat 40 a) t.tenant).adminDone r).endShot r stSuccess
    if a = 0 then bound ()
    else match s.readAt t.req a with
      | .error .wait => s
      | .error (.fail st x) => s.failShot r st x
      | .ok tb => if tableBad true j tb.h tb.es then s.rejectShot r stRecipe else bound ())
def execRecipeBind (r : ShotRef) (s : State) : Out State := .next (recipeBind r s)

/-- Address and tenant of the table that recipe-writes will meet (R184, R188). -/
def Job.future (b : Job) : BitVec 40 × BitVec 6 := b.bindNext.getD (b.table, b.tenant)

/-- R184, R188, R195: it becomes pending, and takes effect at the job's next step boundary. -/
def recipeWrite (r : ShotRef) (s : State) : State :=
  s.withShot r 0x401 (fun t =>
    let j : Word := BitVec.ofNat 32 (leAt t.shot.body 0 4)
    let b := s.job j
    let a := b.future.1.toNat
    let q : Req := { tenant := b.future.2, use := .other, range := stRange }
    let w := (leAt t.shot.body 4 2, bytesAt t.shot.body 16 128)
    if a = 0 then s.rejectShot r stRecipe
    else match (s.readAt q a).bind (s.applyWrites q a b.writes) with
      | .error .wait => s
      | .error (.fail st x) => s.failShot r st x
      | .ok tb =>
        if w.1 ≠ 0xFFFF && decide (tb.es.length ≤ w.1) then s.rejectShot r stRecipe
        else match s.applyWrite q a tb w with
          | .error .wait => s
          | .error (.fail st x) => s.failShot r st x
          | .ok new =>
            if tableBad false j new.h new.es then s.rejectShot r stRecipe
            else ((s.modJob j (fun b => { b with writes := b.writes ++ [w] })).adminDone r).endShot r stSuccess)
def execRecipeWrite (r : ShotRef) (s : State) : Out State := .next (recipeWrite r s)

/-- R206: requested now, taken at the next step boundary. -/
def evalSnapshot (r : ShotRef) (s : State) : State :=
  s.withShot r 0x402 (fun t =>
    ((s.modJob (BitVec.ofNat 32 (leAt t.shot.body 0 4)) (fun b => { b with snapNext := true })).adminDone r).endShot r stSuccess)
def execEvalSnapshot (r : ShotRef) (s : State) : Out State := .next (evalSnapshot r s)

/-- A record of the overflow check sets bit 0 (R198): NANS > 0, INFS > 0 or SAT = 1. -/
def overflowed (rec : List Byte) : Bool := leAt rec 20 4 ≠ 0 || leAt rec 24 4 ≠ 0 || bit (leAt rec 4 4) 1

/-- R198. -/
def lscheck (r : ShotRef) (s : State) : State :=
  s.withShot r 0x015 (fun t =>
    let j : Word := BitVec.ofNat 32 (leAt t.shot.body 0 4)
    if (s.job j).table = 0 then s.rejectShot r stRecipe
    else
      let go : Except Stop State := do
        let tb ← s.readAt (s.jobReq j) (s.job j).table.toNat
        let recs ← (tb.es.filter (fun e => bit (eState e) 2)).mapM (fun e => s.read t.req acceptRecord (eSill e) 32)
        -- an evaluation shot never touches OVF_ADDR (R205)
        if t.eval then return s
        s.rmw t.req (hOvf tb.h) 8 (flagUpdate (BitVec.ofNat 64 (b2n (recs.any overflowed))) (BitVec.allOnes 64))
      match go with
      | .error .wait => s
      | .error (.fail st x) => s.failShot r st x
      | .ok u => u.endShot r stSuccess)
def execLscheck (r : ShotRef) (s : State) : Out State := .next (lscheck r s)

/-! ## Step-end actions -/

/-- The machine during the actions of a boundary, with the first status of an access that failed. -/
structure Bnd where
  s    : State
  fail : Option Half := none
deriving DecidableEq, Repr

/-- An access of Ebtor failed: reported, the action is skipped, and the job's reels will be held (R36, assumption 39). -/
def Bnd.failed (b : Bnd) (st : Half) (a : Nat) : Bnd :=
  { s := b.s.slateFault st a 0xFFFF 0, fail := b.fail <|> some st }

def Bnd.read (b : Bnd) (q : Req) (acc : Accept) (a n : Nat) : Except Stop (Bnd × Option (List Byte)) :=
  match b.s.read q acc a n with
  | .ok x => .ok (b, some x)
  | .error (.fail st y) => .ok (b.failed st y, none)
  | .error .wait => .error .wait

def Bnd.write (b : Bnd) (q : Req) (a : Nat) (bs : List Byte) : Except Stop Bnd :=
  match b.s.write q kRecord 0 0 a bs with
  | .ok u => .ok { b with s := u }
  | .error (.fail st y) => .ok (b.failed st y)
  | .error .wait => .error .wait

/-- Causes of Table 7-6 of one judged record. -/
def causesOf (e rec : List Byte) : Nat :=
  let fl := leAt rec 4 4
  if leAt rec 8 8 = 0 then 0x80
  else
    b2n (eClipT e ≠ 0 && decide (leAt rec 8 8 < leAt rec 16 4 * 2 ^ eClipT e)) + 2 * b2n (bit fl 0) + 4 * b2n (bit fl 1) +
    8 * b2n (leAt rec 20 4 ≠ 0 || leAt rec 24 4 ≠ 0) + 16 * b2n (bit fl 2) + 32 * b2n (bit fl 3)

/-- ceil(log2 H) of a positive binary32 AMAX; an infinite one counts as 2^128 (assumption 39). -/
def ceilLogF32 (w : Word) : Int :=
  match f32Num w with
  | .fin n d => (pow2Exp w).getD (floorLog2 n.toNat d + 1)
  | _ => 128

/-- The running-maximum rule (R195): slot STEP mod HIST takes the record's AMAX, and MSCALE follows the largest slot. -/
def runningMax (e : List Byte) (rec : Option (List Byte)) (step : Nat) : List Byte :=
  let n := eHist e
  let e := match rec with | some r => putAt e (64 + 4 * (step % max 1 n)) (bytesAt r 0 4) | none => e
  let h : Word := (List.range n).foldl (fun m i => wordMax m (BitVec.ofNat 32 (leAt e (64 + 4 * i) 4))) 0
  if h = 0 then e else putAt e 16 (leBytes 4 (f32Pow2 (ceilLogF32 h - eShift e)).toNat)

/-- What the actions decide for one entry: its new content, CAUSE, ACTION and the record it was judged on. -/
structure Judged where
  e      : List Byte
  cause  : Nat := 0
  action : Nat := 0
  got    : List Byte := []
deriving DecidableEq, Repr

/-- Steps 2 and 3 of R200 for one entry. -/
def Bnd.judge (b : Bnd) (q : Req) (skipped : Bool) (step : Nat) (e : List Byte) : Except Stop (Bnd × Judged) := do
  let quiet := skipped && bit (eState e) 2
  let wanted := (bit (eState e) 3 || eMsrc e = 2) && !quiet
  let (b, rec) ← if wanted then b.read q acceptRecord (eSill e) 32 else
    match b.s.read q acceptRecord (eSill e) 32 with
    | .ok x => .ok (b, some x)
    | .error (.fail _ _) => .ok (b, none)
    | .error .wait => .error .wait
  let cause := if bit (eState e) 3 && !quiet then (rec.map (causesOf e)).getD 0 else 0
  let j : Judged := { e := e, cause := cause, got := rec.getD [] }
  if eMsrc e = 2 then return (b, { j with e := runningMax e (if quiet then none else rec) step })
  else if eMsrc e = 1 then
    match b.s.read q (acceptElem 7) (eLsc e) 4 with
    | .error .wait => .error .wait
    | .ok w =>
      if scaleOk (BitVec.ofNat 32 (leNat w)) then return (b, { j with e := putAt e 16 w })
      else return (b, { j with e := putAt e 13 [0], cause := j.cause ||| 0x40, action := 4 })
    | .error (.fail st a) =>
      return ({ b with s := b.s.slateFault st a 0xFFFF 0 }, { j with e := putAt e 13 [0], cause := j.cause ||| 0x40, action := 4 })
  else return (b, j)

def Bnd.judgeAll (q : Req) (skipped : Bool) (step : Nat) : List (List Byte) → Bnd → Except Stop (Bnd × List Judged)
  | [], b => .ok (b, [])
  | e :: es, b => do
    let (b, j) ← b.judge q skipped step e
    let (b, js) ← Bnd.judgeAll q skipped step es b
    return (b, j :: js)

/-- The entry has a cause that falls back, on an entry that may (R202). -/
def Judged.wants (j : Judged) : Bool := j.cause &&& 7 ≠ 0 && bit (eState j.e) 1

/-- Step 4 of R200: automatic fall-backs by group, and the entries with a cause that are on their fall-back side (R202). -/
def fallBack (auto : Bool) (js : List Judged) : List Judged :=
  let gs := if auto then (js.filter (fun j => j.wants && !eActive j.e)).map (fun j => eGroup j.e) else []
  js.map (fun j =>
    if eActive j.e then (if j.cause ≠ 0 && j.action = 0 then { j with action := 5 } else j)
    else if gs.contains (eGroup j.e) then
      { j with e := putAt j.e 5 [BitVec.ofNat 8 (eState j.e + 1)], action := if j.wants then 1 else 2 }
    else j)

/-- R37: an automatic change to an entry that the host has written is superseded. -/
def supersede (ws : List (Nat × List Byte)) (i : Nat) (j : Judged) : Judged :=
  if (j.action = 1 || j.action = 2 || j.action = 4) && ws.any (fun w => w.1 == i) then { j with action := 3 } else j

/-- The report (Tables 7-7, 7-8). -/
def reportBytes (step flags : Nat) (ls : List Byte) (j : Word) (js : List Judged) : List Byte :=
  let rows := (List.range js.length).filterMap (fun i =>
    let x := js.getD i { e := [] }
    if x.cause = 0 ∧ x.action = 0 then none
    else some (leBytes 2 i ++ leBytes 2 x.cause ++ leBytes 1 x.action ++ zeros 3 ++ bytesAt x.got 16 4 ++ bytesAt x.got 0 4))
  leBytes 8 step ++ leBytes 4 flags ++ ls ++ leBytes 4 rows.length ++ leBytes 4 j.toNat ++ zeros 8 ++ rows.flatten

/-- What R199 decides: the exponent of LSCALE, CLEAN, and the reports LS_HALVED, LS_DOUBLED and LS_FLOOR. -/
structure LossStep where
  exp     : Int
  clean   : Nat
  halved  : Bool
  doubled : Bool
  floor   : Bool
deriving DecidableEq, Repr

/-- The loss-scale rule (R199) on LSCALE = 2^e, LSMIN, LSMAX, CLEAN and GROWTH. -/
def lossStep (skipped : Bool) (e lsMin lsMax : Int) (clean growth : Nat) : LossStep :=
  let n := if skipped then 0 else (clean + 1) % 2 ^ 32
  let grown := !skipped && n = growth
  let halved := skipped && decide (lsMin < e)
  let doubled := grown && decide (e < lsMax)
  { exp := if halved then e - 1 else if doubled then e + 1 else e, clean := if grown then 0 else n,
    halved := halved, doubled := doubled, floor := skipped && !halved }

/-- The step-end actions of a job with a bound table (R199 to R203, R209), and the status its reels are held with. -/
def Bnd.actions (b : Bnd) (j : Word) : Except Stop Bnd := do
  let job := b.s.job j
  let q := b.s.jobReq j
  let t ← match b.s.readAt q job.table.toNat with
    | .ok t => .ok (some t, b)
    | .error (.fail st a) => .ok (none, b.failed st a)
    | .error .wait => .error .wait
  match t with
  | (none, b) => return b
  | (some t, b) =>
    let step := hStep t.h
    let (b, word) ← b.read q acceptRecord (hOvf t.h) 8
    let skipped := bit (leNat (word.getD [])) 0
    let ls' := lossStep skipped ((pow2Exp (hScale t.h)).getD 0) (hMin t.h) (hMax t.h) (hClean t.h) (hGrowth t.h)
    let (b, js) ← Bnd.judgeAll q skipped step t.es b
    let js := fallBack (bit (hPolicy t.h) 0) js
    let flagged := js.any (fun x => x.cause ≠ 0)
    let shown := (List.range js.length).map (fun i => supersede job.writes i (js.getD i { e := [] }))
    let hostHdr := job.writes.reverse.find? (fun w => w.1 == 0xFFFF)
    let (b, nextHdr) ← match job.bindNext with
      | some (a, ten) => if a = 0 then .ok (b, none)
                         else b.read { q with tenant := ten } .any a.toNat 64
      | none => .ok (b, none)
    let lsNow := leBytes 4 (f32Pow2 ls'.exp).toNat
    let ls := match hostHdr, nextHdr with
      | some w, _ => bytesAt w.2 16 4
      | none, some h => bytesAt h 16 4
      | none, none => lsNow
    let lsLost := (ls'.halved || ls'.doubled) && hostHdr.isSome
    let hold := ls'.floor || (flagged && bit (hPolicy t.h) 1) || b.fail.isSome
    let flags := b2n skipped + 2 * b2n ls'.halved + 4 * b2n ls'.doubled + 8 * b2n ls'.floor + 16 * b2n flagged +
      32 * b2n (shown.any (fun x => x.action = 1 || x.action = 2)) +
      64 * b2n (lsLost || shown.any (fun x => x.action = 3)) + 128 * b2n hold + 256 * b2n job.planRej
    let h := putAt (putAt (putAt t.h 8 (leBytes 8 (step + 1))) 16 lsNow) 20 (leBytes 4 ls'.clean)
    let image := h ++ (js.map (·.e)).flatten
    let b ← b.write q job.table.toNat image
    let b ← b.write q (hReport t.h + step % 2 * 0x20000) (reportBytes step flags ls j shown)
    let b := { b with s := (b.s.post 32 (eventWord 1 (j.toNat % 0x10000 * 2 ^ 32 + step % 2 ^ 32))).modJob j
                            (fun x => { x with planRej := false }) }
    let b ← ((t.es.map eSill).eraseDups).foldlM (fun b a => b.write q a (zeros 32)) b
    let b ← b.write q (hOvf t.h) (zeros 8)
    -- the status of a hold that no failed access names is a free value (assumption 39)
    let st : Half := b.fail.getD (b.s.freeVal.setWidth 16)
    return { s := (b.s.capture j image step).tick, fail := if hold || b.fail.isSome then some st else none }

/-! ## Host changes, deferred tests, release -/

/-- Pending bind, then pending recipe-writes on the table bound after it (R35, R184). -/
def Bnd.hostTable (b : Bnd) (j : Word) : Except Stop Bnd := do
  let job := b.s.job j
  let (a, ten) := job.future
  let q : Req := { tenant := ten, use := .other, range := stRange }
  let b := { b with s := b.s.modJob j (fun x => { x with table := a, tenant := ten, bindNext := none, writes := [] }) }
  if a = 0 || job.writes.isEmpty then return b
  else
    match (b.s.readAt q a.toNat).bind (b.s.applyWrites q a.toNat job.writes) with
    | .error .wait => .error .wait
    | .error (.fail st x) => return b.failed st x
    | .ok t => b.write q a.toNat t.image

/-- A cast entry takes its new content: its collective serial is 0 (R379). -/
def State.installCast (s : State) (i : Nat) (c : Cast) : State := s.modCast i (fun _ => { c with cser := 0 })

/-- CAST_WRITEs that waited for the job's boundary take effect, or wait on for their entry's collective to close (R379). -/
def State.boundaryCasts (s : State) (j : Word) : State :=
  let due := s.links.castNext.filter (fun e => e.2.2 == some j)
  let s := s.modLinks (fun l => { l with castNext := l.castNext.filter (fun e => e.2.2 != some j) })
  due.foldl (fun s e =>
    if s.links.open_.any (fun o => o.1 == e.1) then s.modLinks (fun l => { l with castNext := l.castNext ++ [(e.1, e.2.1, none)] })
    else s.installCast e.1 e.2.1) s

/-- Check-mode defaults written while EN = 1 (R273). -/
def State.boundaryChecks (s : State) (j : Word) : State :=
  (s.reels.map (·.1)).foldl (fun s n => s.modReel n (fun r =>
    if r.job = j then { r with check := r.checkNext.getD r.check, checkNext := none } else r)) s

/-- A plan bound for the job, or the clearing of a plan (R452); dynamic grants under a plan no longer count as an excursion
(Table 16-2); the draw holds at HOLD (R456). -/
def State.boundaryPlan (s : State) (j : Word) : State :=
  s.modPwr (fun p =>
    let plan := match p.planNext with
      | none => p.plan
      | some none => none
      | some (some x) => if x.job = j then some x else p.plan
    let left := match p.planNext with
      | some (some x) => if x.job = j then none else p.planNext
      | _ => none
    { p with plan := plan, planNext := left, excur := p.excur.filter (fun e => e.1 ≠ 1), hold := (plan.map (·.hold)).getD 0 })

/-- The end of a die's step: a lower FMAX (R345), cue mode (R414), the fence at the clock floor (Table 19-1). -/
def State.boundaryDie (s : State) (d : Nat) : State :=
  let v := s.die d
  let s := match v.fmaxNext with
    | some f => s.modDie d (fun v => { v with fmax := f, fmaxNext := none, clk := min v.clk f.toNat })
    | none => s
  let s := match v.cue.enNext with
    | some true => s.cueReserve d
    | some false => if v.cue.busy.isSome then s else s.cueReturn d
    | none => s
  if v.floorFence then
    ((dieKeys d).filter (fun k => (s.coreK k).role ≠ 4)).foldl (fun s k => s.fence k 4 0x0B 0 0xFFFF 0)
      (s.modDie d (fun v => { v with floorFence := false }))
  else s

/-- The evaluation snapshot (R206): one entry per entry of the table, a learned scale at the value held now. -/
def Bnd.snapshot (b : Bnd) (j : Word) : Except Stop Bnd := do
  let job := b.s.job j
  let b := { b with s := b.s.modJob j (fun x => { x with snapNext := false }) }
  if !job.snapNext || job.table = 0 then return b
  else
    let q := b.s.jobReq j
    let entry := fun (e : List Byte) => do
      let fb := eActive e
      let ms ← if eMsrc e = 1 then b.s.learned j e else .ok (eMscale e)
      return ({ tid := eTid e, tfd := BitVec.ofNat 16 (eTfd e fb), rot := BitVec.ofNat 2 (eRot e fb),
                group := BitVec.ofNat 12 (eGroup e), mscale := ms, bnAddr := BitVec.ofNat 40 (eBn e), bnCnt := eBnCnt e } : SnapEntry)
    match (b.s.readAt q job.table.toNat).bind (fun t => (t.es.mapM entry).map (fun es => (hSeed t.h, es))) with
    | .error .wait => .error .wait
    | .error (.fail st a) => return b.failed st a
    | .ok x => return { b with s := b.s.modJob j (fun v => { v with snap := some x }) }

/-- The reels whose step a boundary of the job ends (R273). -/
def State.jobReels (s : State) (j : Word) : List Nat :=
  (s.reels.map (·.1)).filter (fun n => let r := s.reel n; r.en && !r.eval && !r.admin && r.job == j)

/-- A tracked STEP_END for job J that its reel has reached. -/
def Tracked.isStepEnd (t : Tracked) (j : Word) : Bool :=
  t.shot.opcode == 0x300 && t.phase == .waiting && leAt t.shot.body 0 4 == j.toNat

/-- The step boundary of job J begins: every enabled reel of the job has reached its STEP_END and every shot before it has
completed (R273). -/
def State.boundaryDue (s : State) (j : Word) : Bool :=
  let rs := s.jobReels j
  s.ebtor && s.clocks && !rs.isEmpty && (s.job j).testing.isEmpty &&
  rs.all (fun n => match s.onReel n with | [t] => t.isStepEnd j | _ => false)

/-- The next step is released (R35, R273): each STEP_END completes, and the job's reels are held when the boundary asks it. -/
def State.releaseStep (s : State) (j : Word) : State :=
  let rs := s.jobReels j
  let s := { s with tracked := s.tracked.map (fun (t : Tracked) => if t.isStepEnd j then t.landOne stSuccess else t) }
  let s := rs.foldl (fun s n => s.modReel n (fun r => { r with stepSeq := r.nextSeq })) s
  let hold := (s.job j).holdWith
  let s := s.modJob j (fun x => { x with holdWith := none })
  match hold with
  | none => s
  | some st => rs.foldl (fun s n => s.holdHead n st) s

/-- The work of a step boundary in the order of R35. -/
def State.runBoundary (s : State) (j : Word) : Except Stop State := do
  let b : Bnd := { s := s }
  let b ← if (s.job j).table = 0 then pure b else b.actions j
  let b ← b.hostTable j
  let b := { b with s := ((b.s.boundaryCasts j).boundaryChecks j).boundaryPlan j }
  let b := { b with s := (List.range 16).foldl State.boundaryDie b.s }
  let b ← b.snapshot j
  let due := (b.s.cores.map (·.1)).filter (fun k => (b.s.coreK k).deferred && b.s.idle k)
  let u := due.foldl State.testCore b.s
  let u := u.modJob j (fun x => { x with holdWith := b.fail, testing := due })
  return if due.isEmpty then u.releaseStep j else u

/-- R34, R35, R200. -/
def stepBoundary (job : Word) (s : State) : State :=
  if s.boundaryDue job then
    match s.runBoundary job with
    | .ok u => u
    | .error _ => s
  else s
def execStepBoundary (job : Word) (s : State) : Out State := .next (stepBoundary job s)

end Sys2Proof.Machine
end

