-- ==== Sys2Proof/Machine/LinkOps.lean ====
section
/-!
DEFINITION. The packet layer under links and collectives: packet bytes (R364), flits (R353), routes (R367), peers over Ethernet
(R373), and sending a packet.
-/
namespace Sys2Proof.Machine

/-- The bytes of a packet: the header of Table 13-10, then the payload. -/
def packetBytes (p : Packet) : List Byte :=
  [p.ptype, p.pflags] ++ leBytes 2 p.dst.toNat ++ leBytes 2 p.src.toNat ++ leBytes 2 p.payload.length ++
  leBytes 4 p.groupid.toNat ++ leBytes 4 p.cser.toNat ++ leBytes 4 p.dhash.toNat ++ leBytes 2 p.chunk.toNat ++
  leBytes 2 p.blk.toNat ++ leBytes 8 p.arg.toNat ++ p.payload

/-- A packet from its bytes. -/
def packetOf (b : List Byte) : Packet :=
  { ptype := BitVec.ofNat 8 (leAt b 0 1), pflags := BitVec.ofNat 8 (leAt b 1 1), dst := BitVec.ofNat 16 (leAt b 2 2),
    src := BitVec.ofNat 16 (leAt b 4 2), groupid := BitVec.ofNat 32 (leAt b 8 4), cser := BitVec.ofNat 32 (leAt b 12 4),
    dhash := BitVec.ofNat 32 (leAt b 16 4), chunk := BitVec.ofNat 16 (leAt b 20 2), blk := BitVec.ofNat 16 (leAt b 22 2),
    arg := BitVec.ofNat 64 (leAt b 24 8), payload := bytesAt b 32 (leAt b 6 2) }

/-- The virtual channel of a packet type (Table 13-4). -/
def vcOf (ptype : Byte) : Nat :=
  match ptype.toNat with
  | 5 | 6 => 0
  | 9 | 10 | 11 => 2
  | 12 => 3
  | _ => 1

/-- A packet with a reserved PTYPE or a nonzero reserved bit is dropped (R365). -/
def packetBad (p : Packet) : Bool := p.ptype = 0 || decide (0x0C < p.ptype.toNat) || decide (16 ≤ p.pflags.toNat)

/-- A port that can carry packets: UP, or changing its width (R357, R358). -/
def State.portUp (s : State) (p : Nat) : Bool := decide (p < 20) && ((s.port p).state == 2 || (s.port p).state == 3)

/-- The device's own rack (R351). -/
def State.inRack (s : State) (dst : Half) : Bool := dst.toNat / 64 == s.glb.devId.toNat / 64

/-- The Burou port that a packet for `dst` leaves by now (R359, R367): primary or alternate, the other one when it is DOWN. -/
def State.burouPort (s : State) (dst : Half) : Option Nat :=
  let r := s.route (dst.toNat % 64)
  if !s.inRack dst || !r.valid then none
  else
    let a := r.alt.toNat
    let b := r.pri.toNat
    let (x, y) := if r.onAlt then (a, b) else (b, a)
    if s.portUp x then some x else if s.portUp y then some y else none

/-- A usable queue pair toward a peer (R373): a valid peer entry, a usable port that is up and secured, retries not exhausted. -/
def State.peerUsable (s : State) (dst : Half) : Bool :=
  let m := tget (fun _ => 0) s.links.peers dst.toNat
  s.links.edgBase ≠ 0 && !s.links.qpDead.contains dst.toNat &&
  (List.range 4).any (fun e => m.testBit e && (s.eth e).up && (s.eth e).secured)

/-- R392: a destination is reachable over Burou or through a usable queue pair. -/
def State.reachable (s : State) (dst : Half) : Bool := (s.burouPort dst).isSome || s.peerUsable dst

/-! ## Flits -/

/-- Flits of a packet on a port, not yet numbered: (first, end, payload). -/
def flitParts (bs : List Byte) : List (Bool × Bool × List Byte) :=
  let n := ceilDiv bs.length 192
  (List.range n).map (fun i => (i = 0, i + 1 = n, bytesAt bs (192 * i) 192))

/-- FHDR of a packet flit (Table 13-2). -/
def fhdr (fk end_ vc ack fseq : Nat) : Nat := fk * 2 ^ 30 + end_ * 2 ^ 29 + vc * 2 ^ 27 + ack * 2 ^ 16 + fseq * 2 ^ 5

/-- The 200 bytes of a flit. -/
def flitBytes (hdr : Nat) (payload : List Byte) : List Byte :=
  let b := leBytes 4 hdr ++ bytesAt payload 0 192
  b ++ leBytes 4 (crc32c b).toNat

/-- FSEQ of the last flit received in order (ACKSEQ). -/
def Port.ack (p : Port) : Nat := (p.rxSeq - 1).toNat

/-- Send a CTRL flit: credit returns, CTYPE, then its content from byte 16 on (Table 13-3). -/
def State.sendCtrl (s : State) (n : Nat) (ctype : Byte) (content : List Byte) : State :=
  let cred := ((s.port n).returns.map (leBytes 2)).flatten
  (s.modPort n (fun p => { p with returns := [0, 0, 0, 0], sinceCtrl := 0 })).emit
    (.ctrl (Fin.ofNat 20 n) ctype (bytesAt (cred ++ [ctype] ++ zeros 3 ++ content) 0 192))

/-- Send the flits that hold a credit, in order within their channel (R355, R356); a CTRL flit is at least one in every 64 (R354). -/
def State.drainPort : Nat → Nat → State → State
  | 0, _, s => s
  | fuel + 1, n, s =>
    let p := s.port n
    if p.state ≠ 2 then s
    else match p.txQueue.find? (fun f => decide (0 < p.credits.getD f.vc 0)) with
      | none => s
      | some f =>
        let s := if 63 ≤ p.sinceCtrl then s.sendCtrl n 0 [] else s
        let rest := p.txQueue.erase f
        let hdr := (leNat (f.bytes.take 4)) + p.ack * 2 ^ 16 + p.txSeq.toNat * 2 ^ 5
        let g : TxFlit := { fseq := p.txSeq.toNat, vc := f.vc, bytes := flitBytes hdr (f.bytes.drop 4) }
        let s := s.modPort n (fun p =>
          { p with txQueue := rest, txSeq := p.txSeq + 1, credits := p.credits.set f.vc (p.credits.getD f.vc 0 - 1),
                   retry := (p.retry ++ [g]).drop (p.retry.length + 1 - 1024), flitsTx := satInc p.flitsTx,
                   sinceCtrl := p.sinceCtrl + 1 })
        State.drainPort fuel n (s.emit (.flits (Fin.ofNat 20 n) [g.fseq]))

/-- Queue a packet's flits on a port and send what can go. -/
def State.queueOn (s : State) (n : Nat) (p : Packet) : State :=
  let vc := vcOf p.ptype
  let fs := (flitParts (packetBytes p)).map (fun f =>
    ({ fseq := 0, vc := vc, bytes := leBytes 4 (fhdr (if f.1 then 1 else 2) (b2n f.2.1) vc 0 0) ++ f.2.2 } : TxFlit))
  let s := s.modPort n (fun p => { p with txQueue := p.txQueue ++ fs })
  (s.emit (.packet p)).drainPort (s.port n).txQueue.length n

/-- The priority that priority flow control covers on an Ethernet port is paused (R371, Table 13-15). -/
def EthPort.isPaused (e : EthPort) : Bool :=
  let c := leAt e.config 27 1
  bit c 4 && e.paused.getLsbD (c % 16)

/-- Every usable Ethernet port toward a peer is paused. -/
def State.peerPaused (s : State) (dst : Half) : Bool :=
  let m := tget (fun _ => 0) s.links.peers dst.toNat
  (List.range 4).all (fun e => !(m.testBit e && (s.eth e).up && (s.eth e).secured) || (s.eth e).isPaused)

/-- Send a packet (R351, R367, R373): over Burou, or over Ethernet, where it waits while its priority is paused; an unreachable
destination gets nothing. -/
def State.send (s : State) (p : Packet) : State :=
  match s.burouPort p.dst with
  | some n => s.queueOn n p
  | none =>
    if !s.peerUsable p.dst then s
    else if s.peerPaused p.dst then s.modLinks (fun l => { l with ethWait := l.ethWait ++ [p] })
    else (s.modLinks (fun l =>
      { l with psn := tset l.psn p.dst.toNat ((tget (fun _ => 0) l.psn p.dst.toNat + 1) % 2 ^ 24) })).emit (.packet p)

end Sys2Proof.Machine
end

