-- ==== Sys2Proof/Machine/CollOps.lean ====
section
/-!
DEFINITION. Collectives at one member (R380 to R393): what its shot's body says, the passes of Table 13-18, credits, the commit
of chunks, aborts, feeds.
-/
namespace Sys2Proof.Machine

def stMismatch : Half := 0x0401
def stUnreachable : Half := 0x0402
def stCastInvalid : Half := 0x0403
def stCastBroken : Half := 0x0404
def stCollTimeout : Half := 0x0405
def stSliceLength : Half := 0x0406
def stFeedRefused : Half := 0x0407
def stChunkInvalid : Half := 0x0408
def stTransport : Half := 0x030A

/-! ## The body (Table 13-17) -/

def Coll.csz (k : Coll) : Nat := fld (leAt k.body 2 1) 4 4
def Coll.mode1 (k : Coll) : Bool := bit (leAt k.body 2 1) 0
def Coll.infl (k : Coll) : Nat := leAt k.body 3 1
def Coll.root (k : Coll) : Nat := leAt k.body 8 2
def Coll.count (k : Coll) : Nat := leAt k.body 16 8
def Coll.src (k : Coll) : Nat := leAt k.body 24 5
def Coll.dst (k : Coll) : Nat := leAt k.body 32 5
def Coll.dtfd (k : Coll) : Nat := leAt k.body 40 2
def Coll.stfd (k : Coll) : Nat := leAt k.body 42 2
def Coll.lentab (k : Coll) : Nat := leAt k.body 56 5
def Coll.isReduce (k : Coll) : Bool := k.opcode = 0x201 || k.opcode = 0x202
def Coll.isToken (k : Coll) : Bool := k.opcode = 0x203
def Coll.req (k : Coll) : Req := { tenant := k.tenant, use := .other, range := stRange }

/-- Transport blocks of the collective, of one slice in a token exchange (R386). -/
def Coll.total (k : Coll) : Nat :=
  if k.opcode = 0x204 then 0 else if k.isReduce then ceilDiv (k.count / 32) 10 else ceilDiv k.count 4096

/-- Chunks, and the transport blocks of chunk c (R386). -/
def Coll.chunks (k : Coll) : Nat := ceilDiv k.total (2 ^ k.csz)
def Coll.chunkOf (k : Coll) (b : Nat) : Nat := b / 2 ^ k.csz
def Coll.chunkBlocks (k : Coll) (c : Nat) : List Nat :=
  (List.range (2 ^ k.csz)).map (c * 2 ^ k.csz + ·) |>.filter (fun b => decide (b < k.total))

/-- DHASH (R381). -/
def collHash (op : Nat) (b : List Byte) : Word :=
  crc32c (leBytes 2 op ++ bytesAt b 42 2 ++ bytesAt b 16 8 ++ bytesAt b 8 2 ++ leBytes 1 (fld (leAt b 2 1) 4 4) ++
    leBytes 1 (fld (leAt b 2 1) 1 1))

/-! ## Members -/

/-- The device ID of a rank (R377). -/
def Cast.dev (c : Cast) (rank : Nat) : Half := BitVec.ofNat 16 ((c.members.getD rank 0).toNat / 2 ^ 40)
def Cast.landing (c : Cast) (rank : Nat) : Nat := (c.members.getD rank 0).toNat % 2 ^ 40
def Cast.rankOf (c : Cast) (dev : Half) : Option Nat := (List.range c.members.length).find? (fun r => c.dev r == dev)

/-- Chain position of a rank and back (R383). -/
def Coll.posOf (k : Coll) (rank : Nat) : Nat := (rank + k.g - k.root % max 1 k.g) % max 1 k.g
def Coll.rankAt (k : Coll) (pos : Nat) : Nat := (pos + k.root) % max 1 k.g

/-- Positions of the other members that this one talks to (R384, R391). -/
def Coll.peers (k : Coll) : List Nat :=
  if k.isToken || k.feed then (List.range k.g).filter (· ≠ k.pos)
  else (if 0 < k.pos then [k.pos - 1] else []) ++ (if k.pos + 1 < k.g then [k.pos + 1] else [])

/-- A member this one has to do with in the collective is unreachable (R392). -/
def State.peerLost (s : State) (i : Nat) (k : Coll) : Bool := k.peers.any (fun p => !s.reachable ((s.cast i).dev (k.rankAt p)))

/-- A packet of the collective to a position. -/
def State.collPacket (s : State) (i : Nat) (k : Coll) (ty flags : Nat) (to_ chunk blk arg : Nat) (payload : List Byte) : Packet :=
  { ptype := BitVec.ofNat 8 ty, pflags := BitVec.ofNat 8 flags, dst := (s.cast i).dev (k.rankAt to_), src := s.glb.devId,
    groupid := (s.cast i).groupid, cser := k.cser, dhash := k.dhash, chunk := BitVec.ofNat 16 chunk, blk := BitVec.ofNat 16 blk,
    arg := BitVec.ofNat 64 arg, payload := payload }

/-- PFLAGS of a packet (Table 13-10). -/
def pflagsOf (wloss sat conf : Bool) : Nat := 2 * b2n wloss + 4 * b2n sat + 8 * b2n conf

/-- A machine with the collective in hand. -/
abbrev CRes := Except Stop (State × Coll)

/-- Send a control packet; an unreachable member aborts the collective (R392). -/
def State.collSend (s : State) (i : Nat) (k : Coll) (ty flags to_ chunk blk arg : Nat) (payload : List Byte) : CRes :=
  let p := s.collPacket i k ty flags to_ chunk blk arg payload
  if s.reachable p.dst then .ok (s.send p, k) else .error (.fail stUnreachable 0)

/-! ## Own data -/

/-- A value as a ledger that holds it exactly (R380). -/
def ledgerOfNum (x : Num) : Ledger :=
  match x.contrib with
  | .fin n e => (Ledger.cleared false e).add (.fin n e)
  | c => (Ledger.cleared false 0).add c

/-- LEDGER96 blocks of transport block b. -/
def Coll.subBlocks (k : Coll) (b : Nat) : Nat := min 10 (k.count / 32 - 10 * b)

/-- The member's own elements of transport block b, 32 ledgers to a LEDGER96 block (R380, R92, R96). -/
def State.ownLedgers (s : State) (k : Coll) (b : Nat) : Except Stop (List (List Ledger)) := do
  let n := k.subBlocks b
  if k.stfd % 16 = 0xA then
    let bs ← s.read k.req acceptSums (k.src + 4096 * b) 4096
    (List.range n).mapM (fun i =>
      match L96Block.decode (bytesAt bs (400 * i) 400) with
      | none => .error (.fail stTransport (k.src + 4096 * b))
      | some x => .ok (x.elems.map (fun e => (Ledger.cleared false x.bexp).addL96 e x.bexp x.wloss)))
  else
    let bs ← s.read k.req (acceptElem 7) (k.src + 1280 * b) (128 * n)
    return (List.range n).map (fun i => (List.range 32).map (fun j =>
      ledgerOfNum (f32Num (BitVec.ofNat 32 (leAt bs (128 * i + 4 * j) 4)))))

/-- P of each LEDGER96 block of chunk c (R95). -/
def State.ownExps (s : State) (k : Coll) (c : Nat) : Except Stop (List (Option Int)) := do
  let ls ← (k.chunkBlocks c).mapM (s.ownLedgers k)
  return ls.flatten.map (fun row => row.foldl (fun m g => maxP m g.p) none)

/-- Ledgers as a LEDGER96 block at an agreed BEXP (R93). -/
def toBlock (bexp : Int) (row : List Ledger) : L96Block :=
  let xs := row.map (fun g => g.toL96 bexp)
  { bexp := bexp, wloss := xs.any (·.2), elems := xs.map (·.1) }

/-- Ten LEDGER96 blocks to 4 KiB (R91). -/
def pageOf (bs : List L96Block) : List Byte := bytesAt (bs.flatMap L96Block.bytes) 0 4096

/-- A transport block: data with a slate (R366). Its GEN is a free value (assumption 41). -/
def State.transport (s : State) (kind fmt : BitVec 4) (tid : Word) (data : List Byte) : List Byte :=
  let d := bytesAt data 0 4096
  d ++ slateBytes (sealSlate { kind := kind, fmt := fmt, tidf := tid, gen := s.freeVal.setWidth 16 } d)

/-- The slate check of an arriving block (R316, R385). -/
def checkTransport (payload : List Byte) (acc : Accept) : Option Half :=
  let d := bytesAt payload 0 4096
  let sl := slateOf (bytesAt payload 4096 16)
  slateStatus sl (slateCrc d sl == sl.crc) acc

/-- Decode the LEDGER96 blocks of an arriving transport block (R92). -/
def Coll.decodePage (k : Coll) (b : Nat) (d : List Byte) : Option (List L96Block) :=
  (List.range (k.subBlocks b)).mapM (fun i => L96Block.decode (bytesAt d (400 * i) 400))

/-! ## Passes -/

/-- Queue a block to a position (R384). -/
def State.queueBlock (s : State) (i : Nat) (k : Coll) (ty flags to_ b arg : Nat) (payload : List Byte) : Coll :=
  { k with outq := k.outq ++ [{
      dst := to_, blk := b,
      pkt := s.collPacket i k ty flags to_ (k.chunkOf b) (b % 2 ^ k.csz) arg payload }] }

/-- A result block stands at this member; under ALLREDUCE the root's goes out as DATA (R385). -/
def State.keepBlock (s : State) (i : Nat) (k : Coll) (b : Nat) (bytes : List Byte) (w x : Bool) : Coll :=
  let k := { k with staged := k.staged ++ [(k.pos, b, bytes, w, x)], wloss := k.wloss || w, sat := k.sat || x,
                    sumsDone := k.sumsDone ++ [b] }
  if k.opcode = 0x202 && 1 < k.g then s.queueBlock i k 6 (pflagsOf w x k.confirmed) 1 b 0 bytes else k

/-- A summed block goes on to the position before, or stays at the root (R385). -/
def State.passSum (s : State) (i : Nat) (k : Coll) (b : Nat) (blocks : List L96Block) (w x : Bool) : State × Coll :=
  let bytes := s.transport kLedger 0xA 0 (pageOf blocks)
  let s := s.tick
  if k.pos = 0 then (s, s.keepBlock i k b bytes w x)
  else (s, { (s.queueBlock i k 5 (pflagsOf w x true) (k.pos - 1) b 0 bytes) with
              sumsDone := k.sumsDone ++ [b], wloss := k.wloss || w, sat := k.sat || x })

/-- The member at the end of the exponent pass starts the sum (R95). -/
def State.startSum (i : Nat) (exps : List (Option Int)) (c : Nat) (sk : State × Coll) (b : Nat) : Except Stop (State × Coll) := do
  let (s, k) := sk
  let rows ← s.ownLedgers k b
  let off := 10 * (b - c * 2 ^ k.csz)
  let bs := (List.range rows.length).map (fun j => toBlock (bexpOf (exps.getD (off + j) none) k.g) (rows.getD j []))
  return s.passSum i k b bs (bs.any (·.wloss)) (rows.any (fun r => r.any (·.sat)))

/-- An EXP value on the wire (Table 13-11). -/
def expBytes (xs : List (Option Int)) : List Byte :=
  xs.flatMap (fun x => leBytes 2 (match x with | none => 0x8000 | some v => ofSigned 16 v))
def expOf (bs : List Byte) : List (Option Int) :=
  (List.range (bs.length / 2)).map (fun i => let v := leAt bs (2 * i) 2; if v = 0x8000 then none else some (toSigned 16 v))

/-- The exponent pass of chunk c at this member, once its predecessor's has arrived (R95). -/
def State.tryExp (s : State) (i : Nat) (k : Coll) (c : Nat) : CRes :=
  match (if k.pos = 0 then some [] else (k.expIn.find? (fun e => e.1 == c)).map (·.2)) with
  | none => .ok (s, k)
  | some arrived =>
    if k.expOut.contains c then .ok (s, k)
    else do
      let own ← s.ownExps k c
      let all := (List.range own.length).map (fun j => maxP (own.getD j none) (arrived.getD j none))
      let k := { k with expOut := k.expOut ++ [c] }
      if k.pos + 1 < k.g then s.collSend i k 4 0 (k.pos + 1) c 0 0 (expBytes all)
      else (k.chunkBlocks c).foldlM (State.startSum i all c) (s, { k with confirmed := true })

/-- An arriving SUM block is combined with the member's own and passed on (R94, R385). -/
def State.trySum (i : Nat) (sk : State × Coll) (x : Nat × List Byte × Bool × Bool) : Except Stop (State × Coll) := do
  let (s, k) := sk
  if !k.run.contains (k.chunkOf x.1) then return (s, { k with sums := k.sums ++ [x] })
  else
    match k.decodePage x.1 x.2.1 with
    | none => .error (.fail stTransport 0)
    | some arr =>
      let rows ← s.ownLedgers k x.1
      let bs := (List.range arr.length).map (fun j =>
        let a := arr.getD j ⟨0, false, []⟩
        a.combine (toBlock a.bexp (rows.getD j [])))
      return s.passSum i k x.1 bs (x.2.2.1 || bs.any (·.wloss)) (x.2.2.2 || rows.any (fun r => r.any (·.sat)))

/-- Source bytes of a data block of `n` bytes as a transport block (R385). A whole block of memory travels with its own slate (R316);
a host window is no source (R294). -/
def State.dataBlock (s : State) (k : Coll) (a n : Nat) : Except Stop (List Byte) := do
  let b ← s.read k.req .any a n
  if a % 4096 = 0 ∧ n = 4096 then
    let sl := s.slate (a / 4096)
    return b ++ slateBytes (if b = s.block (a / 4096) then sl else sealSlate sl b)
  else return s.transport kRaw 0 0 b

/-- DATA of the root of a broadcast or of a feed: to the successor, or to each member of a feed (R384, R390). -/
def State.startData (i : Nat) (sk : State × Coll) (b : Nat) : Except Stop (State × Coll) := do
  let (s, k) := sk
  let bytes ← s.dataBlock k (k.src + 4096 * b) (min 4096 (k.count - 4096 * b))
  let s := s.tick
  if k.feed then return (s, k.peers.foldl (fun k p => s.queueBlock i k 6 0 p b 0 bytes) k)
  else
    let k := { k with staged := k.staged ++ [(0, b, bytes, false, false)] }
    return (s, if 1 < k.g then s.queueBlock i k 6 (pflagsOf false false k.confirmed) 1 b 0 bytes else k)

/-- Blocks of chunk c that a slice of `len` bytes has. -/
def Coll.sliceBlocks (k : Coll) (c len : Nat) : List Nat := (k.chunkBlocks c).filter (fun b => decide (4096 * b < len))

/-- Slice j of a token exchange, chunk c (R384, R388). A slice of length 0 is announced by an empty DATA packet. -/
def State.startSlice (i c : Nat) (sk : State × Coll) (j : Nat) : Except Stop (State × Coll) := do
  let (s, k) := sk
  let len := k.sendLen.getD j 0
  let sk ← (k.sliceBlocks c len).foldlM (fun (sk : State × Coll) b => do
    let (s, k) := sk
    let bytes ← s.dataBlock k (k.src + j * k.count + 4096 * b) (min 4096 (len - 4096 * b))
    let s := s.tick
    if j = k.pos then return (s, { k with staged := k.staged ++ [(k.pos, b, bytes, false, false)] })
    else return (s, s.queueBlock i k 6 0 j b len bytes)) (s, k)
  if c = 0 && j ≠ k.pos && len = 0 then sk.1.collSend i sk.2 6 0 j 0 0 0 [] else return sk

/-- Chunk c runs at this member (R386, R389): under MODE 0 as the collective opens, under MODE 1 by CCHK. -/
def State.startChunk (i : Nat) (sk : State × Coll) (c : Nat) : Except Stop (State × Coll) := do
  let (s, k) := sk
  let k := { k with run := k.run ++ [c] }
  if k.isReduce then
    let (s, k) ← s.tryExp i k c
    let mine := k.sums.filter (fun x => k.chunkOf x.1 == c)
    let k := { k with sums := k.sums.filter (fun x => k.chunkOf x.1 != c) }
    -- result blocks that arrived before the chunk ran go on to the successor
    let k := if k.pos + 1 < k.g then
        (k.staged.filter (fun x => k.chunkOf x.2.1 == c && 0 < k.pos)).foldl
          (fun k x => s.queueBlock i k 6 (pflagsOf x.2.2.2.1 x.2.2.2.2 true) (k.pos + 1) x.2.1 0 x.2.2.1) k
      else k
    mine.foldlM (State.trySum i) (s, k)
  else if k.isToken then (List.range k.g).foldlM (State.startSlice i c) (s, k)
  else if k.pos = 0 then (k.chunkBlocks c).foldlM (State.startData i) (s, k)
  else if k.pos + 1 < k.g then
    return (s, (k.staged.filter (fun x => k.chunkOf x.2.1 == c)).foldl
      (fun k x => s.queueBlock i k 6 (pflagsOf x.2.2.2.1 x.2.2.2.2 k.confirmed) (k.pos + 1) x.2.1 0 x.2.2.1) k)
  else return (s, k)

/-- A block may go to a position: its chunk is charged, or a credit is left (R384, R386). Feeds need none. -/
def Coll.mayGo (k : Coll) (o : OutBlock) : Bool :=
  k.feed || k.charged.contains (o.dst, k.chunkOf o.blk) || k.credits.any (fun c => c.1 == o.dst && decide (0 < c.2))

/-- Send every block that may go; an unreachable member aborts the collective (R392). -/
def State.sendBlocks : List OutBlock → State → Coll → CRes
  | [], s, k => .ok (s, k)
  | o :: os, s, k =>
    if !k.mayGo o then (State.sendBlocks os s k).map (fun r => (r.1, { r.2 with outq := o :: r.2.outq }))
    else if !s.reachable o.pkt.dst then .error (.fail stUnreachable 0)
    else
      let fresh := !k.feed && !k.charged.contains (o.dst, k.chunkOf o.blk)
      let k := { k with
        unacked := k.unacked ++ [(o.dst, o.blk)],
        charged := if fresh then k.charged ++ [(o.dst, k.chunkOf o.blk)] else k.charged,
        credits := if fresh then k.credits.map (fun c => if c.1 = o.dst then (c.1, c.2 - 1) else c) else k.credits }
      State.sendBlocks os (s.send o.pkt) k

/-- Send what the credits allow. -/
def State.sendOut (s : State) (k : Coll) : CRes := State.sendBlocks k.outq s { k with outq := [] }

/-! ## Open pass, confirm -/

/-- The whole chain has been entered as seen from the last position, or every OPEN has come in a token exchange (R384). -/
def Coll.lastEntered (k : Coll) : Bool :=
  if k.isToken then (List.range k.g).all (fun p => p == k.pos || k.opened.contains p)
  else k.pos + 1 = k.g && (k.pos = 0 || k.opened.contains (k.pos - 1)) && (!k.isReduce || k.total = 0)

/-- OPEN to the successor or to every member, with the credits of a sum pass (R384). -/
def State.sendOpens (s : State) (i : Nat) (k : Coll) : CRes :=
  let to_ := if k.isToken then k.peers else if k.pos + 1 < k.g then [k.pos + 1] else []
  to_.foldlM (fun sk p => do
    let sk ← sk.1.collSend i sk.2 1 0 p 0 0 k.pos []
    if k.isReduce then sk.1.collSend i sk.2 2 0 p 0 0 k.infl [] else return sk) (s, { k with openSent := true })

/-- What an OPEN that has arrived, or this member's own entry, sets going. -/
def State.openStep (s : State) (i : Nat) (k : Coll) : CRes := do
  let go := !k.openSent && (k.isToken || k.pos = 0 || k.opened.contains (k.pos - 1))
  let (s, k) ← if go then s.sendOpens i k else .ok (s, k)
  if !k.confirmed && k.lastEntered then
    let k := { k with confirmed := true }
    if !k.isToken && 0 < k.pos then s.collSend i k 3 8 (k.pos - 1) 0 0 0 [] else return (s, k)
  else return (s, k)

/-! ## End -/

/-- The entry's collective closes; CAST_WRITEs that waited for it take effect (R379). -/
def State.closeEntry (s : State) (i : Nat) : State :=
  let due := s.links.castNext.filter (fun e => e.1 == i && e.2.2 == none)
  let s := s.modLinks (fun l => { l with open_ := l.open_.filter (fun o => o.1 != i),
                                         castNext := l.castNext.filter (fun e => !(e.1 == i && e.2.2 == none)) })
  due.foldl (fun s e => s.installCast e.1 e.2.1) s

def State.putColl (s : State) (i : Nat) (k : Coll) : State :=
  s.modLinks (fun l => { l with open_ := l.open_.map (fun o => if o.1 = i then (i, k) else o) })

/-- R391: the collective ends with a cause: ABORT to the neighbours, committed blocks STALE, shot landed and its reel held,
waiting programs ended (R174), and the entry BROKEN when a member was unreachable (R392). -/
def State.abortColl (s : State) (i : Nat) (k : Coll) (cause : Half) (addr : Nat) : State :=
  let s := k.peers.foldl (fun s p => s.send (s.collPacket i k 8 0 p 0 0 cause.toNat [])) s
  let s := (rangeBlocks k.wrote).foldl State.markStale s
  let s := s.slateFault cause addr k.ref.reel.val k.ref.seq
  let s := s.modTracked k.ref (fun t => { t.landOne cause with holdFor := some cause, wloss := k.wloss, sat := k.sat })
  let s := if cause = stUnreachable then s.modCast i (fun c => { c with broken := true }) else s
  let s := s.closeEntry i
  (k.cchk.filter (fun x => !k.done.contains x.1)).foldl (fun s x =>
    s.endHolder x.2.1 cause) s

/-- The shot of a collective completes (R388). -/
def State.endColl (s : State) (i : Nat) (k : Coll) (st : Half) : State :=
  (s.modTracked k.ref (fun t => { t.landOne st with wloss := k.wloss, sat := k.sat })).closeEntry i

/-- Every chunk this member owes has committed, or been sent on and acknowledged (R388). -/
def Coll.finished (k : Coll) : Bool :=
  k.outq.isEmpty && k.unacked.isEmpty && k.confirmed &&
  (if k.total = 0 then k.openSent else if k.opcode = 0x201 && 0 < k.pos then k.sumsDone.length = k.total else k.done.length = k.chunks)

/-- A feed whose blocks are all acknowledged rings each member's doorbell (R390). -/
def State.endFeed (s : State) (i : Nat) (k : Coll) : State :=
  (k.peers.foldl (fun s p => s.send { (s.collPacket i k 0x0A 0 p 0 0 (k.stfd % 1024) (bytesAt k.body 32 8)) with
    groupid := 0, cser := 0, dhash := 0 }) s).endColl i k 0

/-- Put the outcome of a pass back: send what may go, and end a collective that is finished or that fails. A pass that waits on
memory changes nothing. -/
def State.settle (s0 : State) (i : Nat) (k0 : Coll) (x : CRes) : State :=
  match x.bind (fun sk => sk.1.sendOut sk.2) with
  | .error .wait => s0
  | .error (.fail st a) => s0.abortColl i k0 st a
  | .ok (s, k) =>
    let s := s.putColl i k
    if k.feed then (if k.outq.isEmpty && k.unacked.isEmpty then s.endFeed i k else s)
    else if k.finished then s.endColl i k 0 else s

/-! ## Commit (R387) -/

/-- Every block of chunk c that this member commits is staged. -/
def Coll.chunkReady (k : Coll) (c : Nat) : Bool :=
  let has := fun (p b : Nat) => k.staged.any (fun x => x.1 == p && x.2.1 == b)
  if k.isToken then
    (List.range k.g).all (fun p =>
      let len := if p = k.pos then some (k.sendLen.getD p 0) else (k.recvLen.find? (fun x => x.1 == p)).map (·.2)
      match len with
      | none => false
      | some n => (k.sliceBlocks c n).all (has p))
  else (k.chunkBlocks c).all (fun b => k.staged.any (fun x => x.2.1 == b))

/-- The destination format of a reduction that converts (R380): an evaluation shot is quiet (R205). -/
def Coll.fmt (k : Coll) : Option DstFmt :=
  (Tfd.parseDst k.dtfd).map (fun t =>
    let d : DstFmt := { f := t.f, lay := .plain, ocp := false, rnd := t.rnd, sill := t.sill, s := BitVec.ofNat 32 (leAt k.body 44 4),
                        seed := Config.castSeed, stream := Config.castStrm }
    if k.eval then d.quiet else d)

/-- One reduced transport block converted: its bytes and its counts (R84, R387). -/
def Coll.convertBlock (k : Coll) (d : DstFmt) (b : Nat) (bytes : List Byte) (sat : Bool) : List Byte × Sill :=
  let bs := (k.decodePage b bytes).getD []
  let xs := bs.flatMap (fun x => x.elems.map (fun e => ({ v := e.num x.bexp, wloss := x.wloss, sat := sat } : Src)))
  let c := d.convPlain ((List.range xs.length).map (fun j => (xs.getD j { v := .nan }, Keep.conv, 320 * b + j)))
  (d.f.pack c.codes, c.sill)

/-- Write the result blocks of a reduction's chunk (R387): LEDGER96 kept, or converted once with its record merged (R72). -/
def State.commitSums (s : State) (k : Coll) (mine : List (Nat × Nat × List Byte × Bool × Bool)) :
    Except Stop (State × List (Nat × Nat)) := do
  match k.fmt with
  | none =>
    let runs := mine.map (fun x => (k.dst + 4096 * x.2.1, bytesAt x.2.2.1 0 4096))
    let s ← s.writeRuns k.req [] kLedger 0xA 0 runs
    return (s, runs.map (fun r => (r.1, r.2.length)))
  | some d =>
    let cs := mine.map (fun x => (k.dst + 320 * x.2.1 * d.f.bits / 8, k.convertBlock d x.2.1 x.2.2.1 x.2.2.2.2))
    let runs := cs.map (fun c => (c.1, c.2.1))
    let s ← s.writeRuns k.req [] kElem (BitVec.ofNat 4 d.f.code) 0 runs
    let g := cs.foldl (fun g c => g.plus c.2.2) ({} : Sill)
    let s ← if d.sill then s.rmw k.req (leAt k.body 48 5) 32 (mergeSillage (g.record false)) else .ok s
    return (s, runs.map (fun r => (r.1, r.2.length)))

/-- Write the data blocks of a broadcast's or exchange's chunk, each with the slate it came with (R316, R387). -/
def State.commitData (s : State) (k : Coll) (mine : List (Nat × Nat × List Byte × Bool × Bool)) :
    Except Stop (State × List (Nat × Nat)) :=
  mine.foldlM (fun (acc : State × List (Nat × Nat)) x => do
    let sl := slateOf (bytesAt x.2.2.1 4096 16)
    let len := if k.isToken then
        (if x.1 = k.pos then k.sendLen.getD x.1 0 else ((k.recvLen.find? (fun y => y.1 == x.1)).map (·.2)).getD 0) else k.count
    let a := (if k.isToken then k.dst + x.1 * k.count else k.dst) + 4096 * x.2.1
    let n := min 4096 (len - 4096 * x.2.1)
    let s ← acc.1.write k.req sl.kind sl.fmt sl.tidf a (bytesAt x.2.2.1 0 n)
    return (s, acc.2 ++ [(a, n)])) (s, [])

/-- Lengths received in a token exchange, written behind the send lengths (R388). -/
def Coll.recvTable (k : Coll) : List Byte :=
  (List.range k.g).flatMap (fun p => leBytes 4
    (if p = k.pos then k.sendLen.getD p 0 else ((k.recvLen.find? (fun x => x.1 == p)).map (·.2)).getD 0))

/-- The senders whose chunk credit the commit of a chunk gives back (R386). -/
def Coll.creditTo (k : Coll) : List Nat :=
  if k.isToken then k.peers
  else if k.isReduce && k.pos = 0 then (if 1 < k.g then [1] else [])
  else if 0 < k.pos then [k.pos - 1] else []

/-- Under MODE 1 a committed chunk is delivered: its data stays staged in the core that ran it, and its token is posted (R389,
R248, R174). -/
def State.deliverChunk (s : State) (k : Coll) (c : Nat) (mine : List (Nat × Nat × List Byte × Bool × Bool)) : State :=
  match k.cchk.find? (fun x => x.1 == c) with
  | none => s
  | some (_, core, q) =>
    s.modCoreK core (fun v => { v with
      dq := tset v.dq q ((tget (fun _ => ([] : List Nat)) v.dq q ++ [c % 256]).take 64),
      arrived := v.arrived ++ [(q, c * 4096 * 2 ^ k.csz, mine.flatMap (fun x => bytesAt x.2.2.1 0 4096))] })

/-- R387: chunk c commits at this member. -/
def State.commitChunk (s : State) (i : Nat) (k : Coll) (c : Nat) : CRes := do
  let mine := k.staged.filter (fun x => k.chunkOf x.2.1 == c)
  let keep := k.opcode = 0x200 && k.pos = 0 && k.src = k.dst
  let (s, wrote) ←
    if k.mode1 then
      -- arriving blocks wait for a program whose context has been saved (R255)
      (if k.cchk.any (fun x => x.1 == c && decide (contextKey 0 ≤ x.2.1)) then .error .wait else .ok (s.deliverChunk k c mine, []))
    else if keep then .ok (s, [])
    else if k.isReduce then s.commitSums k mine else s.commitData k mine
  let k := { k with done := k.done ++ [c], wrote := k.wrote ++ wrote, staged := k.staged.filter (fun x => k.chunkOf x.2.1 != c) }
  let s ← if k.isToken && k.done.length = k.chunks then s.write k.req kRaw 0 0 (k.lentab + 4 * k.g) k.recvTable else .ok s
  k.creditTo.foldlM (fun sk p => sk.1.collSend i sk.2 2 0 p 0 0 1 []) (s, k)

/-! ## Packets at an open collective -/

/-- A packet of an open collective, from chain position q (R384 to R391). -/
def State.onPacket (s : State) (i : Nat) (k : Coll) (q : Nat) (p : Packet) : CRes := do
  let b := p.chunk.toNat * 2 ^ k.csz + p.blk.toNat
  let w := bit p.pflags.toNat 1
  let x := bit p.pflags.toNat 2
  let conf := bit p.pflags.toNat 3
  match p.ptype.toNat with
  | 1 =>
    let k := { k with opened := k.opened ++ [q] }
    let (s, k) ← s.collSend i k 2 0 q 0 0 k.infl []
    s.openStep i k
  | 2 =>
    let n := p.arg.toNat % 256
    return (s, { k with credits := if k.credits.any (fun c => c.1 == q) then
                   k.credits.map (fun c => if c.1 = q then (q, c.2 + n) else c) else k.credits ++ [(q, n)] })
  | 3 =>
    let k := { k with confirmed := true }
    if 0 < k.pos && !k.isToken then s.collSend i k 3 8 (k.pos - 1) 0 0 0 [] else return (s, k)
  | 4 =>
    let k := { k with expIn := k.expIn ++ [(p.chunk.toNat, expOf p.payload)] }
    if k.run.contains p.chunk.toNat then s.tryExp i k p.chunk.toNat else return (s, k)
  | 5 =>
    match checkTransport p.payload acceptSums with
    | some st => .error (.fail st afar)
    | none =>
      let (s, k) ← s.collSend i k 7 0 q p.chunk.toNat p.blk.toNat 0 []
      let k := { k with confirmed := k.confirmed || conf, wloss := k.wloss || w, sat := k.sat || x }
      State.trySum i (s, k) (b, p.payload, w, x)
  | 6 =>
    if k.isToken && p.payload.isEmpty then return (s, { k with recvLen := k.recvLen ++ [(q, 0)] })
    else
      match checkTransport p.payload (if k.isReduce then acceptSums else .any) with
      | some st => .error (.fail st afar)
      | none =>
        -- a result block with reserved codes is rejected (R92)
        if k.isReduce && (k.decodePage b p.payload).isNone then .error (.fail stTransport 0)
        else
        let (s, k) ← s.collSend i k 7 0 q p.chunk.toNat p.blk.toNat 0 []
        let src := if k.isToken then q else 0
        if k.done.contains p.chunk.toNat || k.staged.any (fun y => y.1 == src && y.2.1 == b) then return (s, k)
        else
          let k := { k with staged := k.staged ++ [(src, b, p.payload, w, x)],
                            confirmed := k.confirmed || (conf && !k.isToken), wloss := k.wloss || w, sat := k.sat || x,
                            recvLen := if k.isToken && !k.recvLen.any (fun y => y.1 == q) then
                              k.recvLen ++ [(q, p.arg.toNat % 2 ^ 32)] else k.recvLen }
          if !k.isToken && k.pos + 1 < k.g && k.run.contains p.chunk.toNat then
            return (s, s.queueBlock i k 6 (pflagsOf w x k.confirmed) (k.pos + 1) b 0 p.payload)
          else return (s, k)
  | 7 =>
    let left := k.unacked.filter (· ≠ (q, b))
    let chunkOver := !left.any (fun u => k.chunkOf u.2 == k.chunkOf b) && !k.outq.any (fun o => k.chunkOf o.blk == k.chunkOf b)
    let k := { k with unacked := left, charged := if chunkOver then k.charged.filter (· ≠ (q, k.chunkOf b)) else k.charged }
    -- a chunk of sums that has been sent on and acknowledged returns its credit (R386)
    if chunkOver && k.isReduce && 0 < k.pos && q + 1 = k.pos && k.pos + 1 < k.g then s.collSend i k 2 0 (k.pos + 1) 0 0 1 [] else return (s, k)
  | _ => return (s, k)

/-- The open collective a packet belongs to: its GROUPID and CSER (R382). -/
def State.collOf (s : State) (p : Packet) : Option (Nat × Coll) :=
  s.links.open_.find? (fun e => (s.cast e.1).groupid == p.groupid && e.2.cser == p.cser)

/-- A packet's GROUPID is that of no entry of this device, although its sender is a member of one (R381). -/
def State.isStray (s : State) (p : Packet) : Bool :=
  let cs := s.links.casts.filter (fun e => (s.cast e.1).valid)
  !cs.any (fun e => (s.cast e.1).groupid == p.groupid) && cs.any (fun e => ((s.cast e.1).rankOf p.src).isSome)

/-- The open collective that a stray packet was meant for (R381, assumption 41): its sender is a member, the serial agrees, and
DHASH agrees or only one entry has the sender as a member. -/
def State.strayColl (s : State) (p : Packet) : Option (Nat × Coll) :=
  let ms := s.links.casts.filter (fun e => (s.cast e.1).valid && ((s.cast e.1).rankOf p.src).isSome)
  let cs := s.links.open_.filter (fun e => e.2.cser == p.cser && !e.2.feed && ms.any (fun m => m.1 == e.1))
  if !s.isStray p then none
  else (cs.find? (fun e => e.2.dhash == p.dhash)).or (if ms.length = 1 then cs.head? else none)

/-- A feed block at a member (R390): written at LANDING, or refused. -/
def State.feedBlock (s : State) (i : Nat) (p : Packet) : State :=
  let c := s.cast i
  let reply := fun (ty arg : Nat) => { p with ptype := BitVec.ofNat 8 ty, pflags := 0, dst := p.src, src := s.glb.devId,
                                              arg := BitVec.ofNat 64 arg, payload := [] }
  if !c.feedOk || c.landing c.myrank = 0 then s.send (reply 8 stFeedRefused.toNat)
  else match checkTransport p.payload .any with
    | some st => (s.slateFault st afar 0xFFFF 0).send (reply 8 st.toNat)
    | none =>
      let n := if p.chunk = 0 ∧ p.blk = 0 then 0 else if c.feedLast = some (p.chunk, p.blk) then c.feedBlk else c.feedBlk + 1
      let sl := slateOf (bytesAt p.payload 4096 16)
      let q : Req := { tenant := s.ownerOf (c.landing c.myrank), use := .other, range := stRange }
      match s.write q sl.kind sl.fmt sl.tidf (c.landing c.myrank + 4096 * n) (bytesAt p.payload 0 4096) with
      | .error .wait => s
      | .error (.fail st a) => (s.slateFault st a 0xFFFF 0).send (reply 8 st.toNat)
      | .ok u => (u.modCast i (fun c => { c with feedBlk := n, feedLast := some (p.chunk, p.blk) })).send (reply 7 0)

/-- A collective packet that has arrived. -/
def State.collArrive (s : State) (p : Packet) : State :=
  match s.collOf p with
  | some (i, k) =>
    match (s.cast i).rankOf p.src with
    | none => s.abortColl i k stMismatch 0
    | some r =>
      if p.ptype = 8 then
        if k.feed then s.endColl i k (BitVec.ofNat 16 p.arg.toNat)
        else s.abortColl i k (BitVec.ofNat 16 p.arg.toNat) 0
      else if k.dhash ≠ p.dhash then s.abortColl i k stMismatch 0
      else s.settle i k (s.onPacket i k (k.posOf r) p)
  | none =>
    match s.strayColl p with
    | some (i, k) => s.abortColl i k stMismatch 0
    | none =>
      match s.links.casts.find? (fun e => (s.cast e.1).valid && (s.cast e.1).groupid == p.groupid) with
      | none => if s.isStray p && p.ptype != 8 then s.modLinks (fun l => { l with early := l.early ++ [p] }) else s
      | some (i, _) =>
        if p.cser.toNat < (s.cast i).cser.toNat then s
        else if p.ptype = 6 then s.feedBlock i p
        else s.modLinks (fun l => { l with early := l.early ++ [p] })

/-- A packet command takes effect: addressed to this device, well formed (R365), and no longer waiting in the inbox. -/
def State.takePacket (s : State) (ty : Nat) (p : Packet) (g : State → State) : State :=
  if s.ebtor && s.clocks && !packetBad p && p.ptype.toNat = ty && p.dst = s.glb.devId then
    g (s.modLinks (fun l => { l with inbox := l.inbox.erase p }))
  else s

end Sys2Proof.Machine
end

