-- ==== Sys2Proof/Machine/Mailboxes.lean ====
section
/-!
DEFINITION. Mailboxes and event queues (R281 to R284), MSI-X unmasking (R491), and the packets that reach them (R370).
-/
namespace Sys2Proof.Machine

/-- SENDER's KIND and ID of a writer (Table 10-16). -/
def senderKind : Sender → BitVec 4
  | .pcie .. => 1 | .controlDie _ => 2 | .stagehand _ => 3 | .peer _ => 4
def senderId : Sender → BitVec 17
  | .pcie p f _ _ => BitVec.ofNat 17 (p.val * 256 + f.toNat)
  | .controlDie c => BitVec.ofNat 17 c.val
  | .stagehand c => BitVec.ofNat 17 (c.die.val * 1024 + c.core.val)
  | .peer d => d.setWidth 17

/-- Hosts and peers write inbound mailboxes, control dies outbound ones, stagehands none (R283). -/
def mayWrite (src : Sender) (m : Nat) : Bool :=
  match src with
  | .pcie .. | .peer _ => decide (m < 16)
  | .controlDie _ => decide (16 ≤ m)
  | .stagehand _ => false

/-- How a refusal reaches its sender (R283). -/
def State.reportRefusal (s : State) (src : Sender) (m : Nat) : State :=
  match src with
  | .pcie p .. => s.emit (.aerCompleterAbort p (m * 0x40))
  | .controlDie c => s.emit (.busErrorCd c)
  | .stagehand c => s.emit (.busError c)
  | .peer d => s.send { ptype := 0x0B, pflags := 0, dst := d, src := s.glb.devId, groupid := 0, cser := 0, dhash := 0, chunk := 0,
                        blk := 0, arg := BitVec.ofNat 64 m, payload := [] }

/-- A write of a mailbox (R281 to R283): accepted, or refused, counted and reported. -/
def State.writeMailbox (s : State) (src : Sender) (m size : Nat) (w : Dword) : State :=
  let b := s.mb m
  if size = 8 && !b.full && mayWrite src m && (!w.getLsbD 63 || w.toNat % 64 = 0) then
    let s := s.modMb m (fun b => { b with data := w, full := true, kind := senderKind src, id := senderId src })
    if 16 ≤ m then s.fire m else s
  else (s.modMb m (fun b => { b with rejects := satInc b.rejects })).reportRefusal src m

/-- R283. A poisoned posted write is dropped and logged (R490). -/
def mailboxWrite (src : Sender) (m : Fin 64) (size : Nat) (w : Dword) (s : State) : State :=
  match src with
  | .pcie p _ _ true => s.emit (.aerPoisoned p)
  | _ => s.writeMailbox src m.val size w
def execMailboxWrite (src : Sender) (m : Fin 64) (size : Nat) (w : Dword) (s : State) : Out State :=
  .next (mailboxWrite src m size w s)

/-- GLB_MB_SENDER and GLB_MB_STAT (Tables 10-14, 10-16). -/
def Mailbox.senderWord (b : Mailbox) : Nat := b.kind.toNat * 2 ^ 28 + b.id.toNat
def Mailbox.statWord (b : Mailbox) : Nat := b.rejects.toNat * 2 ^ 16 + b2n b.full

/-- What a BAR4 read of 4 or 8 bytes at an offset returns (R281, R487, R491): GLB_MB_DATA is 0 while FULL = 0, and the pending bits
stand at 0x1800. The receiver's 8-byte read of the word has a row of its own, which clears FULL; this one changes nothing. -/
def State.bar4Read (s : State) (port : Fin 2) (off size : Nat) : Dword :=
  let b := s.mb (off / 0x40)
  let word := if b.full then b.data.toNat else 0
  let whole :=
    if off < 0x1000 then
      (if off % 0x40 < 8 then word else if off % 0x40 < 16 then b.senderWord + b.statWord * 2 ^ 32 else 0)
    else if 0x1800 ≤ off ∧ off < 0x1808 then (s.pf port.val).vecPend.toNat else 0
  BitVec.ofNat 64 (if size = 8 then whole else whole / 2 ^ (off % 8 * 8) % 2 ^ 32)

/-- The receiver has read the word (R281): FULL clears, and an inbound mailbox that becomes empty fires its vector (R491). -/
def State.emptyMailbox (s : State) (m : Nat) : State :=
  if (s.mb m).full then
    let s := s.modMb m (fun b => { b with full := false })
    if m < 16 then s.fire m else s
  else s

/-! ## Bodies -/

/-- Body length of a body word (Table 10-15). -/
def bodyLen (w : Dword) : Nat := (fld w.toNat 56 7 + 1) * 64

/-- Read bytes of a body at a device-local address; a host window is unmapped for this use (R294). -/
def State.bodyRead (s : State) (a n : Nat) : Except Stop (List Byte) := s.read ebtorReq .any a n

/-- Write bytes of a body. -/
def State.bodyWrite (s : State) (a : Nat) (bs : List Byte) : Except Stop State := s.write ebtorReq kRaw 0 0 a bs

/-- Answer a mailbox command on outbound mailbox m + 16 (R440). -/
def State.respond (s : State) (m : Nat) (st : Half) (tag : Word) : State :=
  s.post (m + 16) (eventWord 0 (st.toNat * 2 ^ 32 + tag.toNat))

/-- Ebtor reads an inbound mailbox (R281, R440): a body whose CMD is reserved is answered with RSVD. An immediate word, or a body
Ebtor cannot read, is taken without an answer. -/
def State.ebtorReads (s : State) (m : Nat) : State :=
  let w := (s.mb m).data
  let a := w.toNat % 2 ^ 40
  let u := s.emptyMailbox m
  if !w.getLsbD 63 || w.toNat / 2 ^ 40 % 2 ^ 16 ≠ s.glb.devId.toNat then u
  else match s.bodyRead a 8 with
    | .error .wait => s
    | .error (.fail _ _) => u
    | .ok b =>
      let cmd := leAt b 0 2
      -- a defined command waits for its own row (SEC_STATUS, BIND_LOAD, BIND_DROP)
      if 1 ≤ cmd ∧ cmd ≤ 3 then s else u.respond m stRsvd (BitVec.ofNat 32 (leAt b 4 4))

/-- R281. -/
def mailboxReceiverRead (m : Fin 64) (s : State) : State :=
  if !(s.mb m.val).full then s
  else if m.val < 16 then (if s.ebtor then s.ebtorReads m.val else s)
  else s.emptyMailbox m.val
def execMailboxReceiverRead (m : Fin 64) (s : State) : Out State := .next (mailboxReceiverRead m s)

/-- The LOST word of a mailbox (R284, Table 15-6). -/
def lostWord (m : Nat) (n : Word) : Dword := eventWord (if m < 32 then 5 else 3) n.toNat

/-- R284: the head of the queue moves into the mailbox; a LOST word takes the space that opens. -/
def eventQueueDeliver (m : Fin 64) (s : State) : State :=
  let b := s.mb m.val
  match b.queue with
  | [] => s
  | w :: rest =>
    if 16 ≤ m.val && !b.full && s.ebtor then
      let q := if b.dropped = 0 then rest else rest ++ [lostWord m.val b.dropped]
      (s.modMb m.val (fun b => { b with queue := q, dropped := 0 })).writeMailbox (.controlDie (Fin.ofNat 2 s.activeCd)) m.val 8 w
    else s
def execEventQueueDeliver (m : Fin 64) (s : State) : Out State := .next (eventQueueDeliver m s)

/-- R491: an unmasked vector with its pending bit set fires, once the function mask lets it. -/
def msiXUnmask (port : Fin 2) (vector : Fin 64) (s : State) : State :=
  let f := s.pf port.val
  let bit1 : Dword := 1#64 <<< vector.val
  let s := s.modPf port.val (fun f => { f with vecMask := f.vecMask &&& ~~~bit1 })
  if f.vecPend.getLsbD vector.val && f.msixEn && !f.funcMask then
    (s.modPf port.val (fun f => { f with vecPend := f.vecPend &&& ~~~bit1 })).emit (.msix port vector.val)
  else s
def execMsiXUnmask (port : Fin 2) (vector : Fin 64) (s : State) : Out State := .next (msiXUnmask port vector s)

/-! ## Packets (R365, R370) -/

/-- R370: a peer write under R283. -/
def mailbox (p : Packet) (s : State) : State :=
  s.takePacket 0x09 p (fun s => s.writeMailbox (.peer p.src) (p.arg.toNat % 64) p.payload.length (BitVec.ofNat 64 (leNat p.payload)))
def execMailbox (p : Packet) (s : State) : Out State := .next (mailbox p s)

/-- R370: only from a Burou port and only for a reel owned by peers; then R275, which counts a doorbell that does not come from the
reel's owner. -/
def doorbellPacket (viaBurou : Bool) (p : Packet) (s : State) : State :=
  s.takePacket 0x0A p (fun s =>
    let n := p.arg.toNat % 1024
    s.ringDoorbell n (viaBurou && (s.reel n).owner = 2) false (p.payload.length = 8) (BitVec.ofNat 64 (leNat p.payload)))
def execDoorbellPacket (viaBurou : Bool) (p : Packet) (s : State) : Out State := .next (doorbellPacket viaBurou p s)

/-- R370: a refused mailbox write is reported by the sender's Ebtor. -/
def reject (p : Packet) (s : State) : State :=
  s.takePacket 0x0B p (fun s => s.modLinks (fun l => { l with refused := l.refused ++ [(p.src, p.arg.toNat % 64)] }))
def execReject (p : Packet) (s : State) : Out State := .next (reject p s)

/-- R365: an Ebtor-to-Ebtor message. -/
def mgmt (p : Packet) (s : State) : State :=
  s.takePacket 0x0C p (fun s => s.modLinks (fun l => { l with mgmt := l.mgmt ++ [p] }))
def execMgmt (p : Packet) (s : State) : Out State := .next (mgmt p s)

end Sys2Proof.Machine
end

