-- ==== Sys2Proof/Machine/Collectives.lean ====
section
/-!
DEFINITION. Cast entries (R376 to R379), the collective shots (R380 to R390) and the packets and timeouts of a collective.
-/
namespace Sys2Proof.Machine

/-! ## CAST_WRITE -/

/-- A member other than this device that can be reached in principle (R378): a valid Burou route or a valid peer entry. -/
def State.hasRoute (s : State) (dev : Half) : Bool :=
  (s.inRack dev && (s.route (dev.toNat % 64)).valid) || s.links.peers.any (fun e => e.1 == dev.toNat)

/-- R378. -/
def State.castInvalid (s : State) (c : Cast) : Bool :=
  let ids := (List.range c.members.length).map c.dev
  c.dev c.myrank ≠ s.glb.devId || !s.glb.idLock || ids.eraseDups.length ≠ ids.length ||
  ids.any (fun d => d ≠ s.glb.devId && !s.hasRoute d)

/-- A CAST_WRITE is accepted: at once, at the step boundary of its job, or when the entry's collective closes (R379). -/
def State.acceptCast (s : State) (i : Nat) (c : Cast) : State :=
  let e := s.cast i
  if e.valid && !e.broken && s.jobRuns c.job then
    s.modLinks (fun l => { l with castNext := l.castNext ++ [(i, c, some c.job)] })
  else if s.links.open_.any (fun o => o.1 == i) then s.modLinks (fun l => { l with castNext := l.castNext ++ [(i, c, none)] })
  else s.installCast i c

/-- R376 to R379. -/
def castWrite (r : ShotRef) (s : State) : State :=
  s.withShot r 0x405 (fun t =>
    let b := t.shot.body
    let i := leAt b 0 2
    let j : Word := BitVec.ofNat 32 (leAt b 28 4)
    if !bit (leAt b 2 1) 0 then ((s.acceptCast i { job := j }).adminDone r).endShot r stSuccess
    else match s.read t.req .any (leAt b 16 5) (8 * leAt b 8 4) with
      | .error .wait => s
      | .error (.fail st a) => s.failShot r st a
      | .ok l =>
        let ms := (cut 8 l).map (fun m => BitVec.ofNat 64 (leNat m))
        let c : Cast := { valid := true, feedOk := bit (leAt b 2 1) 1, groupid := BitVec.ofNat 32 (leAt b 4 4), myrank := leAt b 12 4,
                          members := ms, timeout := BitVec.ofNat 32 (leAt b 24 4), job := j }
        if ms.any (fun m => decide (2 ^ 56 ≤ m.toNat)) then s.rejectShot r stRsvd
        else if s.castInvalid c then s.endShot r stCastInvalid
        else ((s.acceptCast i c).adminDone r).endShot r stSuccess)
def execCastWrite (r : ShotRef) (s : State) : Out State := .next (castWrite r s)

/-! ## Opening -/

/-- Early packets of the collective, and stray ones of its members (R381), are taken in order once it has opened. -/
def State.takeEarly (s : State) (i : Nat) (cser : Word) : State :=
  let mine := fun (p : Packet) =>
    p.cser == cser && (p.groupid == (s.cast i).groupid || (s.isStray p && ((s.cast i).rankOf p.src).isSome))
  let ps := s.links.early.filter mine
  let s := s.modLinks (fun l => { l with early := l.early.filter (fun p => !mine p) })
  ps.foldl State.collArrive s

/-- Send lengths of a token exchange (R388): above SLICEMAX or no multiple of 64 is SLICE_LENGTH. -/
def State.sendLengths (s : State) (k : Coll) : Except Stop (List Nat) := do
  if !k.isToken || k.total = 0 then return []
  else
    let l ← s.read k.req .any k.lentab (4 * k.g)
    let ns := (List.range k.g).map (fun j => leAt l (4 * j) 4)
    if ns.any (fun n => decide (k.count < n) || n % 64 ≠ 0) then .error (.fail stSliceLength 0) else return ns

/-- A collective opens at this member (R382, R384): its serial is taken, OPEN goes out, and under MODE 0 its chunks run. With a member
out of reach it aborts (R392). -/
def State.openColl (s : State) (i : Nat) (k : Coll) : State :=
  let u := { (s.modCast i (fun c => { c with cser := c.cser + 1 })).modTracked k.ref (fun t => { t with phase := .running }) with
             links.open_ := s.links.open_ ++ [(i, k)] }
  if u.peerLost i k then u.abortColl i k stUnreachable 0
  else match s.sendLengths k with
  | .error .wait => s
  | .error (.fail st a) => u.abortColl i k st a
  | .ok ls =>
    let k := { k with sendLen := ls }
    let start : CRes := do
      let sk ← u.openStep i k
      if k.mode1 then return sk else (List.range k.chunks).foldlM (State.startChunk i) sk
    match start with
    | .error .wait => s
    | x => (u.settle i k x).takeEarly i k.cser

/-- The feed of position 0 (R390): every block to every member, then the doorbells. -/
def State.openFeed (s : State) (i : Nat) (k : Coll) : State :=
  let k := { k with feed := true, confirmed := true }
  let u := { (s.modTracked k.ref (fun t => { t with phase := .running })) with links.open_ := s.links.open_ ++ [(i, k)] }
  if u.peerLost i k then u.abortColl i k stUnreachable 0
  else match (List.range k.total).foldlM (State.startData i) (u, k) with
  | .error .wait => s
  | x => u.settle i k x

/-- A collective shot (R380 to R384, R390, R392). -/
def collective (op : Nat) (r : ShotRef) (s : State) : State :=
  s.withShot r op (fun t =>
    let b := t.shot.body
    let i := leAt b 0 2
    let c := s.cast i
    let root := leAt b 8 2
    if t.phase = .running || s.links.open_.any (fun o => o.1 == i) then s
    else if c.broken then s.endShot r stCastBroken
    else if !c.valid then s.endShot r stCastInvalid
    else if c.members.length ≤ root then s.rejectShot r stRsvd
    else
      let k : Coll :=
        { ref := r, body := b, opcode := op, tenant := t.tenant, eval := t.eval, dhash := collHash op b, cser := c.cser, pos := 0,
          g := c.members.length }
      let k := { k with pos := k.posOf c.myrank }
      if bit (leAt b 2 1) 1 then (if k.pos = 0 then s.openFeed i k else s.rejectShot r stRsvd)
      else s.openColl i k)

/-- R384. -/
def broadcast (r : ShotRef) (s : State) : State := collective 0x200 r s
def execBroadcast (r : ShotRef) (s : State) : Out State := .next (broadcast r s)
def reduce (r : ShotRef) (s : State) : State := collective 0x201 r s
def execReduce (r : ShotRef) (s : State) : Out State := .next (reduce r s)
def allreduce (r : ShotRef) (s : State) : State := collective 0x202 r s
def execAllreduce (r : ShotRef) (s : State) : Out State := .next (allreduce r s)
def tokenExchange (r : ShotRef) (s : State) : State := collective 0x203 r s
def execTokenExchange (r : ShotRef) (s : State) : Out State := .next (tokenExchange r s)
def barrier (r : ShotRef) (s : State) : State := collective 0x204 r s
def execBarrier (r : ShotRef) (s : State) : Out State := .next (barrier r s)

/-! ## Packets -/

/-- R384: a member answers OPEN with OPEN_ACK and passes the open on. -/
def openPkt (p : Packet) (s : State) : State := s.takePacket 1 p (·.collArrive p)
def execOpenPkt (p : Packet) (s : State) : Out State := .next (openPkt p s)
/-- R384: chunk credits. -/
def openAck (p : Packet) (s : State) : State := s.takePacket 2 p (·.collArrive p)
def execOpenAck (p : Packet) (s : State) : Out State := .next (openAck p s)
/-- R384: the confirm. -/
def confirm (p : Packet) (s : State) : State := s.takePacket 3 p (·.collArrive p)
def execConfirm (p : Packet) (s : State) : Out State := .next (confirm p s)
/-- R95: the exponent pass. -/
def exp (p : Packet) (s : State) : State := s.takePacket 4 p (·.collArrive p)
def execExp (p : Packet) (s : State) : Out State := .next (exp p s)
/-- R385: a running sum. -/
def sum (p : Packet) (s : State) : State := s.takePacket 5 p (·.collArrive p)
def execSum (p : Packet) (s : State) : Out State := .next (sum p s)
/-- R385: a data block. -/
def data (p : Packet) (s : State) : State := s.takePacket 6 p (·.collArrive p)
def execData (p : Packet) (s : State) : Out State := .next (data p s)
/-- R385: a block is acknowledged. -/
def back (p : Packet) (s : State) : State := s.takePacket 7 p (·.collArrive p)
def execBack (p : Packet) (s : State) : Out State := .next (back p s)
/-- R391: an abort. -/
def abort (p : Packet) (s : State) : State := s.takePacket 8 p (·.collArrive p)
def execAbort (p : Packet) (s : State) : Out State := .next (abort p s)

/-! ## Commit and timeouts -/

/-- The open collective of an entry. -/
def State.openAt (s : State) (i : Nat) : Option Coll := (s.links.open_.find? (fun o => o.1 == i)).map (·.2)

/-- R387: chunk output and confirm have both arrived. -/
def chunkCommit (cast : Fin 4096) (chunk : Nat) (s : State) : State :=
  match s.openAt cast.val with
  | none => s
  | some k =>
    let owes := !(k.opcode = 0x201 && 0 < k.pos)
    if s.ebtor && s.clocks && k.confirmed && !k.feed && owes && k.run.contains chunk && !k.done.contains chunk &&
       decide (chunk < k.chunks) && k.chunkReady chunk then
      s.settle cast.val k (s.commitChunk cast.val k chunk)
    else s
def execChunkCommit (cast : Fin 4096) (chunk : Nat) (s : State) : Out State := .next (chunkCommit cast chunk s)

/-- R392: a block is still unacknowledged after 1 ms and three resends. -/
def blockAckTimeout (cast : Fin 4096) (blk dst : Nat) (s : State) : State :=
  match s.openAt cast.val with
  | none => s
  | some k => if k.unacked.contains (dst, blk) && s.ebtor && s.clocks then s.abortColl cast.val k stUnreachable 0 else s
def execBlockAckTimeout (cast : Fin 4096) (blk dst : Nat) (s : State) : Out State := .next (blockAckTimeout cast blk dst s)

/-- R393: open for TIMEOUT without the confirm; with TIMEOUT = 0 a member waits without limit. -/
def collectiveTimeout (cast : Fin 4096) (s : State) : State :=
  match s.openAt cast.val with
  | none => s
  | some k =>
    if (s.cast cast.val).timeout ≠ 0 && !k.confirmed && s.ebtor then s.abortColl cast.val k stCollTimeout 0 else s
def execCollectiveTimeout (cast : Fin 4096) (s : State) : Out State := .next (collectiveTimeout cast s)

end Sys2Proof.Machine
end

