-- ==== Sys2Proof/Machine/Links.lean ====
section
/-!
DEFINITION. Burou ports (R350 to R363): flits and retry, width changes, training, link laggards and routes, forwarding (R368).
-/
namespace Sys2Proof.Machine

/-! ## What the port commands share -/

/-- The lanes a port uses of its working lanes: the widest of 4, 2 or 1, the lowest-numbered ones (R358). -/
def activeMask (good : BitVec 4) : BitVec 4 :=
  let ls := (List.range 4).filter (fun i => good.getLsbD i)
  let n := if ls.length = 4 then 4 else min 2 ls.length
  BitVec.ofNat 4 ((ls.take n).map (fun i => 2 ^ i)).sum

/-- The alternate of a route can carry its traffic: UP at four lanes and no laggard (R359). -/
def State.healthy (s : State) (n : Nat) : Bool :=
  decide (n < 20) && (s.port n).state == 2 && (s.port n).lanes == 0xF && !(s.port n).lag

/-- Routes whose primary is a laggard or DOWN switch to a healthy alternate while REROUTE = 1 (R359). -/
def State.reroute (s : State) : State :=
  if !s.links.reroute then s
  else (s.links.routes.map (·.1)).foldl (fun s i => s.modRoute i (fun r =>
    if r.valid && ((s.port r.pri.toNat).lag || !s.portUp r.pri.toNat) && s.healthy r.alt.toNat then { r with onAlt := true }
    else r)) s

/-- A port's LAG bit follows its width and its retry rate; becoming a laggard writes one fault record (R359). The coding of the
retry rate in ADDR is a free value (assumption 21). -/
def State.judgeLag (s : State) (n : Nat) : State :=
  let p := s.port n
  let lag := s.portUp n && (p.lanes != 0xF || p.lagRetry)
  let s := s.modPort n (fun p => { p with lag := lag })
  if lag && !p.lag then
    (s.fault { kind := 0x0C, outcome := 6, loc := BitVec.ofNat 16 n, addr := s.freeVal.toNat }).tick.reroute
  else s.reroute

/-- The whole packets among queued flits, in order. A packet whose first flits have left is not among them. -/
def waitingPackets : List Byte → List TxFlit → List Packet
  | _, [] => []
  | acc, f :: fs =>
    let h := leNat (f.bytes.take 4)
    let b := f.bytes.drop 4
    let acc := if h / 2 ^ 30 = 1 then b else if acc.isEmpty then [] else acc ++ b
    if bit h 29 then (if acc.isEmpty then [] else [packetOf acc]) ++ waitingPackets [] fs else waitingPackets acc fs

/-- A port goes DOWN: its retry buffer is dropped and the packets that wait for it take the other route (R357). -/
def State.portDown (s : State) (n : Nat) (state : BitVec 4) : State :=
  let q := (s.port n).txQueue
  let ps := (List.range 4).flatMap (fun v => waitingPackets [] (q.filter (fun f => f.vc == v)))
  let s := (s.modPort n (fun p => { p with state := state, lanes := 0, retry := [], txQueue := [], newMask := none, asm := [],
                                           nakSent := false })).judgeLag n
  ps.foldl State.send s

/-- Collectives with a member that cannot be reached any more abort (R392). -/
def State.abortUnreachable (s : State) : State :=
  (s.links.open_.map (·.1)).foldl (fun s i =>
    match s.openAt i with
    | none => s
    | some k => if s.peerLost i k then s.abortColl i k stUnreachable 0 else s) s

/-- Training starts at full width (R350, R362). -/
def State.portTrain (s : State) (n : Nat) : State :=
  (s.portDown n 1).modPort n (fun p => { p with good := 0xF, clean := 0 })

/-- Flits of the retry buffer from FSEQ f on go again (R356, R358). -/
def State.resend (s : State) (n : Nat) (f : Nat) : State :=
  let fs := (s.port n).retry.dropWhile (fun x => x.fseq ≠ f % 2048)
  if fs.isEmpty then s
  else (s.modPort n (fun p => { p with flitsTx := satAdd p.flitsTx fs.length })).emit (.flits (Fin.ofNat 20 n) (fs.map (·.fseq)))

/-- A width change begins: the port proposes a mask (R358). -/
def State.startWidth (s : State) (n : Nat) (mask : BitVec 4) : State :=
  (s.modPort n (fun p => { p with state := 3, newMask := some mask })).sendCtrl n 3 (leBytes 1 mask.toNat)

/-- A width change ends: the port runs with the new mask and sends again from its retry buffer (R358). -/
def State.endWidth (s : State) (n : Nat) (mask : BitVec 4) : State :=
  let s := (s.modPort n (fun p => { p with state := 2, lanes := mask, newMask := none })).judgeLag n
  (s.resend n ((s.port n).peerAck.toNat + 1)).drainPort (s.port n).txQueue.length n

/-! ## Flits -/

/-- A flit that cannot be taken: it and those after it are discarded, and one NAK names the FSEQ expected (R356). -/
def State.refuseFlit (s : State) (n : Nat) : State :=
  let p := s.port n
  if p.nakSent then s
  else (s.modPort n (fun p => { p with nakSent := true })).sendCtrl n 1 (leBytes 2 p.rxSeq.toNat)

/-- A whole packet has arrived on a port (R365): it is dropped and counted, or stands at the device for its own command. -/
def State.packetIn (s : State) (n : Nat) (bs : List Byte) : State :=
  let p := packetOf bs
  if packetBad p then s.modPort n (fun q => { q with dropped := satInc q.dropped })
  else s.modLinks (fun l => { l with inbox := l.inbox ++ [p] })

/-- A packet flit in order (R353, R355, R364). A flit of the reserved FK takes its FSEQ and carries nothing (assumption 21). -/
def State.takeFlit (s : State) (n : Nat) (hdr : Nat) (payload : List Byte) : State :=
  let v := fld hdr 27 2
  let p := s.port n
  let acc := tget (fun _ => []) p.asm v
  let fk := fld hdr 30 2
  let bs := if fk = 1 then payload else if fk = 2 && !acc.isEmpty then acc ++ payload else []
  let fin := bit hdr 29
  let s := s.modPort n (fun p =>
    { p with rxSeq := p.rxSeq + 1, flitsRx := satInc p.flitsRx, nakSent := false,
             returns := p.returns.set v (p.returns.getD v 0 + 1), asm := tset p.asm v (if fin then [] else bs) })
  if fin && !bs.isEmpty then s.packetIn n bs else s

/-- Credits and ACKSEQ that a flit brings back (R353, R354). -/
def State.takeReturns (s : State) (n : Nat) (hdr : Nat) (payload : List Byte) : State :=
  let s := s.modPort n (fun p => { p with peerAck := BitVec.ofNat 11 (fld hdr 16 11) })
  if fld hdr 30 2 ≠ 0 then s
  else
    let s := s.modPort n (fun p =>
      { p with credits := (List.range 4).map (fun v => p.credits.getD v 0 + leAt payload (2 * v) 2) })
    s.drainPort (s.port n).txQueue.length n

/-- R352 to R356. What a CTRL flit's CTYPE asks for is the command of its own (NAK, SYNC, WIDTH, WIDTH_ACK). -/
def flitReceive (p : Fin 20) (bytes : List Byte) (fecBytes : Nat) (fecOk : Bool) (s : State) : State :=
  let n := p.val
  if (s.port n).state ≠ 2 || !s.clocks then s
  else if !fecOk then (s.modPort n (fun p => { p with fecUnc := satInc p.fecUnc })).refuseFlit n
  else
    let s := s.modPort n (fun p => { p with fecCorr := satAdd p.fecCorr fecBytes })
    let hdr := leAt bytes 0 4
    let payload := bytesAt bytes 4 192
    if (crc32c (bytesAt bytes 0 196)).toNat ≠ leAt bytes 196 4 then s.refuseFlit n
    else if fld hdr 30 2 = 0 then (if 4 < leAt payload 8 1 then s else s.takeReturns n hdr payload)
    else if fld hdr 5 11 ≠ (s.port n).rxSeq.toNat then s.refuseFlit n
    else (s.takeReturns n hdr payload).takeFlit n hdr payload
def execFlitReceive (p : Fin 20) (bytes : List Byte) (fecBytes : Nat) (fecOk : Bool) (s : State) : Out State :=
  .next (flitReceive p bytes fecBytes fecOk s)

/-- R356: go back and send again from the FSEQ the receiver expects. -/
def nak (p : Fin 20) (fseq : BitVec 11) (s : State) : State :=
  if (s.port p.val).state ≠ 2 || !s.clocks then s
  else (s.modPort p.val (fun p => { p with retries := satInc p.retries })).resend p.val fseq.toNat
def execNak (p : Fin 20) (fseq : BitVec 11) (s : State) : Out State := .next (nak p fseq s)

/-- R354: an IDLE CTRL flit. -/
def ctrlSend (p : Fin 20) (s : State) : State :=
  if (s.port p.val).state ≠ 2 || !s.clocks then s else s.sendCtrl p.val 0 []
def execCtrlSend (p : Fin 20) (s : State) : Out State := .next (ctrlSend p s)

/-! ## Training and width -/

/-- R357: the timer does not run in DEGRADE. -/
def portRxTimeout (p : Fin 20) (s : State) : State := 
  if (s.port p.val).state = 2 then (s.portDown p.val 0).abortUnreachable else s
def execPortRxTimeout (p : Fin 20) (s : State) : Out State := .next (portRxTimeout p s)

/-- R357. -/
def widthChangeTimeout (p : Fin 20) (s : State) : State := 
  if (s.port p.val).state = 3 then (s.portDown p.val 0).abortUnreachable else s
def execWidthChangeTimeout (p : Fin 20) (s : State) : Out State := .next (widthChangeTimeout p s)

/-- R357. -/
def portRetrain (p : Fin 20) (s : State) : State :=
  if (s.port p.val).state = 0 && (s.port p.val).en && s.clocks then s.portTrain p.val else s
def execPortRetrain (p : Fin 20) (s : State) : Out State := .next (portRetrain p s)

/-- R350: training ends. A port whose peer is the device itself stays DOWN; so does one with no working lane. -/
def portTrained (p : Fin 20) (peer : Half) (peerPort : BitVec 5) (lanes : BitVec 4) (s : State) : State :=
  let n := p.val
  if (s.port n).state ≠ 1 || !s.clocks then s
  else if peer = s.glb.devId || lanes = 0 then s.modPort n (fun p => { p with state := 0, lanes := 0 })
  else (s.modPort n (fun p =>
    { p with state := 2, peerId := peer, peerPort := peerPort, good := lanes, lanes := activeMask lanes, clean := 0, newMask := none,
             txSeq := 0, rxSeq := 0, peerAck := 0x7FF, retry := [], txQueue := [], sinceCtrl := 0, nakSent := false,
             credits := [512, 128, 64, 64], returns := [0, 0, 0, 0], asm := [] })).judgeLag n
def execPortTrained (p : Fin 20) (peer : Half) (peerPort : BitVec 5) (lanes : BitVec 4) (s : State) : Out State :=
  .next (portTrained p peer peerPort lanes s)

/-- R358: a lane is dropped, recorded and counted; when the port used it, the port narrows. -/
def laneDrop (p : Fin 20) (lane : Fin 4) (s : State) : State :=
  let n := p.val
  let q := s.port n
  let one : BitVec 4 := 1#4 <<< lane.val
  if !s.portUp n || !q.good.getLsbD lane.val then s
  else
    let good := q.good &&& ~~~one
    let s := s.modPort n (fun p => { p with good := good, clean := p.clean &&& ~~~one, laneDrops := satInc p.laneDrops })
    let s := s.fault { kind := 0x0C, outcome := 0, loc := BitVec.ofNat 16 n }
    if q.state = 2 && activeMask good = q.lanes then s else s.startWidth n (activeMask good)
def execLaneDrop (p : Fin 20) (lane : Fin 4) (s : State) : Out State := .next (laneDrop p lane s)

/-- R358: the peer proposes a mask; the port answers and takes it. A mask of no lanes is no proposal. -/
def width (p : Fin 20) (mask : BitVec 4) (s : State) : State :=
  if !s.portUp p.val || mask = 0 || !s.clocks then s else (s.sendCtrl p.val 4 []).endWidth p.val mask
def execWidth (p : Fin 20) (mask : BitVec 4) (s : State) : Out State := .next (width p mask s)

/-- R358. -/
def widthAck (p : Fin 20) (s : State) : State :=
  match (s.port p.val).newMask with
  | some m => if (s.port p.val).state = 3 && m ≠ 0 then s.endWidth p.val m else s
  | none => s
def execWidthAck (p : Fin 20) (s : State) : Out State := .next (widthAck p s)

/-- R358: a dropped lane is retrained in the background and begins its 10 s. -/
def laneRetrain (p : Fin 20) (lane : Fin 4) (s : State) : State :=
  let q := s.port p.val
  if s.portUp p.val && !q.good.getLsbD lane.val then
    s.modPort p.val (fun p => { p with clean := p.clean ||| (1#4 <<< lane.val) })
  else s
def execLaneRetrain (p : Fin 20) (lane : Fin 4) (s : State) : Out State := .next (laneRetrain p lane s)

/-- R358: a lane that has run clean for 10 s works again, and the port widens. -/
def laneRestore (p : Fin 20) (lane : Fin 4) (s : State) : State :=
  let n := p.val
  let q := s.port n
  let one : BitVec 4 := 1#4 <<< lane.val
  if s.portUp n && q.clean.getLsbD lane.val then
    let good := q.good ||| one
    let s := s.modPort n (fun p => { p with good := good, clean := p.clean &&& ~~~one })
    if q.state = 2 && activeMask good = q.lanes then s else s.startWidth n (activeMask good)
  else s
def execLaneRestore (p : Fin 20) (lane : Fin 4) (s : State) : Out State := .next (laneRestore p lane s)

/-! ## Laggards and routes -/

/-- The retried flits of the last second exceed 2^-RETRYEXP of the flits sent (R359). -/
def State.overRetry (s : State) (retried sent : Nat) : Bool := decide (sent < retried * 2 ^ s.links.retryExp.toNat)

/-- R359. -/
def linkLaggard (p : Fin 20) (retried sent : Nat) (s : State) : State :=
  if s.portUp p.val && s.overRetry retried sent then (s.modPort p.val (fun p => { p with lagRetry := true })).judgeLag p.val
  else s.judgeLag p.val
def execLinkLaggard (p : Fin 20) (retried sent : Nat) (s : State) : Out State := .next (linkLaggard p retried sent s)

/-- R359. -/
def linkLaggardClear (p : Fin 20) (retried sent : Nat) (s : State) : State :=
  if s.overRetry retried sent then s else (s.modPort p.val (fun p => { p with lagRetry := false })).judgeLag p.val
def execLinkLaggardClear (p : Fin 20) (retried sent : Nat) (s : State) : Out State := .next (linkLaggardClear p retried sent s)

/-- R359: the primary has been healthy for 10 s. -/
def routeRestore (i : Fin 64) (s : State) : State :=
  if (s.route i.val).onAlt && s.healthy (s.route i.val).pri.toNat then s.modRoute i.val (fun r => { r with onAlt := false })
  else s
def execRouteRestore (i : Fin 64) (s : State) : Out State := .next (routeRestore i s)

/-- R368: forwarded once, with HOP set; a second forward drops and counts it. A packet with no route goes nowhere. -/
def packetForward (inPort : Fin 20) (p : Packet) (s : State) : State :=
  let s1 := s.modLinks (fun l => { l with inbox := l.inbox.erase p })
  if p.dst = s.glb.devId || !s.clocks then s
  else if packetBad p || p.pflags.getLsbD 0 then s1.modPort inPort.val (fun q => { q with dropped := satInc q.dropped })
  else match s.burouPort p.dst with
    | some n => s1.queueOn n { p with pflags := p.pflags ||| 1 }
    | none => s1
def execPacketForward (inPort : Fin 20) (p : Packet) (s : State) : Out State := .next (packetForward inPort p s)

end Sys2Proof.Machine
end

