-- ==== Sys2Proof/Machine/Clapper.lean ====
section
/-!
DEFINITION. The clapper count (R397 to R403), its sources, and the admission of a standby (R412).
-/
namespace Sys2Proof.Machine

/-- One count of the clapper clock: 1 ns, less or more by one count in 10,000 while an offset is being slewed away (R397, R398,
assumption 24). -/
def Clapper.tick (c : Clapper) : Clapper :=
  if c.slew = 0 then { c with count := c.count + 1, phase := 0 }
  else if c.phase < 9999 then { c with count := c.count + 1, phase := c.phase + 1 }
  else if 0 < c.slew then { c with phase := 0, slew := c.slew - 1 }
  else { c with count := c.count + 2, phase := 0, slew := c.slew + 1 }

/-- An offset saturating at ±32,767 (Table 14-3). -/
def offsetField (x : Int) : Half := BitVec.ofInt 16 (max (-32767) (min 32767 x))

/-- A measured offset from the source whose value is `source` (R398, R403): the first one in ACQUIRING steps the count, each
later one is slewed away; 16 in a row within the limit lock it. -/
def Clapper.measure (c : Clapper) (limit offset : Int) (source : Dword) : Clapper :=
  let good := if -limit ≤ offset ∧ offset ≤ limit then c.good + 1 else 0
  let c := { c with offset := offsetField offset, good := good, state := if 16 ≤ good then 2 else c.state }
  if c.state = 1 && !c.stepped then { c with count := source, stepped := true, slew := 0 } else { c with slew := offset }

/-- The port a MEMBER follows (Table 14-1): its PARENT, or under AUTO the UP port whose peer reports the smallest DEPTH. -/
def State.clapParent (s : State) : Option Nat :=
  if s.clap.auto then
    let ups := (List.range 20).filter s.portUp
    ups.foldl (fun best p => match best with
      | none => some p
      | some b => if (s.port p).syncDepth < (s.port b).syncDepth then some p else some b) none
  else some s.clap.parent.toNat

/-- R400: each timestamp of the exchange, and the correction from the parent's flit. -/
def sync (p : Fin 20) (tTx tRxLast tTxLast : Dword) (locked : Bool) (depth : BitVec 3) (t4 : Dword) (s : State) : State :=
  if (s.port p.val).state ≠ 2 || !s.clocks then s
  else
    let s := s.modPort p.val (fun q => { q with syncDepth := depth, syncLocked := locked, rxLast := t4, txLast := tTx })
    -- a peer that has received no SYNC yet returns no timestamps
    if s.clap.role = 1 && s.clapParent = some p.val && !(tRxLast = 0 && tTxLast = 0) then
      let back := (t4 - tTx).toInt
      let forth := (tRxLast - tTxLast).toInt
      let theta := (back - forth) / 2
      let now := s.clap.count
      s.modClap (fun c =>
        { c.measure 2 theta (now - BitVec.ofInt 64 theta) with
          delay := (forth + back) / 2, depth := if depth = 7 then 7 else depth + 1 })
    else s
def execSync (p : Fin 20) (tTx tRxLast tTxLast : Dword) (locked : Bool) (depth : BitVec 3) (t4 : Dword) (s : State) : Out State :=
  .next (sync p tTx tRxLast tTxLast locked depth t4 s)

/-- R400, Table 14-2. -/
def syncSend (p : Fin 20) (s : State) : State :=
  let q := s.port p.val
  if q.state ≠ 2 || !s.clocks then s
  else s.sendCtrl p.val 2 (leBytes 8 s.clap.count.toNat ++ leBytes 8 q.rxLast.toNat ++ leBytes 8 q.txLast.toNat ++
    leBytes 1 (b2n (s.clap.state = 2) + 2 * s.clap.depth.toNat))
def execSyncSend (p : Fin 20) (s : State) : Out State := .next (syncSend p s)

/-- R402: a MASTER_PTP device follows messages of its PTP domain on a protected Ethernet port (R372). -/
def ptpMessage (dom : Byte) (src : Dword) (offset : Int) (s : State) : State :=
  if s.clap.role = 2 && dom = s.clap.ptpDom && (List.range 4).any (fun e => (s.eth e).up && (s.eth e).secured) then
    s.modClap (·.measure 100 offset src)
  else s
def execPtpMessage (dom : Byte) (src : Dword) (offset : Int) (s : State) : Out State := .next (ptpMessage dom src offset s)

/-- R402: a MASTER_PPS device aligns the fraction of a second and keeps the whole seconds its count held at the first edge. -/
def sync1pps (s : State) : State :=
  if s.clap.role = 3 && s.clap.sync10m then
    let n := s.clap.count.toNat
    let f := n % 1000000000
    let down := n - f
    let up := decide (500000000 ≤ f) && s.clap.ppsSeen
    let off : Int := if up then (f : Int) - 1000000000 else f
    s.modClap (fun c =>
      { c.measure 100 off (BitVec.ofNat 64 (if up then down + 1000000000 else down)) with ppsSeen := true })
  else s
def execSync1pps (s : State) : Out State := .next (sync1pps s)

/-- R499: the PLL moves to the 25 MHz reference without a step. HOLDOVER follows by Table 14-4. -/
def sync10mLoss (s : State) : State := s.modClap (fun c => { c with sync10m := false })
def execSync10mLoss (s : State) : Out State := .next (sync10mLoss s)

/-- R499. -/
def sync10mPresent (s : State) : State := s.modClap (fun c => { c with sync10m := true })
def execSync10mPresent (s : State) : Out State := .next (sync10mPresent s)

/-- R403: no valid sync for 100 µs (MEMBER) or 3 s (masters); the lock test starts again. -/
def holdover (s : State) : State :=
  if s.clap.role ≠ 0 && s.clap.state = 2 then s.modClap (fun c => { c with state := 3, good := 0 }) else s
def execHoldover (s : State) : Out State := .next (holdover s)

/-- R403: HOLDOVER has lasted 1 s. -/
def unlocked (s : State) : State := if s.clap.state = 3 then s.modClap (fun c => { c with state := 4 }) else s
def execUnlocked (s : State) : Out State := .next (unlocked s)

/-- A write of GLB_CLAP_CFG (R399, Table 14-1). -/
def State.writeClapCfg (s : State) (w : Word) : State :=
  let v := w.toNat
  if 128 ≤ fld v 16 8 || 20 ≤ v % 32 then s.rsv
  else
    let s := s.rsvIf (decide (fld v 24 6 ≠ 0) || decide (fld v 6 10 ≠ 0))
    s.modClap (fun c =>
      let role : BitVec 2 := BitVec.ofNat 2 (v / 2 ^ 30)
      let parent : BitVec 5 := BitVec.ofNat 5 v
      let c' := { c with role := role, ptpDom := BitVec.ofNat 8 (fld v 16 8), auto := bit v 5, parent := parent }
      if role = c.role && parent = c.parent then c'
      else { c' with state := if role = 0 then 0 else 1, depth := if role = 2 || role = 3 then 0 else 7, good := 0, slew := 0,
                     stepped := false, ppsSeen := false })

/-- R399. -/
def glbClapCfgWrite (v : Word) (s : State) : State := s.writeClapCfg v
def execGlbClapCfgWrite (v : Word) (s : State) : Out State := .next (glbClapCfgWrite v s)

/-- R412: a restarted control die is admitted as standby when its image yields the active die's key; the check does not apply while
the activation window is open (R476). -/
def standbyAdmission (cd : Fin 2) (key : Dword) (s : State) : State :=
  let active := s.glb.active.toNat = cd.val + 1
  if s.ebtor && !active && (key = s.glb.contKey || s.boot.fwuActivating) then s.modCd cd.val (fun c => { c with ok := true }) else s
def execStandbyAdmission (cd : Fin 2) (key : Dword) (s : State) : Out State := .next (standbyAdmission cd key s)

end Sys2Proof.Machine
end

