-- ==== Sys2Proof/Machine/CoreWords.lean ====
section
/-!
DEFINITION. The instruction word and the stores of a core that its fields name (R230, R231, R235, R243, R248), and tile transfers
(Table 9-11).
-/
namespace Sys2Proof.Machine

def stUndefOp : Half := 0x0710
def stRsvdField : Half := 0x0711
def stOrganEmpty : Half := 0x0712
def stPcRange : Half := 0x0713
def stTokenTimeout : Half := 0x0714
def stLedgerState : Half := 0x0715
def stCheckFail : Half := 0x0305
def stSpillInvalid : Half := 0x0309

/-! ## The word -/

/-- The opcode of an instruction word (R235). -/
def opOf (w : Dword) : Nat := w.toNat / 2 ^ 56

/-- Table 9-1: the defined opcodes. -/
def opDefined (o : Nat) : Bool :=
  decide (o ≤ 0x03) || (decide (0x20 ≤ o) && decide (o ≤ 0x29)) || (decide (0x40 ≤ o) && decide (o ≤ 0x47)) ||
  (decide (0x50 ≤ o) && decide (o ≤ 0x53)) || o = 0x60 || (decide (0x70 ≤ o) && decide (o ≤ 0x75))

/-- Bits [hi : lo] of an instruction word. -/
def bitsOf (w : Dword) (hi lo : Nat) : Nat := fld w.toNat lo (hi + 1 - lo)
/-- Bit i of an instruction word. -/
def flagOf (w : Dword) (i : Nat) : Bool := bit w.toNat i
/-- Bits [hi : lo] as a two's-complement number. -/
def signedOf (w : Dword) (hi lo : Nat) : Int := toSigned (hi + 1 - lo) (bitsOf w hi lo)

/-! ## The core's own stores -/

/-- The first byte of the descriptor slots, which end the scratchpad that other instructions may address (R231). -/
def slotBase : Nat := 0x17C000

/-- A unit field that R243 reserves. -/
def unitBad (u : Nat) : Bool := decide (0x5F00 ≤ u)

/-- `n` bytes from byte a on lie in the scratchpad below the descriptor slots. -/
def padFits (a n : Nat) : Bool := decide (a + n ≤ slotBase)

def Core.pad (v : Core) (a n : Nat) : List Byte := tread v.scratch a n
def Core.padPut (v : Core) (a : Nat) (bs : List Byte) : Core := { v with scratch := tput v.scratch a bs }
/-- `n` descriptor slots from slot i on (R231). -/
def Core.slots (v : Core) (i n : Nat) : List Byte := v.pad (slotBase + 64 * i) (64 * n)
def Core.par (v : Core) (i : Nat) : Dword := tget (fun _ => (0 : Dword)) v.pr i
def Core.setPar (v : Core) (i : Nat) (x : Dword) : Core := { v with pr := tset v.pr i x }
/-- A count queue (R248). -/
def Core.count (v : Core) (q : Nat) : Nat := tget (fun _ => (0 : Nat)) v.cq q
def Core.setCount (v : Core) (q n : Nat) : Core := { v with cq := tset v.cq q n }
/-- The chunk tokens of a delivery queue (R248). -/
def Core.tokens (v : Core) (q : Nat) : List Nat := tget (fun _ => ([] : List Nat)) v.dq q
/-- An organ slot; none is EMPTY (R179). -/
def Core.slotAt (v : Core) (i : Nat) : Option Slot := tget (fun _ => (none : Option Slot)) v.organ i
def Core.setSlot (v : Core) (i : Nat) (x : Option Slot) : Core := { v with organ := tset v.organ i x }

def Slot.isFilling : Slot → Bool
  | .filling .. => true
  | .valid .. => false

/-- A slot waits for its refill after a move (R181). -/
def Slot.refilling : Slot → Bool
  | .filling _ _ _ g => g.isSome
  | .valid .. => false
def Core.refilling (v : Core) : Bool := v.organ.any (fun e => (e.2.map Slot.refilling).getD false)

/-- Ledger at row r, column n of the cells; an unlisted cell is cleared (R77). -/
def Mx.ledger (m : Mx) (r n : Nat) : Ledger := tget (fun _ => Ledger.cleared (decide (m.acc = 1)) m.wbase) m.ledgers (r * 32 + n)
/-- The 32 ledgers of row r. -/
def Mx.row (m : Mx) (r : Nat) : List Ledger := (List.range 32).map (m.ledger r)

/-- Engine of a word (Table 9-1), coded as in TPUT; none for a word that executes at issue. -/
def engineOf (w : Dword) : Option Nat :=
  let o := opOf w
  if o ≤ 0x03 then some 2
  else if o < 0x20 then none
  else if o ≤ 0x29 then some 3
  else if o = 0x41 ∨ o = 0x47 ∨ o = 0x60 then some 1
  else if 0x40 ≤ o ∧ o ≤ 0x46 then some 0
  else if o = 0x50 ∨ o = 0x51 then some (bitsOf w 43 41)
  else if o = 0x53 then some 4
  else none

/-- Parameter registers a word names, in the order of its fields (Tables 9-10, 9-12). -/
def regsOf (w : Dword) : List Nat :=
  match opOf w with
  | 0x26 => [bitsOf w 50 47, bitsOf w 46 43, bitsOf w 42 39, bitsOf w 38 35]
  | 0x27 => [bitsOf w 46 43, bitsOf w 42 39]
  | 0x29 => [bitsOf w 18 15]
  | 0x40 | 0x41 | 0x73 => [bitsOf w 55 52, bitsOf w 51 48]
  | 0x42 => [bitsOf w 55 52, bitsOf w 51 48, bitsOf w 47 44]
  | 0x45 | 0x46 | 0x47 | 0x60 | 0x72 | 0x74 | 0x75 => [bitsOf w 55 52]
  | _ => []

end Sys2Proof.Machine

namespace Sys2Proof
open Sys2Proof.Machine

/-! ## Tile transfers (Table 9-11) -/

/-- Elements of a tile transfer: one row of `nc` from row r on, from memory or the scratchpad, expanded with one rounding (R176). -/
def TileD.row (d : TileD) (rd : Reader) (v : Core) (nc r : Nat) : Except Stop (List Word) := do
  let a := d.addr + r * d.ld
  let n := d.t.f.rowBytes nc
  let blk := d.t.lay.block
  let bs ← if d.spc then pure (v.pad a n) else rd .other (acceptElem d.t.f.code) a n
  let nb := ceilDiv nc blk
  let sc ← if d.t.lay = .plain then pure [] else rd .other (acceptScale d.t.lay.scaleFmt) (d.scale + r * nb) nb
  return (List.range nc).map (fun c =>
    let b := leAt sc (c / blk) 1
    let e := d.t.f.elem (decide (d.t.lay = .coarse)) (d.t.f.code1 bs c)
    if d.t.lay ≠ .plain && (scaleParts d.t.lay b).isNone then canonNan
    else toF32 (((e.underScale (scaleParts d.t.lay b)).num.mul (scaleNum d.t.lay b)).mul (f32Num d.mscale)))

/-- A tile image: rows past `nr` and columns past `nc` read as +0 (R245). -/
def TileD.image (d : TileD) (rd : Reader) (v : Core) (nr nc : Nat) : Except Stop (List Word) := do
  let rows ← (List.range nr).mapM (d.row rd v nc)
  return (List.range 1024).map (fun i => if i / 32 < nr && i % 32 < nc then (rows.getD (i / 32) []).getD (i % 32) 0 else 0)

/-- The last byte of a scratchpad transfer stays below the descriptor slots. -/
def TileD.padOk (d : TileD) (nr nc : Nat) : Bool := !d.spc || padFits (d.addr + (nr - 1) * d.ld) (d.t.f.rowBytes nc)

/-- NR and NC of Table 9-10. -/
def extentBad (n : Nat) : Bool := decide (n = 0) || decide (32 < n)

end Sys2Proof

namespace Sys2Proof.Machine

/-- The memory blocks that hold a tile's elements and scale bytes. -/
def tileBlocks (t : TileD) (nr nc : Nat) : List Nat :=
  if t.spc then []
  else
    let el := (List.range nr).map (fun r => (t.addr + r * t.ld, t.t.f.rowBytes nc))
    let sc := if t.t.lay = .plain then [] else [(t.scale, nr * ceilDiv nc t.t.lay.block)]
    rangeBlocks (el ++ sc)

/-- Blocks that a tile transfer of a memory source reads, with their generations (R179). -/
def State.tileGens (s : State) (t : TileD) (nr nc : Nat) : List (Nat × Half) :=
  (tileBlocks t nr nc).map (fun b => (b, (s.slate b).gen))

end Sys2Proof.Machine
end

