-- ==== Sys2Proof/Machine/Context.lean ====
section
/-!
DEFINITION. The context of a core (R113, R181, R252 to R254): cursor records, the parts of Table 9-15 as bytes with their slates in
HBM, and what a resuming core loads from them.
-/
namespace Sys2Proof.Machine

/-! ## Cursor records (Table 9-14) -/

/-- The 64 bytes of a cursor record; i is its place among the records. -/
def Issued.record (e : Issued) (i : Nat) : List Byte :=
  leBytes 8 e.iw.toNat ++ leBytes 2 e.pc ++ leBytes 1 ((engineOf e.iw).getD 0) ++ leBytes 1 (b2n e.started) ++ leBytes 4 i ++
  bytesAt (e.prv.flatMap (fun x => leBytes 8 x.2.toNat)) 0 32 ++ leBytes 8 e.pos ++ zeros 8

/-- A cursor record read back. -/
def Issued.ofRecord (b : List Byte) : Issued :=
  let w : Dword := BitVec.ofNat 64 (leAt b 0 8)
  let rs := regsOf w
  { iw := w, pc := leAt b 8 2, seq := leAt b 12 4, started := bit (leAt b 11 1) 0, pos := leAt b 48 8,
    prv := (List.range rs.length).map (fun i => (rs.getD i 0, BitVec.ofNat 64 (leAt b (16 + 8 * i) 8))) }

/-! ## Parts (Table 9-15). The spec gives the layout inside a part only for the header, the parameter registers, the cursor records and
the ledger images; the others are laid out as assumption 63 says. -/

/-- A row accumulator in 64 bytes. -/
def RowAcc.bytes (a : RowAcc) : List Byte :=
  let sp := match a.special with | none => 0 | some none => 1 | some (some false) => 2 | some (some true) => 3
  leBytes 40 a.sum.toNat ++ leBytes 4 a.maxv.toNat ++ leBytes 4 a.minv.toNat ++ leBytes 1 (b2n a.negZ + 2 * b2n a.any + 4 * sp) ++ zeros 15

def RowAcc.ofBytes (b : List Byte) : RowAcc :=
  let f := leAt b 48 1
  { sum := BitVec.ofNat 320 (leAt b 0 40), maxv := BitVec.ofNat 32 (leAt b 40 4), minv := BitVec.ofNat 32 (leAt b 44 4),
    negZ := bit f 0, any := bit f 1,
    special := match fld f 2 2 with | 0 => none | 1 => some none | 2 => some (some false) | _ => some (some true) }

/-- Keys 0 to n - 1 that hold every listed entry. -/
def span {α : Type} (t : Tab α) : Nat := t.foldl (fun m e => max m (e.1 + 1)) 0

/-- Header: PC of the next instruction to issue, records, HELD, mask of VALID slots. -/
def Core.header (v : Core) : List Byte :=
  let valid := (List.range 64).foldl (fun m i => m + (match v.slotAt i with | some (.valid ..) => 2 ^ i | _ => 0)) 0
  leBytes 2 v.pc ++ leBytes 1 v.queue.length ++ leBytes 1 (b2n v.mx.held.isSome) ++ zeros 4 ++ leBytes 8 valid ++ zeros 48

/-- Counts of queues 0 to 11, then the tokens held in queues 12 to 15. -/
def Core.tokenPart (v : Core) : List Byte :=
  bytesAt ((List.range 12).flatMap (fun q => leBytes 1 (v.count q)) ++ zeros 4 ++
    (List.range 4).flatMap (fun i => leBytes 1 (v.tokens (12 + i)).length ++
      bytesAt ((v.tokens (12 + i)).map (fun x => BitVec.ofNat 8 x)) 0 64)) 0 1024

/-- State, address and descriptor of an organ slot in 192 bytes, with the generations of the blocks it was filled from. -/
def Slot.bytes : Option Slot → List Byte
  | none => zeros 192
  | some (.filling d nr nc _) => bytesAt (leBytes 1 1 ++ leBytes 1 nr ++ leBytes 1 nc ++ zeros 5 ++ bytesAt d 0 64) 0 192
  | some (.valid _ _ g d nr nc) =>
    bytesAt (leBytes 1 2 ++ leBytes 1 nr ++ leBytes 1 nc ++ leBytes 1 g.length ++ zeros 4 ++ bytesAt d 0 64 ++
      g.flatMap (fun x => leBytes 2 x.2.toNat)) 0 192

/-- Live regions of the scratchpad: the units of 64 B that hold anything (assumption 63). -/
def Core.liveUnits (v : Core) : List (Nat × Nat) :=
  ((v.scratch.filter (fun e => decide (e.1 < slotBase))).map (fun e => e.1 / 64 * 64)).eraseDups.map (fun a => (a, 64))

/-- The parts of a context with the KIND and format of their slates (Table 12-3), each at the size in use (R253). -/
def Core.contextParts (v : Core) : List (List Byte × BitVec 4 × BitVec 4) :=
  let slotBytes := (v.scratch.filter (fun e => decide (slotBase ≤ e.1))).foldl (fun m e => max m (e.1 + 1 - slotBase)) 0
  [(v.header, kRaw, 0),
   ((List.range 16).flatMap (fun i => leBytes 8 (v.par i).toNat), kRaw, 0),
   (v.tokenPart, kRaw, 0),
   ((v.queue.zipIdx.flatMap (fun x => x.1.record x.2)), kRaw, 0),
   (v.pad slotBase slotBytes, kRaw, 0),
   ((List.range (span v.tl)).flatMap (fun i => (tget (fun _ => List.replicate 1024 (0 : Word)) v.tl i).flatMap (fun w => leBytes 4 w.toNat)),
    kRaw, 0),
   ((List.range (span v.racc)).flatMap (fun r => (tget (fun _ => ({} : RowAcc)) v.racc r).bytes), kRaw, 0),
   ((List.range (ceilDiv (span v.mx.ledgers) 32)).flatMap (fun r => (v.mx.row r).flatMap Ledger.spill), kLedger, 0xB),
   ((List.range (span v.organ)).flatMap (fun i => Slot.bytes (v.slotAt i)), kRaw, 0),
   (v.liveUnits.flatMap (fun u => v.pad u.1 u.2), kRaw, 0)]

/-- What Ebtor keeps of a core beside its parts. -/
def Core.contextRest (v : Core) : Core :=
  { v with pr := [], cq := [], dq := [], queue := [], tl := [], racc := [], scratch := [], organ := v.organAgain, pc := 0,
           mx := { v.mx.atCut with ledgers := [] } }

/-- Write parts one after the other, each at a 4 KiB boundary. -/
def State.writeParts : Nat → List (List Byte × BitVec 4 × BitVec 4) → State → Except Stop State
  | _, [], s => .ok s
  | a, p :: ps, s => do
    let s ← if p.1.isEmpty then .ok s else s.write ebtorReq p.2.1 p.2.2 0 a p.1
    State.writeParts (a + ceilDiv p.1.length 4096 * 4096) ps s

/-- Write a core's context into the HBM area Ebtor owns for context n (R253): where it lies is a free value (assumption 26). -/
def State.putContext (s : State) (n : Nat) (v : Core) : Except Stop State := do
  let base := Config.placeBlock 3 n % 0x2000000 * 4096
  let ps := v.contextParts
  let s ← State.writeParts base ps s
  return { s with contexts := tset s.contexts n (some { base := base, sizes := ps.map (·.1.length), live := v.liveUnits,
                                                        rest := v.contextRest }) }

/-- Read the parts of a context. -/
def State.readParts (s : State) : Nat → List Nat → Nat → Except Stop (List (List Byte))
  | _, [], _ => .ok []
  | a, n :: ns, i => do
    let b ← s.read ebtorReq (if i = 7 then acceptSpill else .any) a n
    let bs ← State.readParts s (a + ceilDiv n 4096 * 4096) ns (i + 1)
    return b :: bs

/-- The core that a context describes, from the bytes of its parts; none for a spill image that R86 rejects. -/
def Core.ofParts (x : Context) (ps : List (List Byte)) : Option Core :=
  let p := fun i => ps.getD i []
  let v := x.rest
  match (Sys2Proof.cut 32 (p 7)).mapM Ledger.reload with
  | none => none
  | some gs =>
    some { v with
      pc := leAt (p 0) 0 2,
      pr := (List.range 16).map (fun i => (i, BitVec.ofNat 64 (leAt (p 1) (8 * i) 8))),
      cq := (List.range 12).map (fun q => (q, leAt (p 2) q 1)),
      dq := (List.range 4).map (fun i =>
        (12 + i, (bytesAt (p 2) (17 + 65 * i) (leAt (p 2) (16 + 65 * i) 1)).map BitVec.toNat)),
      queue := (Sys2Proof.cut 64 (p 3)).map Issued.ofRecord,
      tl := ((Sys2Proof.cut 4096 (p 5)).zipIdx).map (fun t => (t.2, (Sys2Proof.cut 4 t.1).map (fun w => BitVec.ofNat 32 (leNat w)))),
      racc := ((Sys2Proof.cut 64 (p 6)).zipIdx).map (fun t => (t.2, RowAcc.ofBytes t.1)),
      scratch := x.live.zipIdx.foldl (fun m u => Sys2Proof.tput m u.1.1 (bytesAt (p 9) (64 * u.2) 64))
        (Sys2Proof.tput [] slotBase (p 4)),
      mx := { v.mx with ledgers := (gs.zipIdx).map (fun g => (g.2, g.1)) } }

/-- Load context n (R254): every part passes its slate check, the ledger images as LEDGER 0xB (Table 12-4). -/
def State.getContext (s : State) (x : Context) : Except Stop Core := do
  let ps ← s.readParts x.base x.sizes 0
  match Core.ofParts x ps with
  | none => throw (.fail stSpillInvalid x.base)
  | some v => return v

end Sys2Proof.Machine
end

