-- ==== Sys2Proof/Machine/Cue.lean ====
section
/-!
DEFINITION. Cue mode (R414 to R420): the reserved core, arming, cue doorbells and products, and the cue registers.
-/
namespace Sys2Proof.Machine

/-- A core of the die runs a part: the die runs a job (R414). -/
def State.dieBusy (s : State) (d : Nat) : Bool := (dieKeys d).any (fun k => (s.coreK k).part.isSome)

/-- A write of EN (R414, Table 14-10): at once when the die runs no job and no product, else at the job's step boundary. -/
def State.writeCueEn (s : State) (d : Nat) (en : Bool) : State :=
  let q := (s.die d).cue
  if en = q.en then s.modCue d (fun q => { q with enNext := none })
  else if s.dieBusy d || q.busy.isSome then s.modCue d (fun q => { q with enNext := some en })
  else if en then s.cueReserve d else s.cueReturn d

/-- ARM (R415): the load begins, or follows the product in progress. With no cue core there is nothing to load (assumption 19). -/
def State.writeCueArm (s : State) (d : Nat) : State :=
  s.modCue d (fun q =>
    if !q.en then q
    else if q.busy.isSome then { q with armNext := true }
    else { q with arming := true, armed := false, armErr := 0 })

/-- A write of DIE_CUE_CFG (Table 14-8): DESC, then EN, then ARM. -/
def State.writeCueCfg (s : State) (d : Nat) (v : Dword) : State :=
  let x := v.toNat
  let s := s.rsvIf (bit x 60 || decide (fld x 40 10 ≠ 0))
  let s := (s.modCue d (fun q => { q with desc := BitVec.ofNat 40 x })).writeCueEn d (bit x 63)
  if bit x 62 then s.writeCueArm d else s

/-- R414. -/
def en (d : Fin 16) (v : Dword) (s : State) : State := s.writeCueCfg d.val v
def execEn (d : Fin 16) (v : Dword) (s : State) : Out State := .next (en d v s)

/-- R415. -/
def arm (d : Fin 16) (v : Dword) (s : State) : State := s.writeCueCfg d.val v
def execArm (d : Fin 16) (v : Dword) (s : State) : Out State := .next (arm d v s)

/-! ## The cue descriptor (Table 14-6) -/

/-- A format of the cue matrix and vector. -/
def cueIn (w : Nat) : Option EFmt :=
  match Tfd.parse w with
  | some t => if t.lay = .plain && (t.f = .e4m3 || t.f = .e5m2 || t.f = .int8) then some t.f else none
  | none => none

/-- A format of the cue results. -/
def cueOut (w : Nat) : Option EFmt :=
  match Tfd.parse w with
  | some t => if t.lay = .plain && !t.rnd && !t.sill && (t.f = .f32 || t.f = .f16 || t.f = .bf16) then some t.f else none
  | none => none

/-- ARMERR 0x1: a field of the descriptor. -/
def cueDescBad (b : List Byte) : Bool :=
  addrBad b 0 || leAt b 0 5 % 4096 ≠ 0 || (cueIn (leAt b 8 2)).isNone || (cueIn (leAt b 10 2)).isNone ||
  (cueOut (leAt b 12 2)).isNone || outside (leAt b 14 1) 1 32 || rz b 15 1 || outside (leAt b 16 2) 1 256 || rz b 18 2 ||
  !scaleOk (BitVec.ofNat 32 (leAt b 20 4)) || !scaleOk (BitVec.ofNat 32 (leAt b 24 4)) || (b.drop 28).any (· ≠ 0)

/-- ARMERR of a failed access: an address out of range, or a slate failure. -/
def armErrOf (st : Half) : BitVec 4 := if st = stRange || st.toNat / 256 = 5 then 3 else 2

/-- The load of R415: the descriptor, then the two blocks of the matrix; columns at or beyond N are code 0. -/
def State.cueLoad (s : State) (d : Nat) : Except (Option (BitVec 4)) (List Byte × List Byte) :=
  let q := (s.die d).cue
  let stop := fun (x : Stop) => match x with | .wait => none | .fail st _ => some (armErrOf st)
  if q.desc.toNat % 64 ≠ 0 then .error (some 1)
  else match s.read ebtorReq .any q.desc.toNat 64 with
    | .error x => .error (stop x)
    | .ok b =>
      if cueDescBad b then .error (some 1)
      else
        let f := ((cueIn (leAt b 8 2)).map EFmt.code).getD 0
        match s.read { ebtorReq with use := .matrix } (acceptElem f) (leAt b 0 5) 8192 with
        | .error x => .error (stop x)
        | .ok m => .ok (b, bytesAt (m.take (256 * leAt b 14 1)) 0 8192)

/-- R415. -/
def armComplete (d : Fin 16) (s : State) : State :=
  if !(s.die d.val).cue.arming || !s.ebtor then s
  else match s.cueLoad d.val with
    | .error none => s
    | .error (some e) => s.modCue d.val (fun q => { q with arming := false, armed := false, armErr := e })
    | .ok (b, m) => s.modCue d.val (fun q => { q with arming := false, armed := true, armErr := 0, armedDesc := b, matrix := m })
def execArmComplete (d : Fin 16) (s : State) : Out State := .next (armComplete d s)

/-! ## Products -/

/-- The F32 sum of row n: products added one by one in ascending index, from −0 (R90, R418). -/
def cueSum (fw fx : EFmt) (w x : List Byte) : Word :=
  (w.zip x).foldl (fun acc p => toF32 ((f32Num acc).add ((fw.num false p.1.toNat).mul (fx.num false p.2.toNat)))) 0x80000000#32

/-- The results of an armed product (R418): each sum times SW × SX, rounded once; slots at or beyond N read 0. -/
def Cue.results (q : Cue) : List Word :=
  let b := q.armedDesc
  let fw := (cueIn (leAt b 8 2)).getD .e4m3
  let fx := (cueIn (leAt b 10 2)).getD .e4m3
  let fd := (cueOut (leAt b 12 2)).getD .f32
  let k := leAt b 16 2
  let sc := (f32Num (BitVec.ofNat 32 (leAt b 20 4))).mul (f32Num (BitVec.ofNat 32 (leAt b 24 4)))
  let x := tread q.x 0 k
  (List.range 32).map (fun n =>
    if n < leAt b 14 1 then
      BitVec.ofNat 32 (fd.conv false .rne ((f32Num (cueSum fw fx (bytesAt q.matrix (256 * n) k) x)).mul sc))
    else 0)

/-- A product or an unarmed answer begins (R417). -/
def Cue.begin (q : Cue) (seq : Word) (late : Bool) : Cue :=
  { q with busy := some (seq, q.armed, late), next := if q.armed then q.results else [], waiting := none }

/-- The die's cue core can serve a doorbell now: a control die is active, the die is not stopped by a trip and the core is not being
tested (R39, R420). -/
def State.cueServes (s : State) (d : Nat) : Bool :=
  let q := (s.die d).cue
  s.ebtor && s.dieRuns d && s.clocks && !s.pwr.thermTrip && (!q.en || (s.coreK (d * 34 + q.core.toNat)).role != 3)

/-- R417: rejected while a product is in progress or waits, while FULL = 1 and while an ARM is loading. -/
def dieCueDb (d : Fin 16) (v : Dword) (s : State) : State :=
  let q := (s.die d.val).cue
  let s := s.rsvIf (decide (v.toNat / 2 ^ 32 ≠ 0))
  let seq : Word := BitVec.ofNat 32 v.toNat
  if q.busy.isSome || q.waiting.isSome || q.full || q.arming then s.modCue d.val (fun q => { q with rej := satInc q.rej })
  else if s.cueServes d.val then s.modCue d.val (·.begin seq false)
  else s.modCue d.val (fun q => { q with waiting := some seq })
def execDieCueDb (d : Fin 16) (v : Dword) (s : State) : Out State := .next (dieCueDb d v s)

/-- A doorbell that waited for a trip or a handover to end runs now, answered LATE (R420, R465). -/
def State.cueRetry (s : State) (d : Nat) : State :=
  match (s.die d).cue.waiting with
  | some seq => if s.cueServes d then s.modCue d (·.begin seq true) else s
  | none => s

/-- The end of a product (R418, R419): with a mismatch the results written are array 0's, a free value each. -/
def State.cueEnd (s : State) (d : Nat) (q : Cue) (b : Word × Bool × Bool) (mism : Bool) : State :=
  let k := d * 34 + q.core.toNat
  let bad := b.2.1 && mism
  let vals := if bad then (List.range 32).map (fun n =>
      if n < leAt q.armedDesc 14 1 then (Config.free (s.fresh + n)).setWidth 32 else 0) else q.next
  let s := if bad then { s with fresh := s.fresh + 32 } else s
  let res := if b.2.1 then (List.range 32).zip vals else q.res
  let s := s.modCue d (fun q =>
    { q with res := res, full := true, flags := BitVec.ofNat 3 (b2n (!b.2.1) + 2 * b2n bad + 4 * b2n b.2.2), seq := b.1,
             busy := none, next := [], armNext := false, arming := q.arming || q.armNext, armed := q.armed && !q.armNext })
  if bad then
    ((s.modCoreK k (fun c => { c with mxMism := satInc c.mxMism })).fault
      { kind := 6, outcome := 6, loc := locCore k }).transient k
  else s

/-- R418. -/
def cueProductComplete (d : Fin 16) (mism : Bool) (s : State) : State :=
  match (s.die d.val).cue.busy with
  | none => s.cueRetry d.val
  | some b => s.cueEnd d.val (s.die d.val).cue b mism
def execCueProductComplete (d : Fin 16) (mism : Bool) (s : State) : Out State := .next (cueProductComplete d mism s)

/-- DIE_CUE_MB as a word (Table 14-7). -/
def Cue.mailbox (q : Cue) : Dword :=
  BitVec.ofNat 64 (b2n q.full * 2 ^ 63 + q.flags.toNat * 2 ^ 32 + q.seq.toNat)

/-- R416: a read clears the word. DESIGN CHOICE (assumption 19): a 4-byte read of one half clears all of it too; R10 does not say
whether a partial read clears only its half. -/
def dieCueMbRead (d : Fin 16) (s : State) : State := s.modCue d.val (fun q => { q with full := false, flags := 0, seq := 0 })
def execDieCueMbRead (d : Fin 16) (s : State) : Out State := .next (dieCueMbRead d s)

/-- R416, R418, Table 14-10: ignored and counted during cycles 1 to 281 of a product. -/
def dieCueXWrite (d : Fin 16) (off : Fin 256) (size : Nat) (v : Dword) (cycle : Nat) (s : State) : State :=
  let q := (s.die d.val).cue
  let locked := (match q.busy with | some b => b.2.1 | none => false) && decide (1 ≤ cycle) && decide (cycle ≤ 281)
  if !(size = 4 || size = 8) || off.val % size ≠ 0 then s
  else if locked then s.rsv
  else s.modCue d.val (fun q => { q with x := Sys2Proof.tput q.x off.val (leBytes size v.toNat) })
def execDieCueXWrite (d : Fin 16) (off : Fin 256) (size : Nat) (v : Dword) (cycle : Nat) (s : State) : Out State :=
  .next (dieCueXWrite d off size v cycle s)

end Sys2Proof.Machine
end

