-- ==== Sys2Proof/Machine/Ras.lean ====
section
/-!
DEFINITION. Cuts, contexts and resumption (R251 to R255), dailies, laggards and stand-ins (R331 to R342), ageing (R344, R345).
-/
namespace Sys2Proof.Machine

/-! ## Contexts -/

/-- Save a core's context in HBM as Ebtor's context `n` (R253); a tested core keeps its part in the tracked shot. Chunks of its CCHKs
that are still to arrive are held for the program (R255). -/
def State.saveContext (s : State) (k : Nat) : Except Stop State := do
  let n := s.contexts.length
  let s ← s.putContext n (s.coreK k)
  let s := s.modCchk (fun l => l.map (fun x => if x.2.1 = k then (x.1, contextKey n, x.2.2) else x))
  return s.modCoreK k (fun c => { c.emptied with pstate := 4, saved := some n })

/-- Core key a becomes b for one core number of a shot. -/
def State.retargetUnit (s : State) (q : ShotRef × Nat) (b : Nat) : State :=
  s.modTracked q.1 (fun t => { t with running := t.running.map (fun x => if x.2 = q.2 then (b, x.2) else x) })

/-- R251: issue stops; each engine runs on to its next cut point. -/
def cutRequest (c : CoreId) (why : Fin 3) (s : State) : State :=
  if s.clocks && s.ebtor then s.requestCut c.key why.val else s
def execCutRequest (c : CoreId) (why : Fin 3) (s : State) : Out State := .next (cutRequest c why s)

/-- Every engine has stopped (R251, R253): the cut counts; for a preemption or a test the context goes to HBM, for a handover the
core keeps it until the stand-in takes it. A save that must wait on a hub leaves the core cutting; one that fails ends the part. -/
def State.finishCut (s : State) (k : Nat) : State :=
  let why := (s.coreK k).cut
  let u := s.modCoreK k (fun c => { c with pgCuts := satInc c.pgCuts, pstate := 4, mx := { c.mx with state := 6 } })
  if why = some 1 then u
  else match u.saveContext k with
    | .error .wait => s
    | .error (.fail st a) => s.failCore k st a
    | .ok v => if why = some 2 then v.testCore k else v.kickPrograms

/-- Every array has latched the rows it is due: the core is at a tile boundary (R33, R116). -/
def Mx.atBoundary (m : Mx) : Bool := m.due.isEmpty

/-- The engines of core k have come to cut points (Table 9-13): its arrays to a tile boundary with no drain in progress, an organ fill
to its completion. -/
def State.canCut (s : State) (k : Nat) : Bool :=
  let v := s.coreK k
  v.mx.atBoundary && !v.mx.drains && !v.queue.any (fun e => e.started && opOf e.iw == 0x43)

/-- R253. -/
def cutComplete (c : CoreId) (s : State) : State :=
  if (s.core c).pstate = 3 && s.clocks && s.canCut c.key then s.finishCut c.key else s
def execCutComplete (c : CoreId) (s : State) : Out State := .next (cutComplete c s)

/-- R254: the context is loaded on an idle enabled core or free stand-in, which then holds the logical core when that is vacant. -/
def State.resumeOn (s : State) (k n : Nat) (img : Core) : State :=
  let s := (s.takeSaved n).modCchk (fun l => l.map (fun x => if x.2.1 = contextKey n then (x.1, k, x.2.2) else x))
  let l := if (s.coreK k).role = 1 && (s.physical img.logical.toNat).isNone && img.logical ≠ 0x3FF then some img.logical else none
  let s := s.modCoreK k (fun c => { (c.takeContext img) with pstate := 2, cut := none, role := 0, logical := l.getD c.logical })
  match img.part with
  | some q => s.retargetUnit q k
  | none => s

/-- R254. A part of the context that fails its slate check, or a ledger image that R86 rejects, fails the program's part. -/
def resume (c : CoreId) (ctx : Nat) (s : State) : State :=
  match tget (fun _ => none) s.contexts ctx with
  | none => s
  | some x =>
    let v := s.core c
    let takes := v.role == 0 || (s.physical x.rest.logical.toNat).isNone
    if s.idle c.key && takes && s.clocks && s.ebtor then
      match s.getContext x with
      | .error .wait => s
      | .error (.fail st a) => s.endSaved ctx x st a
      | .ok img => s.resumeOn c.key ctx img
    else s
def execResume (c : CoreId) (ctx : Nat) (s : State) : Out State := .next (resume c ctx s)

/-! ## Stand-ins -/

/-- A logical core whose physical core has left: a free stand-in takes the index, or it is vacant, which one record reports (R334). -/
def State.refill (s : State) (l : BitVec 10) (k kind : Nat) : State :=
  if l = 0x3FF then s
  else match s.freeStandIn (k / 34) with
    | some b => s.modCoreK b (fun c => { c with role := 0, logical := l })
    | none => s.fault { kind := kind, outcome := 5, loc := locCore k }

/-- The stand-in step (R331, R334): the work moves at its committed state to a free stand-in, or waits as a vacant core's; the core
is fenced. -/
def State.standInStep (s : State) (k : Nat) (cause : BitVec 4) (kind : Nat) (st : Half) : State :=
  let c := s.coreK k
  let (reel, seq) := match c.part with | some (r, _) => (r.reel.val, r.seq) | none => (0xFFFF, 0)
  match s.freeStandIn (k / 34) with
  | some b =>
    let s := s.fault { status := 0, kind := kind, outcome := 1, loc := locCore k, reel := reel, seq := seq }
    (s.moveWork k b).fence k cause kind st reel seq
  | none =>
    let s := s.releasePartner k
    let gone := fun (s : State) => ((s.fence k cause kind st reel seq).fault
      { kind := kind, outcome := 5, loc := locCore k, reel := reel, seq := seq }).kickPrograms
    if c.part.isNone then gone s
    else match s.saveContext k with
      | .ok u => gone (u.modCoreK k (fun c => { c with saved := none }))
      | .error .wait => s
      | .error (.fail st' a) => gone (s.failCore k st' a)

/-! ## Dailies and laggards -/

/-- A laggard (R337). -/
def State.isLaggard (s : State) (k : Nat) : Bool :=
  decide ((s.die (k / 34)).lagCount.toNat ≤ (s.coreK k).mx.slowRun)

/-- The cue core's stand-in takes its place between products (R420); it is a core of the same die. -/
def State.cueHandover (s : State) (k : Nat) : State :=
  let d := k / 34
  match (dieKeys d).find? s.isFreeStandIn with
  | some b =>
    if (s.die d).cue.busy.isSome then s
    else
      let h := (s.coreK k).home
      let s := s.modCoreK b (fun c => { c.purge with role := 5, home := h })
      let s := s.modCoreK k (fun c => { c.purge with role := 3, home := 0x3FF, due := false, deferred := false })
      s.modCue d (fun q => { q with core := BitVec.ofNat 6 (b % 34) })
  | none => s.modCoreK k (fun c => { c with deferred := true })

/-- The move of R341 to a stand-in; the core then runs the blotter with ROLE TESTING. -/
def State.handOver (s : State) (k b : Nat) (lag : Bool) : State :=
  let c := s.coreK k
  let s := if c.pstate = 2 || c.pstate = 3 then s.modCoreK k (fun c => { c with pgCuts := satInc c.pgCuts, pstate := 4, cut := none }) else s
  let s := s.moveWork k b
  let s := s.modCoreK b (fun v => { v with pstate := if c.part.isSome then 2 else v.pstate })
  let s := s.modCoreK k (fun c => { c with role := 3, due := false, deferred := false, home := 0x3FF })
  if lag then
    let (reel, seq) := match c.part with | some (r, _) => (r.reel.val, r.seq) | none => (0xFFFF, 0)
    s.fault { kind := 9, outcome := 4, loc := locCore k, reel := reel, seq := seq }
  else s

/-- R338, R341: at a tile boundary a due or laggard core's work moves. With no stand-in free a due test is deferred and a laggard
is only logged. -/
def handover (c : CoreId) (s : State) : State :=
  let k := c.key
  let v := s.core c
  let lag := s.isLaggard k && (s.die c.die.val).lagSwap
  if !s.ebtor || !s.clocks then s
  else if v.role = 5 && s.isCueCore k && (v.due || v.deferred) then s.cueHandover k
  else if v.role != 0 || !(v.due || v.deferred || s.isLaggard k) || v.pstate = 1 || !s.canCut k then s
  else match (if v.due || v.deferred || lag then s.freeStandIn c.die.val else none) with
    | some b => s.handOver k b lag
    | none =>
      let s := s.modCoreK k (fun c => { c with deferred := c.deferred || c.due, pstate := if c.pstate = 4 && c.part.isSome then 2 else c.pstate,
                                               cut := none })
      match v.part with
      | some (r, _) =>
        if s.isLaggard k && v.lagLogged ≠ some r then
          (s.modCoreK k (fun c => { c with lagLogged := some r })).fault
            { kind := 9, outcome := 6, loc := locCore k, reel := r.reel.val, seq := r.seq }
        else s
      | none => s
def execHandover (c : CoreId) (s : State) : Out State := .next (handover c s)

/-- R341 to R343: a core falls due. A free stand-in and a core that runs no work are tested in place; with no stand-in free the
test is deferred. -/
def dailiesDue (c : CoreId) (s : State) : State :=
  let k := c.key
  let v := s.core c
  if !s.ebtor || (v.role = 0 && !s.glb.dailyEn) then s
  else if s.isFreeStandIn k || (v.role = 0 && s.idle k && v.saved.isNone) then s.testCore k
  else if v.role = 0 || v.role = 2 || (v.role = 5 && s.isCueCore k) then
    s.modCoreK k (fun c => { c with due := true, deferred := c.deferred || (s.freeStandIn (k / 34)).isNone })
  else s
def execDailiesDue (c : CoreId) (s : State) : Out State := .next (dailiesDue c s)

/-- R342: the core is preempted at its next resumable sub-boundary for its test. -/
def testDeferMax (c : CoreId) (s : State) : State :=
  let v := s.core c
  if !v.deferred || !s.ebtor then s
  else if v.pstate = 2 then s.requestCut c.key 2
  else if s.idle c.key then s.testCore c.key else s
def execTestDeferMax (c : CoreId) (s : State) : Out State := .next (testDeferMax c s)

/-- Deferred tests that held back a job's next step (R35, R342): the last one to end releases it. -/
def State.testEnds (s : State) (k : Nat) : State :=
  (s.jobs.filter (fun j => j.2.testing.contains k)).foldl (fun s j =>
    let w : Word := BitVec.ofNat 32 j.1
    let s := s.modJob w (fun x => { x with testing := x.testing.filter (· ≠ k) })
    if (s.job w).testing.isEmpty then s.releaseStep w else s) s

/-- The last recorded fence of a core (R469). -/
def State.lastFence (s : State) (k : Nat) : BitVec 4 :=
  ((s.boot.fences.reverse.find? (fun f => f.1 == k)).map (·.2)).getD 0

/-- A blotter run of a core held out at boot (R469): three passes bring it back as a free stand-in. -/
def State.readmitRun (s : State) (k : Nat) (pass : Bool) : State :=
  if !pass then s.modCoreK k (fun c => { c with role := 4, readmit := 0, fcause := s.lastFence k })
  else s.modCoreK k (fun c =>
    if c.readmit = 1 then { c with readmit := 0, role := 1, logical := 0x3FF } else { c with readmit := c.readmit - 1 })

/-- The end of a test: its core gives back nothing more, and work that waited goes on. -/
def State.testOver (s : State) (k : Nat) : State :=
  ((s.modCoreK k (fun c => { c with home := 0x3FF, readmit := 0, mx := { c.mx with slowRun := 0 } })).testEnds k).kickPrograms

/-- A core under test is fenced with a cause; the index it left is filled again (R333, R334). -/
def State.testFails (s : State) (k : Nat) (cause : BitVec 4) (kind : Nat) : State :=
  let h := (s.coreK k).home
  let vacant := h ≠ 0x3FF && (s.physical h.toNat).isNone
  ((s.fence k cause kind 0 0xFFFF 0).refill (if vacant then h else 0x3FF) k kind).testOver k

/-- A fault of the cue core: a free stand-in of its die takes its place when there is one. -/
def State.cueReplace (s : State) (k : Nat) : State :=
  let h := (s.coreK k).home
  match (dieKeys (k / 34)).find? s.isFreeStandIn with
  | some b =>
    (s.modCoreK b (fun c => { c.purge with role := 5, home := h })).modCue (k / 34) (fun q => { q with core := BitVec.ofNat 6 (b % 34) })
  | none => s.modCue (k / 34) (fun q => { q with armed := false })

/-- R182: the stagehand core's fault fences its core; its work moves as in the stand-in step. -/
def stagehandFault (c : CoreId) (s : State) : State :=
  let k := c.key
  let role := (s.core c).role
  if role = 4 then s
  else if role = 0 || role = 2 then s.standInStep k 5 0x07 0
  else if role = 3 then s.testFails k 5 0x07
  else (if role = 5 && s.isCueCore k then s.cueReplace k else s).fence k 5 0x07 0 0xFFFF 0
def execStagehandFault (c : CoreId) (s : State) : Out State := .next (stagehandFault c s)

/-- R331, R341, R469, R480: a blotter run ends. -/
def blotterResult (c : CoreId) (pass : Bool) (s : State) : State :=
  let k := c.key
  let v := s.core c
  if v.role != 3 then s
  else if 0 < v.readmit then s.readmitRun k pass
  else
    let vacant := v.home ≠ 0x3FF && (s.physical v.home.toNat).isNone
    if pass then
      (s.modCoreK k (fun c => { c with role := if vacant then 0 else 1, logical := if vacant then v.home else 0x3FF })).testOver k
    else s.testFails k 4 0x0A
def execBlotterResult (c : CoreId) (pass : Bool) (s : State) : Out State := .next (blotterResult c pass s)

/-! ## Ageing -/

/-- A die clock lowered by n steps of 25 MHz, down to its floor of 1.0 GHz (Table 17-11). -/
def Die.slow (v : Die) (n : Nat) : Die := { v with clk := if v.clk < 40 then v.clk else max 40 (v.clk - n) }

/-- R344: the die clock falls by 25 MHz, and one record says so. -/
def canaryTrip (d : Fin 16) (s : State) : State :=
  (s.modDie d.val (fun v => { v.slow 1 with tripped := true })).fault
    { kind := 0x0B, outcome := 6, loc := BitVec.ofNat 16 (d.val * 1024) }
def execCanaryTrip (d : Fin 16) (s : State) : Out State := .next (canaryTrip d s)

/-- FMAX after a re-plan (R345), never below 1.0 GHz (Table 19-1). -/
def replanFmax (fmax : Nat) (after : Int) : Nat :=
  if 20 ≤ after then fmax else max (min fmax 40) (fmax - ceilDiv (20 - after).toNat 5)

/-- R345, Table 19-1. -/
def marginReplan (d : Fin 16) (slack : Int) (vofs : BitVec 4) (after : Int) (s : State) : State :=
  if !s.ebtor then s
  else
    let v := s.die d.val
    let raise := decide (slack < 20)
    let final := if raise then after else slack
    let want := v.fmax.toNat - ceilDiv (20 - final).toNat 5
    let f := replanFmax v.fmax.toNat final
    let low := decide (f < v.fmax.toNat)
    let code : Byte := BitVec.ofInt 8 (max 0 (min 255 (slack / 2)))
    let fb : Byte := BitVec.ofNat 8 f
    let s := s.modDie d.val (fun v =>
      { v with slack := code, vofs := if raise && v.vofs < vofs then vofs else v.vofs, lost := v.lost || low,
               floorFence := v.floorFence || (decide (final < 20) && decide (want < 40)),
               fmax := if low && v.tripped then fb else v.fmax, clk := if low && v.tripped then min v.clk f else v.clk,
               fmaxNext := if low && !v.tripped then some fb else v.fmaxNext, tripped := false })
    (s.modBoot (fun b => { b with margins := b.margins ++ [(d.val, fb, code)], recSeq := b.recSeq + 1 })).fault
      { kind := 0x0B, outcome := 6, loc := BitVec.ofNat 16 (d.val * 1024), tidf := BitVec.ofNat 32 (f + 256 * code.toNat) }
def execMarginReplan (d : Fin 16) (slack : Int) (vofs : BitVec 4) (after : Int) (s : State) : Out State :=
  .next (marginReplan d slack vofs after s)

end Sys2Proof.Machine
end

