-- ==== Sys2Proof/Machine/Hubs.lean ====
section
/-!
DEFINITION. The memory hubs as requesters see them: reads and their errors (R296 to R303, R314), writes (R312), atomic merges (R71,
R144), scrub, refresh and post-package repair (R304, R305).
-/
namespace Sys2Proof.Machine

/-- The hub that homes the block, serving now. -/
def State.serves (s : State) (h : Fin 8) (blk : Nat) : Bool := s.mapped (blk * 4096) && hubOf blk = h.val && s.hubServes blk

/-- LOC and ADDR of a hub's fault record (Table 12-14). -/
def hubFault (blk kind outcome : Nat) (st : Half) : FaultRec :=
  { status := st, kind := kind, outcome := outcome, loc := BitVec.ofNat 16 (hubOf blk), addr := blk * 4096 }

/-- What one fetch of a sector comes to (R300, Table 11-7): the code corrects one symbol, detects two, and does not see more. -/
inductive Fetched where
  | ok | corrected | rereadOk | uncorrectable | wrong
deriving DecidableEq, Repr

/-- A fetch of a sector with n symbols in error, and its reread; what is left are the fetches that follow. -/
def fetchSector (n : Nat) (more : List Nat) : Fetched × List Nat :=
  match n with
  | 0 => (.ok, more)
  | 1 => (.corrected, more)
  | 2 =>
    let m := more.headD 0
    (if m ≤ 1 then .rereadOk else if m = 2 then .uncorrectable else .wrong, more.tail)
  | _ => (.wrong, more)

/-- Counters and records of one fetch (R301): an uncorrectable block enters the poison list while it has room (R302). `bad` is the
outcome and the status of an uncorrectable sector. -/
def State.eccRead (s : State) (blk : Nat) (f : Fetched) (bad : Nat × Half) : State :=
  let h := hubOf blk
  match f with
  | .ok | .wrong => s
  | .corrected | .rereadOk => (s.modHub h (fun v => { v with ce := satInc v.ce })).fault (hubFault blk 0x0E 0 0)
  | .uncorrectable => ((s.modHub h (fun v => { v with ue := satInc v.ue })).spoil blk).fault (hubFault blk 0x0F bad.1 bad.2)

/-- The class of a read (Table 11-5). -/
def readClass : ReadKind → Nat
  | .cueOperand | .flagRead | .mailboxBody | .ebtorRead => 0
  | .operand | .organFill | .collectiveChunk => 1
  | .load | .deviceCopy | .merge => 2
  | .checkpoint | .hostCopy | .scrub => 3

/-- The block stands in its hub's vault. -/
def State.cached (s : State) (blk : Nat) : Bool := (s.hub (hubOf blk)).vault.any (fun l => l.blk == blk)

/-- The vault's part in a read: hits and misses per 256 B; classes 0 to 2 allocate (R299, R307). -/
def State.vaultRead (s : State) (blk len cls : Nat) : State :=
  s.modHub (hubOf blk) (fun v =>
    let n := len / 256
    if v.vault.any (fun l => l.blk == blk) then { v.touch blk false with vltHit := satAdd v.vltHit n }
    else { (if cls < 3 then v.touch blk false else v) with vltMiss := satAdd v.vltMiss n })

/-- A failed read or write fails its requester: the core's part, the shot's part, the checkpoint (R301, R302, R308). The record of the
failure has been written. -/
def State.failParty (s : State) (w : Party) (st : Half) (a : Nat) : State :=
  match w with
  | .core c =>
    let s := if (slateKind st).isSome then s.modCore c (fun v => { v with slateErr := satInc v.slateErr }) else s
    s.endPart c.key st 5
  | .part r p => s.modTracked r (fun t => { t with lost := t.lost ++ [(p, st, a)] })
  | .stream => s.ckptEnd st (reported + a)
  | .ebtor => s

/-- A transfer to the requester whose whole block fails its CRC there: read once more from the hub, and a second failure fails the read
without poisoning the block (Table 12-5). -/
def State.transfer (s : State) (blk len : Nat) (w : Party) (xfer : Nat) : State :=
  if len ≠ 4096 || xfer = 0 then s
  else
    let f : FaultRec := { hubFault blk 2 0 0 with tidf := (s.slate blk).tidf }
    if xfer = 1 then s.fault f
    else (s.fault { f with outcome := 3, status := 0x0301 }).failParty w 0x0301 (blk * 4096)

/-- The hub delivers what it holds: a slate it fetched is tested in the order of R314, and a failure is the requester's. A mismatch on
the first fetch is fetched again (Table 12-5); `second` says what that finds. -/
def State.hubSlate (s : State) (blk len : Nat) (w : Party) (missed : Bool) (second : Option Fetched) (xfer : Nat) : State :=
  let sl := s.slate blk
  let a := blk * 4096
  let fails := fun (s : State) (st : Half) => (s.slateFault st a 0xFFFF 0).failParty w st a
  if sl.kind = kUnwritten then fails s 0x0304
  else match second with
  | some .uncorrectable => (s.eccRead blk .uncorrectable (3, 0x0310)).failParty w 0x0310 a
  | some .wrong => fails s 0x0301
  | _ =>
    let s := match second with
      | some f => (s.eccRead blk f (3, 0x0310)).fault { hubFault blk 1 0 0 with tidf := sl.tidf }
      | none => s
    if missed && !s.slateOk blk (s.block blk) then fails s 0x0301
    else if sl.stale then fails s 0x0302
    else s.transfer blk len w xfer

/-- R297, R301, R302, R314: a read of 256 B to 4 KiB of one block (R296). A listed block answers MEM_POISON without an HBM access, and a
block of another tenant is not read (R426). -/
def hubRead (h : Fin 8) (addr len : Nat) (kind : ReadKind) (by_ : Asker) (ecc : SectorErr) (xfer : Nat) (s : State) : State :=
  let blk := addr / 4096
  let a := blk * 4096
  let fits := addr % 256 = 0 && len % 256 = 0 && decide (256 ≤ len) && decide (addr % 4096 + len ≤ 4096)
  if !fits || !s.serves h blk then s
  else if s.ownerOf addr != by_.tenant then s.failParty by_.who 0x0501 a
  else if s.poisoned blk then s.failParty by_.who 0x0311 a
  else if s.unlisted blk then ((s.modHub h.val (fun v => { v with ue := satInc v.ue })).fault (hubFault blk 0x0F 3 0x0310)).failParty by_.who 0x0310 a
  else
    let missed := !s.cached blk
    let s := s.vaultRead blk len (readClass kind)
    let s := if ecc.onDie then s.modHub h.val (fun v => { v with odce := satInc v.odce }) else s
    let (f, more) := fetchSector ecc.first ecc.again
    let s := s.eccRead blk f (3, 0x0310)
    if f = .uncorrectable then s.failParty by_.who 0x0310 a
    else s.hubSlate blk len by_.who missed (if f = .wrong then some (fetchSector (more.headD 0) more.tail).1 else none) xfer
def execHubRead (h : Fin 8) (addr len : Nat) (kind : ReadKind) (by_ : Asker) (ecc : SectorErr) (xfer : Nat) (s : State) :
    Out State := .next (hubRead h addr len kind by_ ecc xfer s)

/-- A block as the hub takes it (R312): on a CRC that it cannot confirm it asks for the block once more. The bytes to place, none after a
second mismatch, and whether the first transfer failed. -/
def arrives (bytes : List Byte) (crc : SendCrc) : Option (List Byte) × Bool :=
  if bytes.length ≠ 4096 || crc64 bytes = crc.crc then (some bytes, false)
  else match crc.again with
    | some (b, c) => (if b.length = 4096 && crc64 b = c then some b else none, true)
    | none => (none, true)

/-- R311 to R313: a whole block whose CRC the hub cannot confirm twice is not placed; any other write takes its new slate. KIND 0x0 and
the reserved kinds are never written. -/
def hubWrite (h : Fin 8) (addr : Nat) (bytes : List Byte) (kind fmt : BitVec 4) (tidf : Word) (by_ : Asker) (crc : SendCrc)
    (s : State) : State :=
  let blk := addr / 4096
  if !s.serves h blk || bytes.isEmpty || 4096 < addr % 4096 + bytes.length || kind = kUnwritten || 8 ≤ kind.toNat then s
  else match arrives bytes crc with
  | (none, _) => (s.fault (hubFault blk 2 3 0x0301)).failParty by_.who 0x0301 (blk * 4096)
  | (some b, again) =>
    match s.writeBlock { tenant := by_.tenant, use := .other, range := stRange } [] kind fmt tidf blk [(addr % 4096, b)] with
    | .ok t => if again then t.fault (hubFault blk 2 0 0) else t
    | .error .wait => s
    | .error (.fail st a) => (s.slateFault st a 0xFFFF 0).failParty by_.who st (a % onWrite)
def execHubWrite (h : Fin 8) (addr : Nat) (bytes : List Byte) (kind fmt : BitVec 4) (tidf : Word) (by_ : Asker) (crc : SendCrc)
    (s : State) : Out State := .next (hubWrite h addr bytes kind fmt tidf by_ crc s)

/-- One atomic merge of a 32-byte record on behalf of the tenant that owns it. -/
def State.mergeRecord (s : State) (a : Nat) (g : List Byte → List Byte) : State :=
  if a % 32 ≠ 0 then s
  else match s.rmw { tenant := s.ownerOf a, use := .other, range := stRange } a 32 g with
    | .ok t => t
    | .error .wait => s
    | .error (.fail st x) => s.slateFault st x 0xFFFF 0

/-- R71. -/
def sillageMerge (addr : BitVec 40) (rec : List Byte) (s : State) : State :=
  s.mergeRecord addr.toNat (mergeSillage (bytesAt rec 0 32))
def execSillageMerge (addr : BitVec 40) (rec : List Byte) (s : State) : Out State := .next (sillageMerge addr rec s)

/-- R144. -/
def routingRecordMerge (addr : BitVec 40) (rec : List Byte) (s : State) : State :=
  s.mergeRecord addr.toNat (mergeRouting (bytesAt rec 0 32))
def execRoutingRecordMerge (addr : BitVec 40) (rec : List Byte) (s : State) : Out State := .next (routingRecordMerge addr rec s)

/-- R303: SCRUBH = 0 disables scrub; `last` ends a pass. An error beyond the code's reach is left to the slate (R300): a block that
fails its CRC twice is poisoned (Table 12-5). -/
def patrolScrub (h : Fin 8) (blk : Nat) (ecc : SectorErr) (last : Bool) (s : State) : State :=
  if !s.serves h blk || (s.hub h.val).scrubH = 0 then s
  else
    let s := if s.poisoned blk || s.unlisted blk then s
      else
        let s := if ecc.onDie then s.modHub h.val (fun v => { v with odce := satInc v.odce }) else s
        let (f, more) := fetchSector ecc.first ecc.again
        let s := s.eccRead blk f (6, 0)
        if f = .wrong && (s.slate blk).kind ≠ kUnwritten then
          match (fetchSector (more.headD 0) more.tail).1 with
          | .wrong => (s.poison blk).fault { hubFault blk 1 6 0x0301 with tidf := (s.slate blk).tidf }
          | g => (s.eccRead blk g (6, 0)).fault { hubFault blk 1 0 0 with tidf := (s.slate blk).tidf }
        else s
    if last then s.modHub h.val (fun v => { v with scrubPass := satInc v.scrubPass }) else s
def execPatrolScrub (h : Fin 8) (blk : Nat) (ecc : SectorErr) (last : Bool) (s : State) : Out State :=
  .next (patrolScrub h blk ecc last s)

/-- R304. -/
def refresh (h : Fin 8) (postponed hot : Bool) (s : State) : State :=
  s.modHub h.val (fun v => { v with hot := hot, refPost := if postponed then satInc v.refPost else v.refPost })
def execRefresh (h : Fin 8) (postponed hot : Bool) (s : State) : Out State := .next (refresh h postponed hot s)

/-! ## Repair (R305) -/

/-- A reel is enabled. -/
def State.anyReel (s : State) : Bool := s.reels.any (fun r => r.2.en)

/-- OP of HUB_RPR_CMD: ignored while BUSY; HPPR with a reel enabled ends at once with BUSY. -/
def State.repairOp (s : State) (h op : Nat) : State :=
  if (s.hub h).rprBusy || op = 0 then s
  else if op = 2 && s.anyReel then s.modHub h (fun v => { v with rprResult := 3 })
  else s.modHub h (fun v => { v with rprBusy := true, rprOp := BitVec.ofNat 4 op })

/-- A write of HUB_RPR_CMD (Tables 11-8, 11-9). -/
def State.writeRpr (s : State) (h : Nat) (v : Nat) : State :=
  if (s.hub h).rprBusy then s.rsvIf (decide (fld v 12 16 ≠ 0) || decide (fld v 1 7 ≠ 0))
  else if 4 < v / 2 ^ 28 then s.rsv
  else (s.rsvIf (decide (fld v 12 16 ≠ 0) || decide (fld v 1 7 ≠ 0))).repairOp h (v / 2 ^ 28)

def sppr (h : Fin 8) (s : State) : State := s.repairOp h.val 1
def execSppr (h : Fin 8) (s : State) : Out State := .next (sppr h s)
def hppr (h : Fin 8) (s : State) : State := s.repairOp h.val 2
def execHppr (h : Fin 8) (s : State) : Out State := .next (hppr h s)
def spprUndo (h : Fin 8) (s : State) : State := s.repairOp h.val 3
def execSpprUndo (h : Fin 8) (s : State) : Out State := .next (spprUndo h s)
def map (h : Fin 8) (s : State) : State := s.repairOp h.val 4
def execMap (h : Fin 8) (s : State) : Out State := .next (map h s)

/-- Flash's soft-repair list is written anew (R473). -/
def State.setRepairs (s : State) (l : List (Nat × Dword)) : State :=
  s.modBoot (fun b => { b with repairs := l, recSeq := b.recSeq + 1 })

/-- What a repair does and its RESULT (Table 11-10). None: the write of the map waits. -/
def State.repairEffect (s : State) (h : Nat) (geometryOk spare ok : Bool) (map : List Byte) : Option (State × BitVec 4) :=
  let v := s.hub h
  let key : Nat × Dword := (h, v.rprAddr.setWidth 64)
  match v.rprOp.toNat with
  | 1 | 2 =>
    if !geometryOk then some (s, 1) else if !spare then some (s, 2) else if !ok then some (s, 4)
    else if v.rprOp = 1 then
      some ((s.modHub h (fun v => { v with soft := v.soft ++ [v.rprAddr] })).setRepairs (s.boot.repairs ++ [key]), 0)
    else some (s.modHub h (fun v => { v with hard := v.hard ++ [v.rprAddr] }), 0)
  | 3 =>
    if !geometryOk || !v.soft.contains v.rprAddr then some (s, 1) else if !ok then some (s, 4)
    else some ((s.modHub h (fun v => { v with soft := v.soft.erase v.rprAddr })).setRepairs (s.boot.repairs.erase key), 0)
  | _ =>
    match s.write ebtorReq kRaw 0 0 (v.rprBuf.toNat / 16384 * 16384) (bytesAt map 0 16384) with
    | .ok t => some (t, if ok then 0 else 4)
    | .error .wait => none
    | .error (.fail _ _) => some (s, 4)

/-- R305: the command ends. -/
def repairDone (h : Fin 8) (geometryOk spare ok : Bool) (map : List Byte) (s : State) : State :=
  if !(s.hub h.val).rprBusy then s
  else
    match s.repairEffect h.val geometryOk spare ok map with
    | none => s
    | some r => r.1.modHub h.val (fun v => { v with rprBusy := false, rprOp := 0, rprResult := r.2 })
def execRepairDone (h : Fin 8) (geometryOk spare ok : Bool) (map : List Byte) (s : State) : Out State :=
  .next (repairDone h geometryOk spare ok map s)

end Sys2Proof.Machine
end

