-- ==== Sys2Proof/Machine/Power.lean ====
section
/-!
DEFINITION. The power governor and the plant interface (R448 to R465), thermal trips and rail faults (R461, R462), CATTRIP# (R498).
-/
namespace Sys2Proof.Machine

def stThermal : Half := 0x0602
def stPowerFault : Half := 0x0604

/-! ## Grants -/

/-- Batches that come first of the waiting ones on their die (R451). -/
def State.waitingBatches (s : State) : List Batch :=
  let ws := s.pwr.batches.filter (fun b => !b.admitted && !b.small)
  ws.filter (fun b => ws.find? (fun x => x.die == b.die) == some b)

/-- The grant fits the budget and the ramp rule (R451, R455). -/
def State.grantFits (s : State) (b : Batch) : Bool :=
  let total := s.granted + b.watts
  decide (total ≤ s.pwr.budget) && decide (total ≤ s.pwr.rampFrom + 10 * s.pwr.dstep.toNat)

/-- Issue a dynamic grant, what the batch draws at FMAX (R449, R450); under a plan it is a miss and an excursion (R453). -/
def State.issueGrant (s : State) (b : Batch) : State :=
  let s := s.runDie b.die (s.die b.die).fmax.toNat
  let s := s.modPwr (fun p =>
    { p with batches := p.batches.map (fun x => if x = b then { x with admitted := true } else x),
             grants := p.grants ++ [{ die := b.die, watts := b.watts, ref := b.ref, planned := false }] })
  let s := if s.pwr.plan.isSome then
      (s.modPwr (fun p => { p with planMiss := satInc p.planMiss })).excursion 1 b.die 0
    else s
  s.kickPrograms

/-- R451. -/
def grantIssue (s : State) : State :=
  if !s.ebtor || !s.clocks || s.pwr.thermTrip then s
  else match s.waitingBatches.find? s.grantFits with
    | some b => s.issueGrant b
    | none => s
def execGrantIssue (s : State) : Out State := .next (grantIssue s)

/-- R450: the batch's grant ends; an overrun is counted. -/
def batchComplete (d : Fin 16) (r : ShotRef) (overran : Bool) (s : State) : State :=
  if s.pwr.batches.any (fun b => b.die == d.val && b.ref == r && b.admitted) then
    ((s.modPwr (fun p =>
      { p with batches := p.batches.filter (fun b => !(b.die == d.val && b.ref == r)),
               grants := p.grants.filter (fun g => !(g.die == d.val && g.ref == r)),
               overruns := p.overruns + b2n overran })).admitSmall).kickPrograms
  else s
def execBatchComplete (d : Fin 16) (r : ShotRef) (overran : Bool) (s : State) : Out State := .next (batchComplete d r overran s)

/-! ## Ramp, throttle, forecast -/

/-- An excursion's condition has ended: EXCUR follows the list. -/
def State.endExcursion (s : State) (row die : Nat) : State :=
  s.modPwr (fun p => { p with excur := p.excur.filter (· ≠ (row, die)) })

/-- An excursion that begins, unless it is in force already. -/
def State.beginExcursion (s : State) (row die : Nat) (st : Half) : State :=
  if s.pwr.excur.contains (row, die) then s else s.excursion row die st

/-- R455, R456: `watts` is the draw without ballast over the last 10 µs, `elapsedUs` the time since the sample before. -/
def powerSample (watts elapsedUs : Nat) (s : State) : State :=
  let p := s.pwr
  let fall := p.rampTo - p.rampDn.toNat * elapsedUs / 1000
  let floor := max (fall - 10 * p.dstep.toNat) p.hold
  let ballast := if p.throttle || !s.clocks then 0 else min 1200 (floor - watts)
  let short := !p.throttle && decide (watts + ballast < fall - 10 * p.dstep.toNat)
  let draw := watts + ballast
  let s := s.modPwr (fun p =>
    { p with power := BitVec.ofNat 12 (min draw 4095), ballast := ballast, rampShort := short,
             rampFrom := min (p.rampFrom + p.rampUp.toNat * elapsedUs / 1000) draw,
             rampTo := max (if p.throttle then 0 else fall) draw })
  if short then s.beginExcursion 3 16 0 else s.endExcursion 3 16
def execPowerSample (watts elapsedUs : Nat) (s : State) : Out State := .next (powerSample watts elapsedUs s)

/-- A forecast record (R457). -/
def forecastRecord (present watts lead : Nat) (seq : Byte) : List Byte :=
  let b := leBytes 2 present ++ leBytes 2 watts ++ leBytes 2 lead ++ [seq]
  b ++ [crc8 b]

/-- R457: sent again once when it is not acknowledged. The shelf's address on the bus is assigned outside (free, assumption 20). -/
def forecast (watts lead : Nat) (acked : Bool) (s : State) : State :=
  if !s.ebtor then s
  else
    let msg : OutMsg := .i3cPlant ((Config.instrument 1).setWidth 8) (forecastRecord s.pwr.power.toNat watts lead s.pwr.fcSeq)
    let s := (s.modPwr (fun p => { p with forecast := watts, fcSeq := p.fcSeq + 1 })).emit msg
    if acked then s else s.emit msg
def execForecast (watts lead : Nat) (acked : Bool) (s : State) : Out State := .next (forecast watts lead acked s)

/-- R458: ballast stops and the die governors lower their clocks until the grants fit THR; how far is a free value. -/
def throttleAssert (s : State) : State :=
  if s.pwr.throttle then s
  else
    let s := (s.modPwr (fun p => { p with throttle := true, ballast := 0 })).excursion 4 16 0
    if s.granted ≤ s.pwr.thr.toNat then s
    else
      let u := (List.range 16).foldl (fun u d =>
        u.modDie d (fun v => v.slow ((Config.free (s.fresh + d)).toNat % 41))) s
      { u with fresh := u.fresh + 16 }
def execThrottleAssert (s : State) : Out State := .next (throttleAssert s)

/-- R458: CAP applies again, under the rising limit. -/
def throttleRelease (s : State) : State :=
  if s.pwr.throttle then (s.modPwr (fun p => { p with throttle := false })).endExcursion 4 16 else s
def execThrottleRelease (s : State) : Out State := .next (throttleRelease s)

/-! ## Coolant -/

/-- A signed reading of 1/128 °C in whole °C, truncated toward zero (R496). The register shows no sign, so one below 0 °C reads as a
free value (assumption 6). -/
def tempByte (free : Byte) (x : Half) : Byte :=
  let t := x.toInt.tdiv 128
  if t < 0 then free else BitVec.ofInt 8 t

/-- R459, R496: the readings of the three sensors, none when a target is silent. `duty` is what Ebtor's two terms give, in %; with
VALVE_AUTO = 0, and after a plant fault or a trip, it is 100. -/
def plantSensorRead (tin tout flow : Option Half) (duty : Nat) (s : State) : State :=
  let free : Byte := s.freeVal.setWidth 8
  let s := (s.modPwr (fun p =>
    { p with tin := (tin.map (tempByte free)).getD p.tin, tout := (tout.map (tempByte free)).getD p.tout,
             flow := (flow.map (fun f => BitVec.ofNat 8 (min (f.toNat / 10) 255))).getD p.flow,
             snsOk := p.snsOk || (tin.isSome && tout.isSome && flow.isSome) })).tick
  if !s.ebtor then s
  else s.modPwr (fun p =>
    let full := !p.valveAuto || p.plantFault || p.thermTrip
    { p with valve := BitVec.ofNat 7 (if full then 100 else min duty 100), valveHigh := false })
def execPlantSensorRead (tin tout flow : Option Half) (duty : Nat) (s : State) : Out State :=
  .next (plantSensorRead tin tout flow duty s)

/-! ## Excursions of a die and of the plant -/

/-- Row 2 of Table 16-2: one step of 25 MHz each time, until the draw fits. -/
def dieOverdraw (d : Fin 16) (s : State) : State := (s.modDie d.val (·.slow 1)).beginExcursion 2 d.val 0
def execDieOverdraw (d : Fin 16) (s : State) : Out State := .next (dieOverdraw d s)

/-- Row 5 of Table 16-2: 100 MHz every 1 ms. -/
def dieHot (d : Fin 16) (s : State) : State := (s.modDie d.val (·.slow 4)).beginExcursion 5 d.val 0
def execDieHot (d : Fin 16) (s : State) : Out State := .next (dieHot d s)

/-- Every part on the cores of a die stops and fails with a status (R462); a cue product there is answered late (R465). -/
def State.stopDie (s : State) (d : Nat) (st : Half) : State :=
  let s := s.modDie d (fun v => { v with stopped := true })
  let s := s.modCue d (fun q => match q.busy with
    | some b => { q with busy := none, next := [], waiting := some b.1 }
    | none => q)
  ((dieKeys d).filter (fun k => (s.coreK k).part.isSome)).foldl (fun s k => s.endPart k st 0) s

/-- Reels with a dispatched shot (R461). -/
def State.busyReels (s : State) : List Nat := (s.tracked.map (fun t => t.reel.val)).eraseDups

/-- Row 6 of Table 16-2: every core stops, grants end, the valve opens, the reels with a dispatched shot are held and open
collectives abort (R465). -/
def thermalTrip (s : State) : State :=
  if s.pwr.thermTrip then s
  else
    let rs := s.busyReels
    let s := (s.modPwr (fun p =>
      { p with thermTrip := true, tripReleased := false, grants := [], valve := 100,
               batches := p.batches.map (fun b => if b.small then b else { b with admitted := false }) })).excursion 6 16 stThermal
    let s := (List.range 16).foldl (fun s d => s.stopDie d stThermal) s
    let s := (s.links.open_.map (·.1)).foldl (fun s i =>
      match s.openAt i with
      | some k => s.abortColl i k stThermal 0
      | none => s) s
    rs.foldl (fun s n => if (s.reel n).held then s else s.holdHead n stThermal) s
def execThermalTrip (s : State) : Out State := .next (thermalTrip s)

/-- Row 7 of Table 16-2: 0 flow, 1 a silent sensor, 2 a model difference (R460). -/
def plantFault (row : Fin 3) (s : State) : State :=
  (s.modPwr (fun p => { p with plantFault := true, valve := 100, snsOk := p.snsOk && row ≠ 1 })).beginExcursion 7 16 0
def execPlantFault (row : Fin 3) (s : State) : Out State := .next (plantFault row s)

/-- Row 8 of Table 16-2: the affected dies stop and the reels of their shots are held. -/
def powerFault (dies : Half) (s : State) : State :=
  let ds := (List.range 16).filter (fun d => dies.getLsbD d && !(s.die d).stopped)
  let hit := s.tracked.filter (fun t => t.running.any (fun x => ds.contains (x.1 / 34)))
  let rs := (hit.map (fun t => t.reel.val)).eraseDups
  let s := ds.foldl (fun s d => (s.beginExcursion 8 d stPowerFault).stopDie d stPowerFault) s
  rs.foldl (fun s n => if (s.reel n).held then s else s.holdHead n stPowerFault) s
def execPowerFault (dies : Half) (s : State) : Out State := .next (powerFault dies s)

/-- The trip ends: the dies that no rail fault has stopped work again (Table 16-2). -/
def State.endTrip (s : State) : State :=
  let s := s.modPwr (fun p => { p with thermTrip := false, tripReleased := false })
  let s := (List.range 16).foldl (fun s d => s.modDie d (fun v => { v with stopped := s.pwr.excur.contains (8, d) })) s
  ((List.range 16).foldl State.cueRetry s).kickPrograms

/-- Rows of Table 16-2 counted from 0 here. Rows 1 and 4 clear at the step boundary and at the release of THROTTLE#, a rail fault
only by cold reset, a trip once RELEASE has been written. -/
def excursionClear (row : Fin 8) (die : Nat) (s : State) : State :=
  match row.val with
  | 1 | 2 | 4 => s.endExcursion (row.val + 1) die
  | 5 => if s.pwr.thermTrip && s.pwr.tripReleased then (s.endExcursion 6 16).endTrip else s
  | 6 => (s.modPwr (fun p => { p with plantFault := false })).endExcursion 7 16
  | _ => s
def execExcursionClear (row : Fin 8) (die : Nat) (s : State) : Out State := .next (excursionClear row die s)

/-- R498: every core, hub and link clock stops, until VAUX is removed. -/
def catTrip (s : State) : State := s.modPwr (fun p => { p with catTrip := true })
def execCatTrip (s : State) : Out State := .next (catTrip s)

/-- R497: the valve pin is high from now until Ebtor first sets a duty cycle. -/
def vauxInRange (s : State) : State := s.modPwr (fun p => { p with valveHigh := true })
def execVauxInRange (s : State) : Out State := .next (vauxInRange s)

/-! ## Reads by Ebtor that may wait: the Ethernet configuration area and a written plan -/

/-- A record of the Ethernet configuration area; one that cannot be read counts as all zeros (assumption 58). -/
def State.edgRecord (s : State) (a n : Nat) : List Byte :=
  match s.read ebtorReq .any a n with | .ok b => b | .error _ => zeros n

/-- Blocks of the area that cannot be read yet. -/
def State.edgWaits (s : State) (a : Nat) : Bool :=
  a ≠ 0 && (List.range 513).any (fun i => match s.readBlock ebtorReq .any (a / 4096 + i) with | .error .wait => true | _ => false)

/-- R374: Ebtor reads the area of Table 13-15; base 0 leaves Ethernet unconfigured. -/
def State.readEdg (s : State) (a : Nat) : State :=
  s.modLinks (fun l =>
    { l with
      eth := (List.range 4).foldl (fun t q =>
        tset t q { tget (fun _ => ({} : EthPort)) t q with config := if a = 0 then [] else s.edgRecord (a + 64 * q) 64 }) l.eth,
      targets := if a = 0 then [] else (List.range 16).map (fun t => (t, s.edgRecord (a + 0x400 + 64 * t) 64)),
      peers := if a = 0 then [] else (List.range 65536).filterMap (fun d =>
        let b := s.edgRecord (a + 0x1000 + 32 * d) 32
        if bit (leAt b 23 1) 0 then some (d, leAt b 22 1 % 16) else none) })

/-- The area is read when it can be. -/
def State.edgDue (s : State) : State :=
  let a := s.links.edgBase.toNat / 4096 * 4096
  if s.links.edgAsk && s.ebtor && !s.edgWaits a then (s.readEdg a).modLinks (fun l => { l with edgAsk := false }) else s

/-- The entries of a plan (Table 16-1). -/
def planEntries (b : List Byte) (n : Nat) : List (Nat × Word × Half × Nat × Nat) :=
  (List.range n).map (fun i =>
    (leAt b (16 + 16 * i) 2, BitVec.ofNat 32 (leAt b (18 + 16 * i) 4), BitVec.ofNat 16 (leAt b (22 + 16 * i) 2),
     leAt b (24 + 16 * i) 2, leAt b (26 + 16 * i) 4))

/-- Entries in ascending (REEL, SEQOFS) order. -/
def planSorted : List (Nat × Word × Half × Nat × Nat) → Bool
  | a :: b :: rest => (decide (a.1 < b.1) || (a.1 == b.1 && decide (a.2.1.toNat < b.2.1.toNat))) && planSorted (b :: rest)
  | _ => true

/-- The checks of R454 on a plan as read. -/
def State.planOk (s : State) (b : List Byte) (n : Nat) : Bool :=
  let es := planEntries b n
  !rz b 10 6 && !(List.range n).any (fun i => rz b (30 + 16 * i) 2) && planSorted es &&
  es.all (fun e => decide (e.2.2.2.1 * 16 ≤ s.pwr.cap.toNat)) && decide ((s.job (BitVec.ofNat 32 (leAt b 0 4))).table ≠ 0)

/-- Read and check the plan at an address. -/
def State.readPlan (s : State) (a : Nat) : Except Stop Plan := do
  let h ← s.read ebtorReq .any a 16
  let n := leAt h 4 4
  if outside n 1 65536 then throw (.fail 0x0601 a)
  else
    let b ← s.read ebtorReq .any a (16 + 16 * n)
    if s.planOk b n then return { job := BitVec.ofNat 32 (leAt h 0 4), hold := leAt h 8 2, entries := planEntries b n }
    else throw (.fail 0x0601 a)

/-- A plan is rejected (R454): PLAN_REJ, one fault record, and the job's next step-end report. -/
def State.rejectPlan (s : State) (a : Nat) : State :=
  let s := (s.modPwr (fun p => { p with planRej := true })).fault { status := 0x0601, kind := 0x0D, outcome := 6 }
  match s.read ebtorReq .any a 4 with
  | .ok b =>
    let j : Word := BitVec.ofNat 32 (leNat b)
    if (s.job j).table ≠ 0 then s.modJob j (fun x => { x with planRej := true }) else s
  | .error _ => s

/-- A plan that has been written is checked when it can be read (R454). -/
def State.planDue (s : State) : State :=
  match s.pwr.planAsk with
  | none => s
  | some x =>
    let a := x.toNat
    if !s.ebtor then s
    else if a = 0 then s.modPwr (fun p => { p with planAddr := 0, planAsk := none, planNext := some none, planRej := false })
    else match s.readPlan (a / 4096 * 4096) with
      | .error .wait => s
      | .error (.fail _ _) => (s.modPwr (fun p => { p with planAsk := none })).rejectPlan (a / 4096 * 4096)
      | .ok pl => s.modPwr (fun p => { p with planAddr := x, planAsk := none, planNext := some (some pl), planRej := false })

/-- What has waited for a hub or for a control die goes on: fault records, the Ethernet area, a plan. -/
def State.memoryBack (s : State) : State := s.logWaiting.edgDue.planDue

end Sys2Proof.Machine
end

