-- ==== Sys2Proof/Machine/Security.lean ====
section
/-!
DEFINITION. SPDM (R436 to R438), secured and mailbox commands (R439 to R441), tenants, regions and weight keys (R423 to R434), IDE
keys (R430, R489), MCTP (R492). The bytes of an SPDM message are those of the published standard (assumption 43).
-/
namespace Sys2Proof.Machine

def stSecDeny : Half := 0x0501
def stKeyRevoked : Half := 0x0503
def stSecBusy : Half := 0x0504
def stBindRefused : Half := 0x0505
def stSlotsFull : Half := 0x0506
def stRegionConflict : Half := 0x0507
def stNotOwner : Half := 0x0508
def stEntropyNotReady : Half := 0x0510

/-- The bank that is not running. -/
def Boot.other (b : Boot) : Option ImageHeader := if b.bank then b.bankA else b.bankB

/-! ## Weight keys -/

/-- The KEY_REVOKED event (Table 15-6). -/
def keyRevokedWord (slot cause : Nat) : Dword := eventWord 1 (slot * 2 ^ 40 + cause * 2 ^ 32)

/-- Erase a weight key from every hub and say why (R433, Table 15-6). -/
def State.revoke (s : State) (cause slot : Nat) : State :=
  if (s.wkey slot).isSome then
    (s.modSec (fun x => { x with wkeys := x.wkeys.filter (fun k => k.1 ≠ slot) })).post 31 (keyRevokedWord slot cause)
  else s

/-- Install a weight key in every hub; no die has touched it yet (R433, R443). -/
def State.install (s : State) (slot : Nat) (k : WKey) : State :=
  let s := s.modSec (fun x => { x with wkeys := x.wkeys.filter (fun e => e.1 ≠ slot) ++ [(slot, k)] })
  { s with dies := s.dies.map (fun d => (d.1, { d.2 with touched := d.2.touched.filter (· ≠ slot) })) }

/-- Sealed slots of a session. -/
def State.sessionSlots (s : State) (id : Nat) : List Nat :=
  (s.sec.wkeys.filter (fun k => !k.2.bound && k.2.session == id)).map (·.1)

/-- A session ends and its sealed keys are erased (R433). -/
def State.dropSession (s : State) (id cause : Nat) : State :=
  let s := s.modSec (fun x => { x with sessions := x.sessions.filter (fun e => e.id ≠ id) })
  (s.sessionSlots id).foldl (State.revoke · cause) s

/-- The key in a binding bundle that was read from address a (R442): the device's own entry under a good tag, or BIND_REFUSED. -/
def openBundle (svn : Nat) (bs : List Byte) (a len : Nat) : Except Stop (BitVec 512) :=
  let n := leAt bs 2 2
  let hdr := bytesAt bs 0 32
  let resv := (List.range n).any (fun i => rz bs (145 + 224 * i) 3 || rz bs (240 + 224 * i) 16)
  let hit := (List.range n).find? (fun i => bytesAt bs (32 + 224 * i) 16 == bytesAt Config.devfp 0 16)
  if leAt bs 0 2 ≠ 1 || n = 0 || decide (1024 < n) || len ≠ 32 + 224 * n || rz bs 5 27 || resv ||
     decide (svn < leAt bs 4 1) then throw (.fail stBindRefused a)
  else
    match hit with
    | none => throw (.fail stBindRefused a)
    | some i =>
      let f := fun o k => bytesAt bs (o + 224 * i) k
      if f 224 16 == bytesAt (Config.bundleTag hdr (f 32 16) (f 48 97) (f 148 12) (f 160 64)) 0 16
      then return Config.bundleKey hdr (f 32 16) (f 48 97) (f 148 12) (f 160 64)
      else throw (.fail stBindRefused a)

/-- Read and open a bound-key bundle (R434, Table 15-1): its key, or the status of the refusal. -/
def State.openBundleAt (s : State) (a len : Nat) : Except Stop (BitVec 512) := do
  let bs ← s.bodyRead a len
  openBundle s.sec.svn.toNat bs a len

/-- Load a slot's bundle again (R442, R443): a refused one revokes the slot. -/
def State.reloadBundle (s : State) (slot : Nat) : State :=
  match s.wkey slot with
  | none => s
  | some k =>
    if !k.bound then s
    else match s.openBundleAt k.bundle.toNat k.bundleLen with
      | .ok key => s.install slot { k with key := key }
      | .error .wait => s
      | .error (.fail _ _) => s.revoke 6 slot

/-! ## Tenants -/

/-- R429: a tenant ends. Its reels are flushed, its regions released once its dispatched shots complete, its slots revoked. -/
def State.closeTenant (s : State) (t : BitVec 6) : State :=
  let reels := (s.reels.filter (fun r => r.2.tenant == t && r.2.en)).map (·.1)
  let s := reels.foldl (fun s n => ((s.modReel n (fun r => { r with en := false })).flushReel n).endWaits n) s
  let mine := s.sec.regions.filter (fun r => r.2.owner == t)
  let s := ((mine.filter (fun r => r.2.kind ≠ 0)).map (·.2.slot)).foldl (State.revoke · 4) s
  let s := s.modSec (fun x => { x with releasing := (x.releasing ++ mine.map (·.1)).eraseDups })
  (s.modTenant t.toNat (fun _ => {})).releasePending

/-- Bits that a security function takes from the pool of the active source (R225); none: it waits for the pool to refill, behind the
requests that wait already. -/
def State.drawn (s : State) (bits : Nat) : Option State :=
  let c := s.cd s.activeCd
  if c.entState = 1 && c.waiting.isEmpty && decide (bits ≤ c.pool.toNat) then
    some (s.modCd s.activeCd (fun c => { c with pool := BitVec.ofNat 10 (c.pool.toNat - bits) }))
  else none

/-- Go on with bits from the pool, or wait for them (assumption 4: how many an operation takes). -/
def State.withEntropy (s : State) (bits : Nat) (g : State → State) : State := ((s.drawn bits).map g).getD s

/-- Tenant 0's key is generated from the entropy source (R423). -/
def State.newTenant0 (s : State) : State := (s.modTenant 0 (fun t => { t with opened := true, key := Config.freeKey s.fresh })).tick

/-! ## SPDM -/

/-- Bytes the entropy source gives a response (assumption 4). -/
def State.randomBytes (s : State) (n : Nat) : List Byte :=
  ((List.range (ceilDiv n 8)).flatMap (fun i => leBytes 8 (Config.free (s.fresh + i)).toNat)).take n

/-- Move past the values a response drew. -/
def State.skip (s : State) (n : Nat) : State := { s with fresh := s.fresh + n }

/-- The active source is READY (R445). -/
def State.entropyOk (s : State) : Bool := (s.cd s.activeCd).entState == 1

/-- Answer an SPDM request (R437, R442): Busy (3) while the window is open. -/
def State.answer (s : State) (ch : Nat) (g : State → State) : State :=
  if !s.ebtor then s else if s.boot.fwuActivating then s.emit (.spdmError ch 3) else g s

/-- A response with its code. -/
def State.reply (s : State) (ch code : Nat) (body : List Byte) : State := s.emit (.spdm ch (0x13 :: BitVec.ofNat 8 code :: body))

/-- Evidence of a returned part: none (Table 15-8); without entropy a signed response is Busy (R445). -/
def State.evidence (s : State) (ch : Nat) (g : State → State) : State :=
  s.answer ch (fun s =>
    if s.sec.lifecycle = 2 then s.emit (.spdmError ch 7) else if !s.entropyOk then s.emit (.spdmError ch 3) else g s)

/-- R437. -/
def getVersion (ch : Fin 3) (s : State) : State := s.answer ch.val (fun s => s.emit (.spdm ch.val [0x10, 0x04, 0, 0, 0, 1, 0x00, 0x13]))
def execGetVersion (ch : Fin 3) (s : State) : Out State := .next (getVersion ch s)

/-- R437: certificates, challenge, measurements with signature, encryption, MAC, mutual authentication, key exchange, heartbeat and key
update are supported. -/
def getCapabilities (ch : Fin 3) (s : State) : State :=
  s.answer ch.val (fun s => s.reply ch.val 0x61 (zeros 6 ++ leBytes 4 0x63F6))
def execGetCapabilities (ch : Fin 3) (s : State) : Out State := .next (getCapabilities ch s)

/-- R437: DMTF measurements, ECDSA P-384, SHA-384, secp384r1, AES-256-GCM. -/
def negotiateAlgorithms (ch : Fin 3) (s : State) : State :=
  s.answer ch.val (fun s => s.reply ch.val 0x63 ([0, 0, 1] ++ leBytes 4 0x80 ++ leBytes 4 0x2 ++ leBytes 2 0x10 ++ leBytes 2 0x2))
def execNegotiateAlgorithms (ch : Fin 3) (s : State) : Out State := .next (negotiateAlgorithms ch s)

/-- A digest as 48 bytes, most significant first. -/
def digestBytes (d : BitVec 384) : List Byte := (leBytes 48 d.toNat).reverse

/-- R437: the digest of slot 0's chain; slots 1 to 7 hold none. -/
def getDigests (ch : Fin 3) (s : State) : State :=
  s.answer ch.val (fun s => s.reply ch.val 0x01 (0 :: 1 :: digestBytes (Config.sha384 Config.certChain)))
def execGetDigests (ch : Fin 3) (s : State) : Out State := .next (getDigests ch s)

/-- R436: slot 0's chain; slots 1 to 7 are not provisioned. -/
def getCertificate (ch : Fin 3) (slot : Fin 8) (off len : Nat) (s : State) : State :=
  s.answer ch.val (fun s =>
    if slot.val ≠ 0 || decide (Config.certChain.length ≤ off) then s.emit (.spdmError ch.val 1)
    else
      let p := (Config.certChain.drop off).take len
      s.reply ch.val 0x02 (leBytes 2 p.length ++ leBytes 2 (Config.certChain.length - off - p.length) ++ p))
def execGetCertificate (ch : Fin 3) (slot : Fin 8) (off len : Nat) (s : State) : Out State := .next (getCertificate ch slot off len s)

/-- Block 6: the digested security configuration (Table 15-3). -/
def State.secConfig (s : State) : BitVec 384 :=
  Config.sha384 [s.sec.lifecycle.setWidth 8, Config.fuseDebugLock, s.boot.minSvn, s.boot.stepping]

/-- The measurement blocks of Table 15-3 that are present: index and content. -/
def State.measurements (s : State) : List (Nat × List Byte) :=
  let d := fun i => digestBytes (s.sec.digests.getD i 0)
  [(1, digestBytes s.sec.romDigest), (2, d 0), (3, d 1), (4, d 2), (5, d 3), (6, digestBytes s.secConfig),
   (7, (List.range 24).flatMap (fun i => leBytes 4 (tget (fun _ => (0 : Word)) s.sec.epochs i).toNat))] ++
  (if s.boot.fwuPending then [(8, digestBytes ((s.boot.other.map (·.digests.getD 1 0)).getD 0))] else []) ++
  [(9, leBytes 8 s.glb.contKey.toNat)]

/-- A measurement block as the response carries it. -/
def measBytes (m : Nat × List Byte) : List Byte := [BitVec.ofNat 8 m.1, 1] ++ leBytes 2 m.2.length ++ m.2

/-- A response signed with the Alias key over the request's nonce and the response (Table 15-2). -/
def State.signed (s : State) (ch code : Nat) (nonce body : List Byte) : State :=
  let b := body ++ s.randomBytes 32
  (s.skip 4).reply ch code (b ++ Config.aliasSign (nonce ++ b))

/-- R437. -/
def challenge (ch : Fin 3) (nonce : List Byte) (s : State) : State :=
  s.evidence ch.val (fun s =>
    s.withEntropy 256 (fun s => s.signed ch.val 0x03 nonce (digestBytes (Config.sha384 Config.certChain))))
def execChallenge (ch : Fin 3) (nonce : List Byte) (s : State) : Out State := .next (challenge ch nonce s)

/-- R438: index 0 asks for the number of blocks, 0xFF for all of them. -/
def getMeasurements (ch : Fin 3) (index : Nat) (nonce : List Byte) (s : State) : State :=
  s.evidence ch.val (fun s =>
    let all := s.measurements
    let some1 := all.filter (fun m => index = 0xFF || m.1 == index)
    if index = 0 then s.withEntropy 256 (fun s => s.signed ch.val 0x60 nonce [BitVec.ofNat 8 all.length, 0])
    else if some1.isEmpty then s.emit (.spdmError ch.val 1)
    else s.withEntropy 256 (fun s => s.signed ch.val 0x60 nonce ([0, BitVec.ofNat 8 some1.length] ++ some1.flatMap measBytes)))
def execGetMeasurements (ch : Fin 3) (index : Nat) (nonce : List Byte) (s : State) : Out State :=
  .next (getMeasurements ch index nonce s)

/-- R437: a session opens; the 33rd is answered Busy. -/
def keyExchange (ch : Fin 3) (exch : List Byte) (s : State) : State :=
  s.evidence ch.val (fun s =>
    if 32 ≤ s.sec.sessions.length then s.emit (.spdmError ch.val 3)
    else s.withEntropy 512 (fun s =>
      let id := s.sec.nextSession
      let x := s.modSec (fun x => { x with nextSession := id + 1, sessions := x.sessions ++
        [{ id := id, port := ch.val, finished := false, chain := none, root := none, keyGen := 0 }] })
      (x.skip 12).signed ch.val 0x64 exch (leBytes 2 id ++ x.randomBytes 96)))
def execKeyExchange (ch : Fin 3) (exch : List Byte) (s : State) : Out State := .next (keyExchange ch exch s)

/-- The session a request travels in. -/
def State.session (s : State) (id : Nat) : Option Session := s.sec.sessions.find? (fun e => e.id == id)

/-- A request inside a session (R437): a session that is not there answers InvalidSession (2) on DOE of port 0. -/
def State.inSession (s : State) (id : Nat) (g : Session → State → State) : State :=
  match s.session id with
  | none => s.answer 0 (fun s => s.emit (.spdmError 0 2))
  | some x => s.answer x.port (g x)

/-- A session's entry replaced. -/
def State.setSession (s : State) (x : Session) : State :=
  s.modSec (fun y => { y with sessions := y.sessions.map (fun e => if e.id = x.id then x else e) })

/-- R437: session establishment ends, with mutual authentication when the requester asks for it; a failed one ends the session. -/
def finish (session : Nat) (ok : Bool) (chain : Option (List Byte)) (operator : Option (BitVec 384)) (s : State) : State :=
  s.inSession session (fun x s =>
    if x.finished then s.emit (.spdmError x.port 4)
    else if !ok then (s.dropSession session 1).emit (.spdmError x.port 6)
    else (s.setSession { x with finished := true, chain := chain.map Config.sha384, root := if chain.isSome then operator else none }).reply
      x.port 0x65 [0, 0])
def execFinish (session : Nat) (ok : Bool) (chain : Option (List Byte)) (operator : Option (BitVec 384)) (s : State) : Out State :=
  .next (finish session ok chain operator s)

/-- R437. -/
def heartbeat (session : Nat) (s : State) : State :=
  s.inSession session (fun x s => if x.finished then s.reply x.port 0x68 [0, 0] else s.emit (.spdmError x.port 4))
def execHeartbeat (session : Nat) (s : State) : Out State := .next (heartbeat session s)

/-- R437: the session's keys change. -/
def keyUpdate (session : Nat) (s : State) : State :=
  s.inSession session (fun x s =>
    if x.finished then (s.setSession { x with keyGen := x.keyGen + 1 }).reply x.port 0x69 [0, 0] else s.emit (.spdmError x.port 4))
def execKeyUpdate (session : Nat) (s : State) : Out State := .next (keyUpdate session s)

/-- R433: the session ends and its sealed keys are erased. -/
def endSession (session : Nat) (s : State) : State :=
  s.inSession session (fun x s => (s.dropSession session 1).reply x.port 0x6C [0, 0])
def execEndSession (session : Nat) (s : State) : Out State := .next (endSession session s)

/-- R433: heartbeat loss ends a session. -/
def sessionHeartbeatLoss (session : Nat) (s : State) : State :=
  if s.ebtor && (s.session session).isSome then s.dropSession session 1 else s
def execSessionHeartbeatLoss (session : Nat) (s : State) : Out State := .next (sessionHeartbeatLoss session s)

/-- R437: every other request is answered with ERROR UnsupportedRequest (7). -/
def unsupportedRequest (ch : Fin 3) (_code : Byte) (s : State) : State := s.answer ch.val (fun s => s.emit (.spdmError ch.val 7))
def execUnsupportedRequest (ch : Fin 3) (code : Byte) (s : State) : Out State := .next (unsupportedRequest ch code s)

/-! ## Secured commands (Table 15-5) -/

/-- A secured command in a session that has been established (R439, R442): its status is answered in the session. -/
def State.secured (s : State) (id : Nat) (g : Session → State → State × Half) : State :=
  match s.session id with
  | none => s
  | some x =>
    if !x.finished || !s.ebtor then s
    else if s.boot.fwuActivating then s.emit (.secured id stSecBusy)
    else
      let r := g x s
      r.1.emit (.secured id r.2)

/-- The session is authenticated by the chain that opened the tenant (R439); tenant 0 has no recorded owner. -/
def State.owns (s : State) (x : Session) (t : BitVec 6) : Bool :=
  t = 0 || ((s.tenant t.toNat).opened && x.chain == some (s.tenant t.toNat).owner)

/-- R439: opens a tenant slot with its key. -/
def tenantOpen (session : Nat) (slot : BitVec 6) (key : BitVec 512) (flags : Byte) (s : State) : State :=
  s.secured session (fun x s =>
    match x.chain with
    | none => (s, stNotOwner)
    | some c =>
      if slot = 0 || decide (4 ≤ flags.toNat) then (s, stRsvd)
      else if (s.tenant slot.toNat).opened then (s, stSlotsFull)
      else (s.modTenant slot.toNat (fun _ =>
        { opened := true, key := key, reqIde := flags.getLsbD 0, keep := flags.getLsbD 1, owner := c }), stSuccess))
def execTenantOpen (session : Nat) (slot : BitVec 6) (key : BitVec 512) (flags : Byte) (s : State) : Out State :=
  .next (tenantOpen session slot key flags s)

/-- R429, R439. -/
def tenantClose (session : Nat) (slot : BitVec 6) (s : State) : State :=
  s.secured session (fun x s =>
    if slot = 0 then (s, stRsvd)
    else if !s.owns x slot then (s, stNotOwner)
    else (s.closeTenant slot, stSuccess))
def execTenantClose (session : Nat) (slot : BitVec 6) (s : State) : Out State := .next (tenantClose session slot s)

/-- Where a region may lie (R425): the hashed range, or one pinned window. -/
def State.regionFits (s : State) (g : RegionReq) : Bool :=
  decide (0 < g.len) && g.base % 0x200000 = 0 && g.len % 0x200000 = 0 &&
  (decide (g.base + g.len ≤ s.hashedEnd) ||
   (decide (0x8000000000 ≤ g.base) && decide (g.base < 0x9000000000) &&
    decide (g.base % 0x200000000 + g.len ≤ s.pins * 0x80000))) &&
  !s.sec.regions.any (fun r => decide (r.2.base < g.base + g.len) && decide (g.base < r.2.base + r.2.len))

/-- R425: the range's slates become UNWRITTEN. -/
def regionClaim (session : Nat) (entry : Byte) (g : Sys2Proof.RegionReq) (s : State) : State :=
  s.secured session (fun x s =>
    if g.kind = 3 || (g.kind = 0 && g.owner = 0) then (s, stRsvd)
    else if !s.owns x g.owner then (s, stNotOwner)
    else if s.sec.regions.any (fun r => r.1 == entry.toNat) then (s, stSlotsFull)
    else if !s.regionFits g then (s, stRegionConflict)
    else ((s.modSec (fun y => { y with regions := y.regions ++
      [(entry.toNat, { base := g.base, len := g.len, kind := g.kind, owner := g.owner, slot := g.slot.val, tweak := g.tweak })] })).unwrite
        (g.base / 4096) (g.len / 4096), stSuccess))
def execRegionClaim (session : Nat) (entry : Byte) (g : Sys2Proof.RegionReq) (s : State) : Out State :=
  .next (regionClaim session entry g s)

/-- R425, Table 15-9: a release waits for the tenant's dispatched shots. -/
def regionRelease (session : Nat) (entry : Byte) (s : State) : State :=
  s.secured session (fun x s =>
    match (s.sec.regions.find? (fun r => r.1 == entry.toNat)).map (·.2) with
    | none => (s, stRegionConflict)
    | some r =>
      if !s.owns x r.owner then (s, stNotOwner)
      else ((s.modSec (fun y => { y with releasing := (y.releasing ++ [entry.toNat]).eraseDups })).releasePending, stSuccess))
def execRegionRelease (session : Nat) (entry : Byte) (s : State) : Out State := .next (regionRelease session entry s)

/-- R427, Table 15-9: only while the reel has EN = 0. -/
def reelBind (session : Nat) (reel : Fin 1024) (tenant : BitVec 6) (s : State) : State :=
  s.secured session (fun x s =>
    if (s.reel reel.val).en then (s, stRsvd)
    else if !(s.owns x tenant && s.owns x (s.reel reel.val).tenant) then (s, stNotOwner)
    else (s.modReel reel.val (fun r => { r with tenant := tenant }), stSuccess))
def execReelBind (session : Nat) (reel : Fin 1024) (tenant : BitVec 6) (s : State) : Out State := .next (reelBind session reel tenant s)

/-- A hub is in reset. -/
def State.hubDown (s : State) : Bool := (List.range 8).any (fun h => (s.hub h).inReset)

/-- R433: the key goes into the slot of all eight hubs and belongs to the session. -/
def sealInstall (session : Nat) (slot : Fin 32) (key : BitVec 512) (s : State) : State :=
  s.secured session (fun _ s =>
    if (s.wkey slot.val).isSome then (s, stSlotsFull)
    else if s.hubDown then (s, stKeyRevoked)
    else (s.install slot.val { key := key, bound := false, session := session, bundle := 0, bundleLen := 0 }, stSuccess))
def execSealInstall (session : Nat) (slot : Fin 32) (key : BitVec 512) (s : State) : Out State := .next (sealInstall session slot key s)

/-- R433. -/
def sealRemove (session : Nat) (slot : Fin 32) (s : State) : State :=
  s.secured session (fun _ s => (if (s.wkey slot.val).any (fun k => !k.bound) then s.revoke 5 slot.val else s, stSuccess))
def execSealRemove (session : Nat) (slot : Fin 32) (s : State) : Out State := .next (sealRemove session slot s)

/-- R372, R439: only from the operator; the ports agree a new SAK. -/
def cakInstall (session : Nat) (mask : BitVec 4) (ckn : List Byte) (cak : BitVec 256) (s : State) : State :=
  s.secured session (fun x s =>
    if x.root.isNone || x.root != s.sec.opRoot then (s, stNotOwner)
    else if outside ckn.length 1 32 then (s, stRsvd)
    else (((List.range 4).filter (fun e => mask.getLsbD e)).foldl (fun s e =>
      s.modEth e (fun p => { p with cak := some (ckn, cak), secured := false })) s, stSuccess))
def execCakInstall (session : Nat) (mask : BitVec 4) (ckn : List Byte) (cak : BitVec 256) (s : State) : Out State :=
  .next (cakInstall session mask ckn cak s)

/-- R439: accepted in any session while no root is set, afterwards only from the current operator. -/
def operatorRoot (session : Nat) (root : BitVec 384) (s : State) : State :=
  s.secured session (fun x s =>
    if s.sec.opRoot.isSome && x.root != s.sec.opRoot then (s, stNotOwner)
    else (s.modSec (fun y => { y with opRoot := some root }), stSuccess))
def execOperatorRoot (session : Nat) (root : BitVec 384) (s : State) : Out State := .next (operatorRoot session root s)

/-! ## Mailbox commands (Table 15-4) -/

/-- Ebtor takes a command body of mailbox m (R440): nothing happens unless that body stands there with this CMD and TAG. -/
def State.command (s : State) (m : Nat) (cmd body : Nat) (tag : Word)
    (g : List Byte → State → Except Stop (State × Half × List Byte)) : State :=
  let b := s.mb m
  let w := b.data
  if !b.full || !s.ebtor || !w.getLsbD 63 || w.toNat % 2 ^ 40 ≠ body || w.toNat / 2 ^ 40 % 2 ^ 16 ≠ s.glb.devId.toNat then s
  else match s.bodyRead body 64 with
    | .error .wait => s
    | .error (.fail _ _) => s.emptyMailbox m
    | .ok bs =>
      if leAt bs 0 2 ≠ cmd || leAt bs 4 4 ≠ tag.toNat then s
      else
        let u := s.emptyMailbox m
        if s.boot.fwuActivating then u.respond m stSecBusy tag
        else if rz bs 2 2 then u.respond m stRsvd tag
        else match g bs u with
          | .error .wait => s
          | .error (.fail st _) => u.respond m st tag
          | .ok (v, st, []) => v.respond m st tag
          | .ok (v, st, res) =>
            match v.bodyWrite (body + 64) res with
            | .error .wait => s
            | .error (.fail e _) => u.respond m e tag
            | .ok x => x.respond m st tag

/-- SEC_STATE (Table 15-8). -/
def State.secState (s : State) : Nat :=
  s.sec.lifecycle.toNat * 2 ^ 30 +
  ((List.range 64).filter (fun t => decide (0 < t) && (s.tenant t).opened)).length * 2 ^ 24 +
  s.sec.wkeys.length * 2 ^ 16 + s.sec.svn.toNat * 2 ^ 8 + b2n s.boot.fwuPending * 4 + b2n s.boot.fwuActivating * 2 + b2n s.entropyOk

/-- R441. -/
def secStatus (m : Fin 16) (body : BitVec 40) (tag : Word) (s : State) : State :=
  s.command m.val 1 body.toNat tag (fun _ s => .ok (s, stSuccess, leBytes 4 s.secState))
def execSecStatus (m : Fin 16) (body : BitVec 40) (tag : Word) (s : State) : Out State := .next (secStatus m body tag s)

/-- R434: the bundle's key goes into a free slot of all hubs, and Ebtor keeps the bundle's address. -/
def bindLoad (m : Fin 16) (body : BitVec 40) (tag : Word) (s : State) : State :=
  s.command m.val 2 body.toNat tag (fun bs s => do
    let a := leAt bs 8 8
    let len := leAt bs 16 4
    if 2 ^ 40 ≤ a then return (s, stRsvd, [])
    else
      let key ← s.openBundleAt a len
      match (List.range 32).find? (fun i => (s.wkey i).isNone) with
      | none => return (s, stSlotsFull, [])
      | some i =>
        return (s.install i { key := key, bound := true, session := 0, bundle := BitVec.ofNat 40 a, bundleLen := len }, stSuccess,
                leBytes 4 i))
def execBindLoad (m : Fin 16) (body : BitVec 40) (tag : Word) (s : State) : Out State := .next (bindLoad m body tag s)

/-- R440: a bound slot is dropped. -/
def bindDrop (m : Fin 16) (body : BitVec 40) (tag : Word) (s : State) : State :=
  s.command m.val 3 body.toNat tag (fun bs s =>
    let i := leAt bs 8 4
    if 32 ≤ i then .ok (s, stRsvd, [])
    else .ok (if (s.wkey i).any (·.bound) then s.revoke 5 i else s, stSuccess, []))
def execBindDrop (m : Fin 16) (body : BitVec 40) (tag : Word) (s : State) : Out State := .next (bindDrop m body tag s)

/-! ## IDE and MCTP -/

/-- R430: a stream of the session's port gets a key and is Secure, or loses it and is Insecure. -/
def ideKm (session : Nat) (stream : Fin 5) (key : Option (BitVec 256)) (s : State) : State :=
  s.inSession session (fun x s =>
    if !x.finished || decide (2 ≤ x.port) then s.emit (.spdmError x.port 4)
    else s.modPf x.port (fun f =>
      let rest := f.ideSecure.filter (fun e => e.1 ≠ stream.val)
      match key with
      | some k => { f with ideSecure := rest ++ [(stream.val, k)], ideInsecure := f.ideInsecure.filter (· ≠ stream.val) }
      | none => { f with ideSecure := rest,
                         ideInsecure := if f.ideSecure.length = rest.length then f.ideInsecure
                                        else f.ideInsecure.filter (· ≠ stream.val) ++ [stream.val] }))
def execIdeKm (session : Nat) (stream : Fin 5) (key : Option (BitVec 256)) (s : State) : Out State := .next (ideKm session stream key s)

/-- R489: the TLP is dropped and logged through AER, and its stream goes Insecure. -/
def ideIntegrityFailure (port : Fin 2) (stream : Fin 5) (s : State) : State :=
  if (s.pf port.val).ideSecure.any (fun e => e.1 == stream.val) then
    (s.modPf port.val (fun f => { f with ideSecure := f.ideSecure.filter (fun e => e.1 ≠ stream.val),
                                         ideInsecure := f.ideInsecure.filter (· ≠ stream.val) ++ [stream.val] })).emit
      (.aerIde port stream.val)
  else s
def execIdeIntegrityFailure (port : Fin 2) (stream : Fin 5) (s : State) : Out State := .next (ideIntegrityFailure port stream s)

/-- R492: MCTP carries SPDM (message type 5) and nothing else. -/
def mctpMessage (bytes : List Byte) (s : State) : State :=
  let ch : Fin 3 := 2
  let nonce := bytesAt bytes 5 32
  if leAt bytes 0 1 ≠ 5 then s
  else match leAt bytes 2 1 with
    | 0x84 => getVersion ch s
    | 0xE1 => getCapabilities ch s
    | 0xE3 => negotiateAlgorithms ch s
    | 0x81 => getDigests ch s
    | 0x82 => getCertificate ch (Fin.ofNat 8 (leAt bytes 3 1)) (leAt bytes 5 2) (leAt bytes 7 2) s
    | 0x83 => challenge ch nonce s
    | 0xE0 => getMeasurements ch (leAt bytes 4 1) nonce s
    | 0xE4 => keyExchange ch (bytes.drop 5) s
    | c => if [0xE5, 0xE8, 0xE9, 0xEC, 0xFE].contains c then s.answer 2 (fun s => s.emit (.spdmError 2 4))
           else unsupportedRequest ch (BitVec.ofNat 8 c) s
def execMctpMessage (bytes : List Byte) (s : State) : Out State := .next (mctpMessage bytes s)

/-! ## Entropy (R225 to R227, R445) -/

/-- The answers of requests that a failure or a takeover ends. -/
def State.failWaiting (s : State) (cd : Nat) : State :=
  let s' := (s.cd cd).waiting.foldl (fun s w => s.emit (.entropy w.1 stEntropyNotReady)) s
  s'.modCd cd (fun c => { c with waiting := [] })

/-- Serve waiting requests in order from the pool. -/
def servePool : List (Nat × Nat) → Nat → List Nat × List (Nat × Nat) × Nat
  | [], p => ([], [], p)
  | (a, n) :: ws, p => if n ≤ p then (let r := servePool ws (p - n); (a :: r.1, r.2)) else ([], (a, n - p) :: ws, 0)

/-- Serve what a source's pool allows. -/
def State.drainPool (s : State) (cd : Nat) : State :=
  let c := s.cd cd
  let r := servePool c.waiting c.pool.toNat
  let s := s.modCd cd (fun c => { c with waiting := r.2.1, pool := BitVec.ofNat 10 r.2.2 })
  r.1.foldl (fun s a => s.emit (.entropy a stSuccess)) s

/-- R225: the active source serves the request, or answers ENTROPY_NOT_READY; one larger than the pool waits. -/
def entropyRequest (bits : Nat) (s : State) : State :=
  if s.ebtor && s.entropyOk then
    (s.modCd s.activeCd (fun c => { c with waiting := c.waiting ++ [(bits, bits)] })).drainPool s.activeCd
  else s.emit (.entropy bits stEntropyNotReady)
def execEntropyRequest (bits : Nat) (s : State) : Out State := .next (entropyRequest bits s)

/-- R225: the start-up tests have passed and the pool holds 512 bits. -/
def entropyReady (cd : Fin 2) (s : State) : State :=
  if (s.cd cd.val).entState = 0 then s.modCd cd.val (fun c => { c with entState := 1, pool := 512 }) else s
def execEntropyReady (cd : Fin 2) (s : State) : Out State := .next (entropyReady cd s)

/-- R226: the pool is discarded; the third failure is final, and Ebtor reports it (R445). The tests go on, and every later failure counts. -/
def healthTestFailure (cd : Fin 2) (s : State) : State :=
  let c := s.cd cd.val
  if c.entState = 2 then s.modCd cd.val (fun c => { c with fails := satInc c.fails })
  else
    let dead := decide (2 ≤ c.fails.toNat)
    let s := (s.modCd cd.val (fun c => { c with pool := 0, fails := satInc c.fails, entState := if dead then 2 else 0 })).failWaiting cd.val
    if dead && s.ebtor then s.post 31 (eventWord 4 0) else s
def execHealthTestFailure (cd : Fin 2) (s : State) : Out State := .next (healthTestFailure cd s)

/-- R225: the pool refills, to 512 bits at most, and waiting requests are served. -/
def poolRefill (cd : Fin 2) (bits : Nat) (s : State) : State :=
  if (s.cd cd.val).entState = 1 then
    (s.modCd cd.val (fun c => { c with pool := BitVec.ofNat 10 (min 512 (c.pool.toNat + bits)) })).drainPool cd.val
  else s
def execPoolRefill (cd : Fin 2) (bits : Nat) (s : State) : Out State := .next (poolRefill cd bits s)

/-! ## Takeover -/

/-- R38, R39, R227, Table 15-9: the standby becomes active and the die that fell silent is out. -/
def takeover (s : State) : State :=
  if !s.ebtor then s
  else
    let a := s.activeCd
    let b := 1 - a
    let s := (s.failWaiting a).modCd a (fun c => { c with ok := false })
    if (s.cd b).ok then
      (s.modGlb (fun g => { g with active := if b = 0 then 1 else 2, takeovers := satInc g.takeovers })).modBoot
        (fun x => { x with switched := false })
    else (s.modGlb (fun g => { g with active := 0 })).modPwr (fun p => { p with valveHigh := true })
def execTakeover (s : State) : Out State := .next (takeover s)

end Sys2Proof.Machine
end

