-- ==== Sys2Proof/Machine/Boot.lean ====
section
/-!
DEFINITION. Boot: image selection (R472), the DICE layers (R435), the continuity key (R410), the stages of Table 17-1 with the logical
map (R23, R469), and the cold, warm and function resets (R479, R480, Table 17-8, R280).
-/
namespace Sys2Proof.Machine

/-! ## Images -/

/-- A bank's header. -/
def Boot.image (b : Boot) (bank : Bool) : Option ImageHeader := if bank then b.bankB else b.bankA
/-- A bank's header replaced. -/
def Boot.setImage (b : Boot) (bank : Bool) (h : Option ImageHeader) : Boot := if bank then { b with bankB := h } else { b with bankA := h }
/-- The header of the bank that runs. -/
def Boot.running (b : Boot) : Option ImageHeader := b.image b.bank

/-- Banks by descending SEQ among valid headers (R472); equal ones start with bank A. -/
def Boot.order (b : Boot) : List Bool :=
  let v := fun bk => (b.image bk).any (fun (h : ImageHeader) => h.valid && decide (h.state.toNat ≤ 3))
  let q : Bool → Nat := fun bk => ((b.image bk).map (fun h => h.seq.toNat)).getD 0
  (if q false < q true then [true, false] else [false, true]).filter v

/-- The tests of an image that are not about its age (R472). -/
def ImageHeader.sound (h : ImageHeader) : Bool := h.sigOk && h.digestsOk && h.state != 3

/-- R472: try the banks in order. The outcome is the bank that boots, if any. -/
def Boot.trial1 (b : Boot) : List Bool → Boot × Option Bool
  | [] => (b, none)
  | bk :: rest =>
    match b.image bk with
    | none => Boot.trial1 b rest
    | some h =>
      if !h.sound || decide (h.svn.toNat < b.minSvn.toNat) then Boot.trial1 b rest
      else
        let h : ImageHeader := if h.state = 0 then { h with state := 1, attempts := 0 } else h
        if h.state = 1 then
          if 3 < h.attempts.toNat + 1 then Boot.trial1 (b.setImage bk (some { h with attempts := h.attempts + 1, state := 3 })) rest
          else (b.setImage bk (some { h with attempts := h.attempts + 1 }), some bk)
        else (b.setImage bk (some h), some bk)

/-- ERR when no bank boots: SVN when every valid image is below the fused minimum, else NO_IMAGE (Table 17-3). -/
def Boot.noImage (b : Boot) : BitVec 4 :=
  let sound := b.order.filter (fun bk => (b.image bk).any (·.sound))
  if sound.isEmpty then 2
  else if sound.all (fun bk => (b.image bk).any (fun h => decide (h.svn.toNat < b.minSvn.toNat))) then 3 else 2

/-- The continuity key (R410). -/
def contKeyOf (stepping : Byte) (version : Dword) (microcode table : BitVec 384) : Dword :=
  let k := mix64 (stepping.setWidth 64)
  let k := mix64 (k ^^^ version)
  let k := mix64 (k ^^^ microcode.setWidth 64)
  mix64 (k ^^^ table.setWidth 64)

/-- The loader measures the other components and derives CDI1 (Table 15-2). -/
def State.measure (s : State) (h : ImageHeader) : State :=
  let d := fun i => h.digests.getD i 0
  let s := s.modSec (fun x => { x with svn := h.svn, digests := [d 0, d 1, d 2, d 3] })
  let msg := digestBytes (d 1) ++ digestBytes (d 2) ++ digestBytes (d 3) ++ digestBytes s.secConfig
  s.modSec (fun x => { x with cdi1 := Config.hmac384 x.cdi0 msg })

/-- The key of the image that runs is written (R410, R411). -/
def State.writeContKey (s : State) (h : ImageHeader) : State :=
  s.modGlb (fun g => { g with contKey := contKeyOf s.boot.stepping h.version (h.digests.getD 2 0) (h.digests.getD 3 0) })

/-! ## Stages -/

/-- The stage after a stage code (Table 17-1). -/
def nextStage (x : Byte) : Byte := if x = 8 then 0xFF else x + 1

/-- The boot stops with an error (R468). -/
def State.bootError (s : State) (e : BitVec 4) : State :=
  (s.modBoot (fun b => { b with err := e, failed := true })).emit (.uart (Fin.ofNat 2 s.activeCd) [BitVec.ofNat 8 e.toNat])

/-- Stage 0x02: a bank is selected and its loader measured (R472, Table 15-2). -/
def State.selectImage (s : State) : State :=
  let r := s.boot.trial1 s.boot.order
  let s := s.modBoot (fun _ => r.1)
  match r.2 with
  | none => s.bootError r.1.noImage
  | some bk =>
    let l := ((s.boot.image bk).map (fun h => h.digests.getD 0 0)).getD 0
    (s.modBoot (fun b => { b with bank := bk, fallback := s.boot.order.head? != some bk, udsLocked := true, stage := 2,
                                  trial := (b.image bk).any (fun (h : ImageHeader) => h.state == 1) })).modSec
      (fun x => { x with cdi0 := Config.hmac384 (Config.uds.setWidth 384 <<< 128) (digestBytes l),
                         digests := [l, x.digests.getD 1 0, x.digests.getD 2 0, x.digests.getD 3 0] })

/-- Stage 0x03: components measured, the active die chosen (R38). -/
def State.chooseActive (s : State) (cd0 cd1 : Bool) : State :=
  if !cd0 && !cd1 then s.bootError 6
  else
    let s := (s.modCd 0 (fun c => { c with ok := cd0 })).modCd 1 (fun c => { c with ok := cd1 })
    let s := s.modGlb (fun g => { g with active := if cd0 then 1 else 2 })
    let s := match s.boot.running with | some h => s.measure h | none => s
    s.modBoot (fun b => { b with stage := 3 })

/-- Stage 0x04: entropy READY, tenant 0's key, the continuity key. -/
def State.bootKeys (s : State) : State :=
  let e := (s.cd s.activeCd).entState
  if e = 2 then s.bootError 7
  else if e ≠ 1 then s
  else s.withEntropy 512 (fun s =>
    let s := s.newTenant0
    let s := match s.boot.running with | some h => s.writeContKey h | none => s
    s.modBoot (fun b => { b with stage := 4 }))

/-- After a warm reset tenant 0's new key comes before the hubs serve (R445, Table 17-8); it waits for the entropy source. -/
def State.warmKey (s : State) (g : State → State) : State :=
  if (s.tenant 0).opened then g s
  else if (s.cd s.activeCd).entState = 2 then s.bootError 7
  else s.withEntropy 512 (fun s => g s.newTenant0)

/-- Stage 0x06: the soft repairs of the flash record area are applied again. -/
def State.bootHubs (s : State) : State :=
  s.warmKey fun s =>
  let s := (List.range 8).foldl (fun s h =>
    s.modHub h (fun v => { v with soft := (s.boot.repairs.filter (fun r => r.1 == h)).map (fun r => r.2.setWidth 37) })) s
  s.modBoot (fun b => { b with stage := 6 })

/-- Fences recorded of a core. -/
def State.fenceCount (s : State) (k : Nat) : Nat := (s.boot.fences.filter (fun f => f.1 == k)).length

/-- How a core comes out of its boot tests (R469): held out by the fence list, newly fenced, or usable. -/
def State.bootCore (s : State) (bad : Bool) (k : Nat) : State :=
  let c := s.coreK k
  if s.boot.warm && (c.role = 4 || 0 < c.readmit) then s
  else if !s.boot.warm && 3 ≤ s.fenceCount k then s.modCoreK k (fun c => { c with role := 4, fcause := s.lastFence k })
  else if !s.boot.warm && 0 < s.fenceCount k then s.modCoreK k (fun c => { c with role := 3, readmit := 3 })
  else if bad then s.fence k 7 0x0A 0 0xFFFF 0
  else s.modCoreK k (fun c => { c with role := 1 })

/-- The logical map of a die (R23): its 32 lowest usable cores are enabled, the others are stand-ins. -/
def State.mapDie (s : State) (d : Nat) : State :=
  let us := (dieKeys d).filter (fun k => (s.coreK k).role == 1)
  ((us.take 32).zipIdx).foldl (fun s x =>
    s.modCoreK x.1 (fun c => { c with role := 0, logical := BitVec.ofNat 10 (32 * d + x.2) })) s

/-- Stage 0x07: tests of every core, the fence list, the map; a die that fails is left out, its cores fenced (R27, R468). -/
def State.bootDies (s : State) (badDies : Half) (bad : List CoreId) : State :=
  let out := (List.range 16).filter (fun d => badDies.getLsbD d)
  let s := s.modBoot (fun b => { b with dieOut := (b.dieOut ++ out).eraseDups, err := if out.isEmpty then b.err else 5 })
  let keys := bad.map CoreId.key
  let s := (List.range 16).foldl (fun s d =>
    (dieKeys d).foldl (fun s k => s.bootCore (s.boot.dieOut.contains d || keys.contains k) k) s) s
  let s := (List.range 16).foldl (fun s d => if s.boot.dieOut.contains d then s else s.mapDie d) s
  (s.modGlb (fun g => { g with lkat := true })).modBoot (fun b => { b with stage := 7 })

/-- Stage 0x08: Burou ports train, the Ethernet PCS comes up. -/
def State.bootLinks (s : State) : State :=
  let s := (List.range 20).foldl (fun s p => if (s.port p).en then s.portTrain p else s.modPort p (fun q => { q with state := 4 })) s
  let s := (List.range 4).foldl (fun s e => s.modEth e (fun p => { p with up := true })) s
  s.modBoot (fun b => { b with stage := 8 })

/-- R467, R468: the stage after the last one completed ends. `err` is what the hardware finds (0 none); badDies and badCores fail
their tests at stage 0x07. -/
def State.advance (s : State) (err : BitVec 4) (cd0 cd1 : Bool) (badDies : Half) (badCores : List CoreId) : State :=
  let b := s.boot
  let stop := err ≠ 0 && err ≠ 5 && decide (err.toNat < 8)
  if b.done || b.failed || s.pwr.catTrip then s
  else if stop then s.bootError err
  else match (nextStage b.stage).toNat with
    | 1 => if b.stepping = 0xA1 || b.stepping = 0xB0 then s.modBoot (fun b => { b with stage := 1 }) else s.bootError 1
    | 2 => s.selectImage
    | 3 => s.chooseActive cd0 cd1
    | 4 => s.bootKeys
    | 5 =>
      if (s.pf 0).perst then s
      else
        let s := (s.modPf 0 (fun f => { f with trained := true })).modPf 1 (fun f => { f with trained := !f.perst })
        s.modBoot (fun b => { b with stage := 5, subsys := (b.running.bind (·.board)).getD (0, 0) })
    | 6 => s.bootHubs
    | 7 => s.bootDies badDies badCores
    | 8 => s.bootLinks
    | _ => s.modBoot (fun b => { b with stage := 0xFF, done := true, warm := false })

/-- The configuration header of a function (Table 18-1). -/
structure ConfigHeader where
  vendor   : Half
  device   : Half
  revision : Byte
  cls      : BitVec 24
  subsys   : Half × Half
deriving DecidableEq, Repr

/-- R486, R467: what configuration requests to function 0 of a trained port are answered with; none before. -/
def State.configHeader (s : State) (port : Nat) : Option ConfigHeader :=
  if (s.pf port).trained then
    some { vendor := Config.pciVendor, device := 0x4E4B, revision := s.boot.stepping, cls := 0x120000, subsys := s.boot.subsys }
  else none

/-- R467: Ebtor writes the stage it completes to the UART (R494). -/
def bootStage (err : BitVec 4) (cd0 cd1 : Bool) (badDies : Half) (badCores : List CoreId) (s : State) : State :=
  let u := s.advance err cd0 cd1 badDies badCores
  if u.boot.stage ≠ s.boot.stage && u.ebtor then u.emit (.uart (Fin.ofNat 2 u.activeCd) [u.boot.stage]) else u
def execBootStage (err : BitVec 4) (cd0 cd1 : Bool) (badDies : Half) (badCores : List CoreId) (s : State) : Out State :=
  .next (bootStage err cd0 cd1 badDies badCores s)

/-! ## Cold reset -/

/-- The state right after a cold reset: what flash, fuses and the outside of the package hold is kept (Table 17-8, R473). -/
def State.cold (s : State) (vauxLost : Bool) : State :=
  let b := s.boot
  { pending := s.pending,
    boot := { bankA := b.bankA, bankB := b.bankB, minSvn := b.minSvn, fences := b.fences, repairs := b.repairs, margins := b.margins,
              recSeq := b.recSeq, stepping := b.stepping },
    pcie := s.pcie.map (fun f => (f.1, { perst := f.2.perst })),
    hubs := s.hubs.map (fun h => (h.1, { hard := h.2.hard })),
    host := s.host, clap := { sync10m := s.clap.sync10m },
    pwr := { throttle := s.pwr.throttle, catTrip := s.pwr.catTrip && !vauxLost },
    jtag := s.jtag, fresh := s.fresh, out := s.out }

/-- R479: COLDRST#, or VAUX lost, which also ends a CATTRIP# (R498). -/
def coldReset (vauxLost : Bool) (s : State) : State := s.cold vauxLost
def execColdReset (vauxLost : Bool) (s : State) : Out State := .next (coldReset vauxLost s)

/-! ## Warm reset -/

/-- The die as a warm reset leaves it: DIE_MARGIN and the clock it set are kept (Table 17-8). -/
def Die.warmed (v : Die) : Die :=
  { fmaxFuse := v.fmaxFuse, fmax := v.fmax, fmaxNext := v.fmaxNext, slack := v.slack, vofs := v.vofs, lost := v.lost, clk := v.clk,
    tripped := v.tripped, floorFence := v.floorFence, stopped := v.stopped }

/-- The core as a warm reset leaves it: fences are kept, and so is a readmission that is still owed. -/
def Core.warmed (c : Core) : Core :=
  if c.role = 4 then { role := 4, fcause := c.fcause } else if 0 < c.readmit then { role := 3, readmit := c.readmit } else {}

/-- Open tenants end and sessions end (Table 17-8). -/
def State.endTenants (s : State) : State :=
  let s := s.sec.sessions.foldl (fun s e => s.dropSession e.id 1) s
  ((List.range 64).filter (fun t => decide (0 < t) && (s.tenant t).opened)).foldl (fun s t => s.closeTenant (BitVec.ofNat 6 t)) s

/-- R480: the device but for Ebtor and the kept state of Table 17-8 is reset, and boots again from stage 0x05. An ACTIVATE that waits for dispatched
shots finds none. -/
def State.warm (s : State) : State :=
  let s := { s with tracked := [] }
  let s := s.endTenants.modTenant 0 (fun _ => {})
  let b := s.boot
  let g := s.glb
  State.openWindow { s with
    glb := { takeovers := g.takeovers, active := g.active, idLock := g.idLock, devId := if g.idLock then g.devId else 0,
             contKey := g.contKey },
    boot := { b with done := false, stage := 4, fwuAddr := 0, fwuErr := 0, rstBusy := false, rstWhat := none, warm := true,
                     warmPending := false },
    reels := [], lastServed := [], journal := [], jobs := [], ckpt := none, restore := none,
    mbox := s.mbox.map (fun m => (m.1, { queue := m.2.queue, dropped := m.2.dropped })),
    pcie := s.pcie.map (fun f => (f.1, { perst := f.2.perst })),
    hbm := { mem := s.hbm.mem },
    hubs := s.hubs.map (fun h => (h.1, { soft := h.2.soft, hard := h.2.hard })),
    cores := s.cores.map (fun c => (c.1, c.2.warmed)), contexts := [],
    dies := s.dies.map (fun d => (d.1, d.2.warmed)),
    links := { eth := s.links.eth.map (fun e => (e.1, { cak := e.2.cak })) },
    clap := { s.clap with state := if s.clap.role = 0 then 0 else 1, depth := if 2 ≤ s.clap.role.toNat then 0 else 7, offset := 0,
                          good := 0, slew := 0 },
    sec := { s.sec with regions := [], releasing := [] },
    pwr := { power := s.pwr.power, throttle := s.pwr.throttle, excur := s.pwr.excur, ballast := s.pwr.ballast,
             rampFrom := s.pwr.rampFrom, rampTo := s.pwr.rampTo, tin := s.pwr.tin, tout := s.pwr.tout, flow := s.pwr.flow,
             valve := s.pwr.valve, snsOk := s.pwr.snsOk, fcSeq := s.pwr.fcSeq, forecast := s.pwr.forecast,
             valveHigh := s.pwr.valveHigh, thermTrip := s.pwr.thermTrip, tripReleased := s.pwr.tripReleased,
             plantFault := s.pwr.plantFault, catTrip := s.pwr.catTrip } }

/-- PERST0# is asserted (R479, Table 17-10): during the activation window the reset waits for its close. -/
def warmReset (s : State) : State :=
  let s := s.modPf 0 (fun f => { f with perst := true })
  if !s.ebtor then s
  else if s.boot.fwuActivating then s.modBoot (fun b => { b with warmPending := true }) else s.warm
def execWarmReset (s : State) : Out State := .next (warmReset s)

/-- Release of PERST# (R504): port 0 trains with stage 0x05 of the boot it let begin, port 1 of a device that runs trains at once. -/
def perstRelease (port : Fin 2) (s : State) : State :=
  let up := decide (5 ≤ s.boot.stage.toNat) && s.clocks
  s.modPf port.val (fun f => if f.perst then { f with perst := false, trained := up } else f)
def execPerstRelease (port : Fin 2) (s : State) : Out State := .next (perstRelease port s)

/-! ## Function reset -/

/-- An admin reel of the function (R280): in-flight shots that have not taken effect are aborted, staged prepares discarded. A
CHECKPOINT or RESTORE that runs has taken effect and goes on (R278); like the shots that have landed it completes without record or
event. -/
def State.abortAdmin (s : State) (n : Nat) : State :=
  let r : Fin 1024 := Fin.ofNat 1024 n
  let stays := fun (t : Tracked) => t.phase == .landed || t.phase == .running
  let gone := (s.onReel n).filter (fun t => !stays t)
  let s := { s with tracked := (s.tracked.filter (fun t : Tracked => decide (t.reel.val ≠ n) || stays t)).map
                      (fun t : Tracked => if t.reel.val = n then { t with mute := true } else t) }
  (s.modReel n (fun x => { x with staged := [] })).emit (.resetReport r gone.length)

/-- R280, Table 17-8: one reel of the function that is reset. -/
def State.resetReel (s : State) (n : Nat) : State :=
  let r := s.reel n
  let s := if r.admin then s.abortAdmin n
           else { s with tracked := s.tracked.map (fun t => if t.reel.val = n then { t with mute := true } else t) }
  if r.en then ((s.modReel n (fun x => { x with en := false })).flushReel n).endWaits n else s

/-- R479, R480: FLR of a port's function, or PERST1#. -/
def functionReset (port : Fin 2) (perst : Bool) (s : State) : State :=
  let p := port.val
  let ns : List Nat := [0, 1] ++ s.reels.map (fun e => e.1)
  let mine := ns.eraseDups.filter (fun n => (s.reel n).owner.toNat == p)
  let s := mine.foldl State.resetReel s
  let s := (s.sec.sessions.filter (fun e => e.port == p)).foldl (fun s e => s.dropSession e.id 1) s
  let s := s.modGlb (fun g => { g with hwin := g.hwin.filter (fun e => e.1 / 64 ≠ p) })
  let held := perst && p = 1
  (s.modPf p (fun f => { perst := f.perst || held, trained := f.trained && !held })).releasePending.openWindow
def execFunctionReset (port : Fin 2) (perst : Bool) (s : State) : Out State := .next (functionReset port perst s)

end Sys2Proof.Machine
end

