-- ==== Sys2Proof/Machine/Resets.lean ====
section
/-!
DEFINITION. The partial and core resets of GLB_RST_CTRL (R308, R443, R480 to R482).
-/
namespace Sys2Proof.Machine

def stDieReset : Half := 0x0740
def stHubReset : Half := 0x0741
def stCoreReset : Half := 0x0742

/-- A core as a reset of it, or of its die, leaves it: a fenced core stays fenced, any other remembers where it belongs. -/
def Core.restarted (c : Core) (role : BitVec 3) : Core :=
  if c.role = 4 then { role := 4, fcause := c.fcause }
  else if 0 < c.readmit then { role := 3, readmit := c.readmit }
  else { role := role, home := if c.logical = 0x3FF then c.home else c.logical }

/-- The parts that a reset of these cores ends: those they run and those of their MIRROR partners (R482, R483). -/
def State.failOn (s : State) (ks : List Nat) (st : Half) : State :=
  let hit := (s.cores.filter (fun c => c.2.part.isSome &&
    (ks.contains c.1 || c.2.partner.any (fun p => ks.contains p.key)))).map (·.1)
  hit.foldl (fun s k => s.endPart k st 0) s

/-- A partial reset raises the die's epoch and says so; the sealed slots it touched are revoked (R443). -/
def State.newEpoch (s : State) (i : Nat) (slots : List Nat) : State :=
  let e := tget (fun _ => (0 : Word)) s.sec.epochs i + 1
  let s := (s.modSec (fun x => { x with epochs := tset x.epochs i e })).post 31 (eventWord 2 (i * 2 ^ 32 + e.toNat))
  (slots.filter (fun w => (s.wkey w).any (fun k => !k.bound))).foldl (State.revoke · 2) s

/-- OP DIE (R480, R443). -/
def State.resetDie (s : State) (d : Nat) : State :=
  let v := s.die d
  let s := s.modDie d (fun v => { v with inReset := true })
  let s := s.failOn (dieKeys d) stDieReset
  let s := s.newEpoch d v.touched
  let s := (dieKeys d).foldl (fun s k => (s.releasePartner k).modCoreK k (fun c => c.restarted 5)) s
  s.modDie d (fun v => { die0 d with inReset := true, stopped := v.stopped })

/-- Vault lines that a forced reset loses: they enter the reserved half of the poison list while it has room, else their slates
become STALE (Table 11-15). -/
def State.loseLines (s : State) (h : Nat) : State :=
  (((s.hub h).vault.filter (·.dirty)).map (·.blk)).foldl (fun s b =>
    if (s.hub h).lost.length < 16384 then s.modHub h (fun v => { v with lost := if s.poisoned b then v.lost else b :: v.lost })
    else s.markStale b) s

/-- A core waits for a fill that reads a block of the hub: elements, scales or, of a refill, any block it has read (R181). -/
def Core.fillsFrom (c : Core) (h : Nat) : Bool :=
  c.organ.any (fun o => match o.2 with
    | some (.filling desc nr nc again) =>
      (((TileD.parse false desc).map (tileBlocks · nr nc)).getD []).any (fun b => hubOf b == h) || (again.getD []).any (fun g => hubOf g.1 == h)
    | _ => false)

/-- OP HUB (R308, R443, R480). -/
def State.resetHub (s : State) (h : Nat) (forced : Bool) : State :=
  let hit := (s.cores.filter (fun c => c.2.part.isSome && c.2.fillsFrom h)).map (·.1)
  let s := hit.foldl (fun s k => s.endPart k stHubReset 0) s
  let s := if forced then s.loseLines h else s
  let s := s.newEpoch (16 + h) ((s.sec.wkeys.filter (fun k => !k.2.bound)).map (·.1))
  s.modHub h (fun v => { soft := v.soft, hard := v.hard, poison := v.poison, lost := v.lost, unlisted := v.unlisted, inReset := true })

/-- OP CORE (R480). -/
def State.resetCore (s : State) (k : Nat) : State :=
  let s := s.failOn [k] stCoreReset
  if s.isCueCore k then
    (s.modCoreK k (fun c => { role := 5, home := c.home })).modCue (k / 34) (fun q => { q with busy := none, next := [], armed := false })
  else
    (s.releasePartner k).modCoreK k (fun c => c.restarted (if c.role = 5 then 5 else 3))

/-- A GLB_RST_CTRL write carries a reserved value (Table 17-9). -/
def rstBad (v : Nat) : Bool :=
  let op := fld v 28 4
  decide (5 ≤ op) || (bit v 27 && op ≠ 3) || (fld v 16 8 ≠ if op = 1 then 0xC5 else 0) ||
  (op = 4 && decide (34 ≤ fld v 10 6)) || (op = 3 && decide (8 ≤ fld v 6 4))

/-- A write of GLB_RST_CTRL (R481). -/
def State.writeRst (s : State) (w : Word) : State :=
  let v := w.toNat
  let op := fld v 28 4
  let i := fld v 6 4
  let p := fld v 10 6
  if s.boot.rstBusy || rstBad v then s.rsv
  else
    let s := s.rsvIf (decide (fld v 24 3 ≠ 0) || decide (fld v 1 5 ≠ 0))
    let go := fun (s : State) => s.modBoot (fun b => { b with rstBusy := true, rstWhat := some (BitVec.ofNat 4 op, i, p) })
    match op with
    | 1 => s.cold false
    | 2 => if s.ebtor then (go s).resetDie i else s
    | 3 => if s.ebtor then (go s).resetHub i (bit v 27) else s
    | 4 => if s.ebtor then (go s).resetCore (i * 34 + p) else s
    | _ => s

/-- The write with the OP, and for OP HUB the FORCE bit, that the row names. -/
def rstWord (v : Word) (op : Nat) (force : Bool) : Word :=
  (v &&& 0x07FFFFFF#32) ||| BitVec.ofNat 32 (op * 2 ^ 28 + b2n force * 2 ^ 27)

/-- R481: OP COLD. -/
def rstOpCold (v : Word) (s : State) : State := s.writeRst (rstWord v 1 (v.getLsbD 27))
def execRstOpCold (v : Word) (s : State) : Out State := .next (rstOpCold v s)

/-- R480: OP DIE. -/
def rstOpDie (v : Word) (s : State) : State := s.writeRst (rstWord v 2 (v.getLsbD 27))
def execRstOpDie (v : Word) (s : State) : Out State := .next (rstOpDie v s)

/-- R308: OP HUB with FORCE 0. -/
def rstOpHub (v : Word) (s : State) : State := s.writeRst (rstWord v 3 false)
def execRstOpHub (v : Word) (s : State) : Out State := .next (rstOpHub v s)

/-- R308: OP HUB with FORCE 1. -/
def rstOpHubForced (v : Word) (s : State) : State := s.writeRst (rstWord v 3 true)
def execRstOpHubForced (v : Word) (s : State) : Out State := .next (rstOpHubForced v s)

/-- R480: OP CORE. -/
def rstOpCore (v : Word) (s : State) : State := s.writeRst (rstWord v 4 (v.getLsbD 27))
def execRstOpCore (v : Word) (s : State) : Out State := .next (rstOpCore v s)

/-! ## The end of a reset -/

/-- A core of a reset die, or a reset core, comes back: fenced when its tests failed, at its logical index when that is still
vacant, else as a free stand-in. -/
def State.bringBack (s : State) (failed : Bool) (k : Nat) : State :=
  let h := (s.coreK k).home
  let vacant := h ≠ 0x3FF && (s.physical h.toNat).isNone
  if failed then (s.fence k 4 0x0A 0 0xFFFF 0).refill (if vacant then h else 0x3FF) k 0x0A
  else s.modCoreK k (fun c => { c with role := if vacant then 0 else 1, logical := if vacant then h else 0x3FF, home := 0x3FF })

/-- Bound slots are loaded again from their bundles (R443). -/
def State.reloadBundles (s : State) : State := (s.sec.wkeys.map (·.1)).foldl State.reloadBundle s

/-- The end of one kind of reset. -/
def State.endReset (s : State) (op : BitVec 4) (i p : Nat) (failed : List Nat) : State :=
  if op = 2 then
    let s := s.modDie i (fun v => { v with inReset := false })
    let s := if s.boot.dieOut.contains i then s
             else ((dieKeys i).filter (fun k => (s.coreK k).role == 5)).foldl (fun s k => s.bringBack (failed.contains k) k) s
    s.reloadBundles
  else if op = 3 then (s.modHub i (fun v => { v with inReset := false })).reloadBundles
  else
    let k := i * 34 + p
    let c := s.coreK k
    if c.role = 4 then s.fault { kind := 0x0A, outcome := 6, loc := locCore k, tidf := BitVec.ofNat 32 (b2n (failed.contains k)) }
    else if c.role = 3 && c.readmit = 0 then s.bringBack (failed.contains k) k
    else if failed.contains k && s.isCueCore k then
      (s.fence k 4 0x0A 0 0xFFFF 0).modCue i (fun q => { q with en := false, armed := false })
    else s

/-- R480: the self-tests and blotter runs end, and BUSY clears. -/
def resetComplete (failed : List CoreId) (s : State) : State :=
  match s.boot.rstWhat with
  | none => s
  | some (op, i, p) =>
    (((s.modBoot (fun b => { b with rstBusy := false, rstWhat := none })).endReset op i p (failed.map CoreId.key)).memoryBack).kickPrograms
def execResetComplete (failed : List CoreId) (s : State) : Out State := .next (resetComplete failed s)

end Sys2Proof.Machine
end

