-- ==== Sys2Proof/Machine/Fwu.lean ====
section
/-!
DEFINITION. Firmware update (R474 to R478, R442): the OPs of GLB_FWU_CTRL, the activation window, and its end.
-/
namespace Sys2Proof.Machine

/-- The ERR codes of Table 17-5. -/
def fwuSignature : BitVec 4 := 1
def fwuSvn : BitVec 4 := 2
def fwuNoPending : BitVec 4 := 3
def fwuLoader : BitVec 4 := 4
def fwuQuiesce : BitVec 4 := 5
def fwuActFail : BitVec 4 := 6
def fwuFlash : BitVec 4 := 7
def fwuState : BitVec 4 := 8

/-- A write of GLB_FWU_CTRL with an OP begins it; one while BUSY is ignored and counted (R474). -/
def State.beginFwu (s : State) (op : BitVec 4) (g : State → State) : State :=
  if s.boot.fwuBusy then s.rsv
  else if !s.ebtor then s
  else g (s.modBoot (fun b => { b with fwuBusy := true, fwuOp := op, fwuResult := 0 }))

/-- The OP's outcome, reported when it ends. -/
def State.fwuOutcome (s : State) (e : BitVec 4) : State := s.modBoot (fun b => { b with fwuResult := e })

/-- R475: the checks of R472, then the image goes to the bank that is not running, its header last. -/
def fwuStage (img : ImageInfo) (s : State) : State :=
  s.beginFwu 1 (fun s =>
    if !(img.headerOk && img.sigOk && img.digestsOk) then s.fwuOutcome fwuSignature
    else if img.svn.toNat < s.boot.minSvn.toNat then s.fwuOutcome fwuSvn
    else
      let seq := ((s.boot.running.map (·.seq)).getD 0) + 1
      s.modBoot (fun b => { b.setImage (!b.bank) none with
        fwuPending := false,
        fwuImage := some { seq := seq, version := img.version, svn := img.svn, state := 0, raise := img.raise, digests := img.digests,
                           board := img.board } }))
def execFwuStage (img : ImageInfo) (s : State) : Out State := .next (fwuStage img s)

/-- R476: dispatch stops; the window opens when every dispatched shot has completed. -/
def fwuActivate (s : State) : State :=
  s.beginFwu 2 (fun s =>
    let loader := fun (h : Option ImageHeader) => h.map (fun h => h.digests.getD 0 0)
    if !s.boot.fwuPending then s.fwuOutcome fwuNoPending
    else if loader s.boot.other != loader s.boot.running then s.fwuOutcome fwuLoader
    else (s.modBoot (fun b => { b with quiescing := true, switched := false })).openWindow)
def execFwuActivate (s : State) : Out State := .next (fwuActivate s)

/-- R478: the running TRIAL image becomes CONFIRMED. -/
def fwuConfirm (s : State) : State :=
  s.beginFwu 3 (fun s => if s.boot.running.any (fun h => h.state == 1) then s else s.fwuOutcome fwuState)
def execFwuConfirm (s : State) : Out State := .next (fwuConfirm s)

/-- R475: the other bank becomes pending when its image is CONFIRMED. -/
def fwuRevert (s : State) : State :=
  s.beginFwu 4 (fun s => if s.boot.other.any (fun h => h.valid && h.state == 2) then s else s.fwuOutcome fwuState)
def execFwuRevert (s : State) : Out State := .next (fwuRevert s)

/-- R475: the staged image becomes INVALID. -/
def fwuCancel (s : State) : State :=
  s.beginFwu 5 (fun s => if s.boot.fwuPending then s else s.fwuOutcome fwuNoPending)
def execFwuCancel (s : State) : Out State := .next (fwuCancel s)

/-- What an OP writes to flash when it ends well (R475, R478). -/
def Boot.commitOp (b : Boot) : Boot :=
  let other := !b.bank
  match b.fwuOp.toNat with
  | 1 => { b.setImage other b.fwuImage with fwuPending := true, fwuImage := none }
  | 3 =>
    let h := b.running
    { b.setImage b.bank (h.map (fun (h : ImageHeader) => { h with state := 2 })) with
      trial := false,
      minSvn := match h with | some h => if h.raise && decide (b.minSvn.toNat < h.svn.toNat) then h.svn else b.minSvn | none => b.minSvn }
  | 4 => { b.setImage other (b.other.map (fun (h : ImageHeader) => { h with seq := ((b.running.map (·.seq)).getD 0) + 1 })) with
           fwuPending := true }
  | 5 => { b.setImage other (b.other.map (fun (h : ImageHeader) => { h with state := 3 })) with fwuPending := false }
  | _ => b

/-- R475, R478: the OP ends, ERR is set and BUSY clears; a flash failure leaves the running bank unchanged. An ACTIVATE in progress
does not end here. -/
def fwuOpComplete (flashOk : Bool) (s : State) : State :=
  let b := s.boot
  if !b.fwuBusy || b.quiescing || b.fwuActivating then s
  else
    let writes := b.fwuResult = 0 && b.fwuOp ≠ 2
    let err := if writes && !flashOk then fwuFlash else b.fwuResult
    s.modBoot (fun b =>
      { (if writes && flashOk then b.commitOp else b) with fwuErr := err, fwuBusy := false, fwuOp := 0, fwuResult := 0, fwuImage := none })
def execFwuOpComplete (flashOk : Bool) (s : State) : Out State := .next (fwuOpComplete flashOk s)

/-! ## The activation window -/

/-- R476: 10 s have passed and a dispatched shot has not completed. -/
def quiesce (s : State) : State :=
  if s.boot.quiescing && !s.boot.fwuActivating then
    s.modBoot (fun b => { b with quiescing := false, fwuResult := fwuQuiesce })
  else s
def execQuiesce (s : State) : Out State := .next (quiesce s)

/-- The staged image runs from now on (Table 17-6): TRIAL with ATTEMPTS = 1, measured, its key written. -/
def State.runStaged (s : State) : State :=
  match s.boot.other with
  | none => s
  | some h =>
    if !s.boot.fwuPending then s
    else
      let h : ImageHeader := { h with state := 1, attempts := 1 }
      ((s.modBoot (fun b => { b.setImage (!b.bank) (some h) with bank := !b.bank, fwuPending := false, trial := true })).measure h).writeContKey h

/-- Table 17-6, 25 ms: the former standby becomes active; TAKEOVERS is not incremented. -/
def activationSwitch (s : State) : State :=
  if s.boot.fwuActivating && !s.boot.switched && s.ebtor then
    let a := s.activeCd
    let s := ((s.modCd (1 - a) (fun c => { c with ok := true })).modCd a (fun c => { c with ok := false })).modGlb
      (fun g => { g with active := if a = 0 then 2 else 1 })
    (s.runStaged).modBoot (fun b => { b with switched := true })
  else s
def execActivationSwitch (s : State) : Out State := .next (activationSwitch s)

/-- The window closes, dispatch resumes, and a warm reset that waited takes effect (R476, Table 17-10). -/
def State.closeWindow (s : State) : State :=
  let s := s.modBoot (fun b => { b with fwuActivating := false, quiescing := false, switched := false })
  if s.boot.warmPending then s.warm else s

/-- R477: the new runtime is not active by 30 ms. -/
def actFail (s : State) : State :=
  if s.boot.fwuActivating && !s.boot.switched then
    (s.modBoot (fun b =>
      { b.setImage (!b.bank) (b.other.map (fun (h : ImageHeader) => { h with state := 3 })) with
        fwuPending := false, fwuResult := fwuActFail })).closeWindow
  else s
def execActFail (s : State) : Out State := .next (actFail s)

/-- R442, 50 ms: sessions end, sealed slots are revoked, bundles are loaded again, tenants without KEEP_ON_UPDATE end, ACTIVATED is
posted; the former active die has joined as standby. -/
def activationWindowClose (s : State) : State :=
  if s.boot.fwuActivating && s.boot.switched then
    let s := ((s.sec.wkeys.filter (fun k => !k.2.bound)).map (·.1)).foldl (State.revoke · 3) s
    let s := s.modSec (fun x => { x with sessions := [] })
    let s := s.reloadBundles
    let s := ((List.range 64).filter (fun t => decide (0 < t) && (s.tenant t).opened && !(s.tenant t).keep)).foldl
      (fun s t => s.closeTenant (BitVec.ofNat 6 t)) s
    let s := s.post 31 (eventWord 3 (s.glb.contKey.toNat % 2 ^ 32))
    let s := (s.modCd 0 (fun c => { c with ok := true })).modCd 1 (fun c => { c with ok := true })
    s.closeWindow
  else s
def execActivationWindowClose (s : State) : Out State := .next (activationWindowClose s)

end Sys2Proof.Machine
end

