-- ==== Sys2Proof/Machine/RegMap.lean ====
section
/-!
DEFINITION. The register map of BAR0 (R487) and what a read of each register returns (R10, Table 0-3): reads have no row of their own
but for the ones with an effect.
-/
namespace Sys2Proof.Machine

/-- A register of BAR0, with the number of its unit. A core's unit is its key, a group's second number counts its registers. -/
inductive Reg where
  | partId | cdStatus | deviceId | memCfg | clap | clapCfg | clapStat | contKey | bootStatus | rstCtrl | fwuAddr | fwuCtrl | rsvWrites
  | cntCtrl | admDone (r : Nat) | flogBase | flogHead | flogLost | hwin (i : Nat)
  | reelRing (n : Nat) | reelCfg (n : Nat) | reelJob (n : Nat) | reelHead (n : Nat) | reelTail (n : Nat) | reelStat (n : Nat)
  | reelCtrl (n : Nat) | reelNextSeq (n : Nat) | reelFlSeq (n : Nat) | reelFlDrop (n : Nat) | reelDbRej (n : Nat)
  | margin (d : Nat) | lagCfg (d : Nat) | cueCfg (d : Nat) | cueDb (d : Nat) | cueMb (d : Nat) | cueRej (d : Nat) | cueX (d i : Nat)
  | cueRes (d i : Nat)
  | mxStatus (k : Nat) | coreCtr (k i : Nat) | pgStatus (k : Nat) | pgFaultIw (k : Nat) | pgWdog (k : Nat) | rasState (k : Nat)
  | hubCtrl (h : Nat) | rprCmd (h : Nat) | rprAddr (h : Nat) | rprBuf (h : Nat) | hubCtr (h i : Nat)
  | portStatus (p : Nat) | portCtrl (p : Nat) | portCtr (p i : Nat) | lnkLag | route (i : Nat) | edgTables
  | pwrBudget | pwrRamp | pwrPlan | pwrStatus | pwrExcursions | planMiss | pltCfg | pltStatus | tstDaily | rngStatus
deriving DecidableEq, Repr

/-- 64-bit registers. -/
def Reg.wide : Reg → Bool
  | .clap | .contKey | .fwuAddr | .rsvWrites | .admDone _ | .flogBase | .flogLost | .hwin _ | .reelRing _ | .cueCfg _ | .cueDb _ | .cueMb _
  | .coreCtr .. | .pgFaultIw _ | .rprAddr _ | .rprBuf _ | .hubCtr .. | .portCtr .. | .edgTables | .pwrPlan | .pwrExcursions
  | .planMiss => true
  | _ => false

/-- GLB block, but for the reels. -/
def glbReg (o : Nat) : Option Reg :=
  match o with
  | 0x00 => some .partId | 0x08 => some .cdStatus | 0x10 => some .deviceId | 0x18 => some .memCfg | 0x20 => some .clap
  | 0x28 => some .clapCfg | 0x2C => some .clapStat | 0x30 => some .contKey | 0x40 => some .bootStatus | 0x48 => some .rstCtrl
  | 0x50 => some .fwuAddr | 0x58 => some .fwuCtrl | 0x60 => some .rsvWrites | 0x68 => some .cntCtrl
  | 0x100 => some (.admDone 0) | 0x108 => some (.admDone 1) | 0x200 => some .flogBase | 0x208 => some .flogHead
  | 0x210 => some .flogLost
  | _ => if 0x2000 ≤ o ∧ o < 0x2400 ∧ o % 8 = 0 then some (.hwin ((o - 0x2000) / 8)) else none

/-- A reel's registers (Table 10-9). -/
def reelReg (n o : Nat) : Option Reg :=
  match o with
  | 0x00 => some (.reelRing n) | 0x08 => some (.reelCfg n) | 0x0C => some (.reelJob n) | 0x10 => some (.reelHead n)
  | 0x14 => some (.reelTail n) | 0x18 => some (.reelStat n) | 0x1C => some (.reelCtrl n) | 0x20 => some (.reelNextSeq n)
  | 0x24 => some (.reelFlSeq n) | 0x28 => some (.reelFlDrop n) | 0x2C => some (.reelDbRej n)
  | _ => none

/-- Counters of a core by their number (Tables 4-11, 5-11, 6-11, 9-20, 12-16). -/
def coreCtrAt (o : Nat) : Option Nat :=
  if 0x210 ≤ o ∧ o ≤ 0x240 ∧ o % 8 = 0 then some ((o - 0x210) / 8)
  else if 0x300 ≤ o ∧ o ≤ 0x328 ∧ o % 8 = 0 then some (7 + (o - 0x300) / 8)
  else if o = 0x418 then some 13 else if o = 0x420 then some 14
  else if 0x508 ≤ o ∧ o ≤ 0x528 ∧ o % 8 = 0 then some (15 + (o - 0x508) / 8) else none

/-- A core's window (R122). -/
def coreReg (k o : Nat) : Option Reg :=
  match o with
  | 0x200 => some (.mxStatus k) | 0x400 => some (.pgStatus k) | 0x408 => some (.pgFaultIw k) | 0x410 => some (.pgWdog k)
  | 0x500 => some (.rasState k)
  | _ => (coreCtrAt o).map (.coreCtr k)

/-- A compute die's window, its cores among it. -/
def dieReg (d o : Nat) : Option Reg :=
  if 0x10000 ≤ o ∧ o < 0x10000 + 34 * 0x1000 then coreReg (d * 34 + (o - 0x10000) / 0x1000) (o % 0x1000)
  else if 0x900 ≤ o ∧ o < 0xA00 then some (.cueX d ((o - 0x900) / 4))
  else if 0xA00 ≤ o ∧ o < 0xA80 then some (.cueRes d ((o - 0xA00) / 4))
  else match o with
    | 0x100 => some (.margin d) | 0x108 => some (.lagCfg d) | 0x800 => some (.cueCfg d) | 0x808 => some (.cueDb d)
    | 0x810 => some (.cueMb d) | 0x818 => some (.cueRej d)
    | _ => none

/-- A hub's window. -/
def hubReg (h o : Nat) : Option Reg :=
  match o with
  | 0x000 => some (.hubCtrl h) | 0x100 => some (.rprCmd h) | 0x108 => some (.rprAddr h) | 0x110 => some (.rprBuf h)
  | _ => if 0x200 ≤ o ∧ o ≤ 0x238 ∧ o % 8 = 0 then some (.hubCtr h ((o - 0x200) / 8)) else none

/-- The link block. -/
def linkReg (o : Nat) : Option Reg :=
  if o < 20 * 0x1000 then
    let p := o / 0x1000
    match o % 0x1000 with
    | 0x000 => some (.portStatus p) | 0x008 => some (.portCtrl p)
    | x => if 0x100 ≤ x ∧ x ≤ 0x130 ∧ x % 8 = 0 then some (.portCtr p ((x - 0x100) / 8)) else none
  else if o = 0x20000 then some .lnkLag
  else if 0x20100 ≤ o ∧ o < 0x20200 then some (.route ((o - 0x20100) / 4)) else none

/-- PWR and PLT. -/
def pwrReg (o : Nat) : Option Reg :=
  match o with
  | 0x00 => some .pwrBudget | 0x08 => some .pwrRamp | 0x10 => some .pwrPlan | 0x18 => some .pwrStatus | 0x20 => some .pwrExcursions
  | 0x28 => some .planMiss | 0x100 => some .pltCfg | 0x108 => some .pltStatus
  | _ => none

/-- The register whose first byte stands at a BAR0 offset (Table 18-2). -/
def regStart (off : Nat) : Option Reg :=
  if off < 0x100000 then glbReg off
  else if off < 0x110000 then reelReg ((off - 0x100000) / 0x40) (off % 0x40)
  else if 0x1000000 ≤ off ∧ off < 0x2000000 then dieReg ((off - 0x1000000) / 0x100000) (off % 0x100000)
  else if 0x2000000 ≤ off ∧ off < 0x2400000 then hubReg ((off - 0x2000000) / 0x80000) (off % 0x80000)
  else if 0x2800000 ≤ off ∧ off < 0x2900000 then linkReg (off - 0x2800000)
  else if off = 0x2900000 then some .edgTables
  else if 0x3100000 ≤ off ∧ off < 0x3200000 then pwrReg (off - 0x3100000)
  else if off = 0x3200000 then some .tstDaily
  else if off = 0x3300000 then some .rngStatus else none

/-- What stands at a 4-byte slot: a register, and whether the slot is its upper half. -/
def regAt (off : Nat) : Option (Reg × Bool) :=
  match regStart off with
  | some r => some (r, false)
  | none => match (if 4 ≤ off then regStart (off - 4) else none) with
    | some r => if r.wide then some (r, true) else none
    | none => none

/-! ## Reads -/

/-- Counter i of a core. -/
def Core.counter (c : Core) : Nat → Dword
  | 0 => c.mxTiles | 1 => c.mxRowcyc | 2 => c.mxMacs | 3 => c.mxStall | 4 => c.mxDiscard | 5 => c.spSkipTile | 6 => c.spSkipRow
  | 7 => c.peQelems | 8 => c.peStall | 9 => c.epElems | 10 => c.vxInstr | 11 => c.vxBusy | 12 => c.orgFills
  | 13 => c.pgIssued | 14 => c.pgCuts | 15 => c.mxMism | 16 => c.vxMism | 17 => c.retakes | 18 => c.slowTile | 19 => c.slateErr
  | _ => 0

/-- Counter i of a hub (Table 11-14); number 3 is HUB_POISON_N. -/
def Hub.counter (h : Hub) : Nat → Dword
  | 0 => h.odce | 1 => h.ce | 2 => h.ue | 3 => BitVec.ofNat 64 (h.poison.length + h.lost.length) | 4 => h.refPost | 5 => h.vltHit
  | 6 => h.vltMiss | 7 => h.scrubPass
  | _ => 0

/-- Counter i of a port (Table 13-9). -/
def Port.counter (p : Port) : Nat → Dword
  | 0 => p.flitsTx | 1 => p.flitsRx | 2 => p.retries | 3 => p.fecCorr | 4 => p.fecUnc | 5 => p.laneDrops | 6 => p.dropped
  | _ => 0

/-- GLB_REEL_STAT WAITING: the head shot waits on a fence, a flag, a count or a step boundary. -/
def State.reelWaiting (s : State) (n : Nat) : Bool :=
  s.barred n || (match (s.reel n).ready with | some sh => !s.fencesOpen n sh | none => false)

/-- The value a register holds, as a read returns it: WO and RSV fields are 0, an RW field reads the value last written, which may wait for
its step boundary (R10, R11). -/
def State.regVal (s : State) : Reg → Nat
  | .partId => 0x4E4B0000 + s.boot.stepping.toNat * 2 ^ 8
  | .cdStatus => s.glb.takeovers.toNat * 2 ^ 16 + b2n (s.cd 1).ok * 8 + b2n (s.cd 0).ok * 4 + s.glb.active.toNat
  | .deviceId => b2n s.glb.idLock * 2 ^ 31 + s.glb.devId.toNat
  | .memCfg => b2n s.glb.memBusy * 2 ^ 31 + s.glb.pin64.toNat
  | .clap => s.clap.count.toNat
  | .clapCfg => s.clap.role.toNat * 2 ^ 30 + s.clap.ptpDom.toNat * 2 ^ 16 + b2n s.clap.auto * 2 ^ 5 + s.clap.parent.toNat
  | .clapStat => s.clap.state.toNat * 2 ^ 29 + s.clap.depth.toNat * 2 ^ 26 + s.clap.offset.toNat
  | .contKey => s.glb.contKey.toNat
  | .bootStatus =>
    b2n s.boot.done * 2 ^ 31 + b2n s.boot.failed * 2 ^ 30 + b2n s.boot.bank * 2 ^ 29 + b2n s.boot.fallback * 2 ^ 28 +
    s.boot.err.toNat * 2 ^ 24 + b2n s.boot.trial * 2 ^ 23 + s.boot.stage.toNat
  | .rstCtrl => b2n s.boot.rstBusy
  | .fwuAddr => s.boot.fwuAddr.toNat
  | .fwuCtrl => s.boot.fwuErr.toNat * 2 ^ 8 + b2n s.boot.fwuPending * 4 + b2n s.boot.fwuActivating * 2 + b2n s.boot.fwuBusy
  | .rsvWrites => s.glb.rsvWrites.toNat
  | .cntCtrl => 0
  | .admDone r => match (s.glb.lastDone.getD r none) with | some q => 2 ^ 32 + q.toNat | none => 0
  | .flogBase => s.glb.flogBase.toNat
  | .flogHead => s.glb.flogHead.toNat
  | .flogLost => s.glb.flogLost.toNat
  | .hwin i => (tget (fun _ => (0 : Dword)) s.glb.hwin i).toNat
  | .reelRing n => b2n (s.reel n).loc * 2 ^ 63 + (s.reel n).base.toNat
  | .reelCfg n =>
    let r := s.reel n
    r.notifyMb.toNat * 2 ^ 24 + (r.checkNext.getD r.check).toNat * 2 ^ 12 + b2n r.en * 2 ^ 11 + r.owner.toNat * 2 ^ 9 + b2n r.admin * 2 ^ 8 +
    b2n r.eval * 2 ^ 7 + b2n r.preempt * 2 ^ 6 + r.prio.toNat * 2 ^ 4 + r.size.toNat
  | .reelJob n => (s.reel n).job.toNat
  | .reelHead n => (s.reel n).head.toNat
  | .reelTail n => (s.reel n).tail.toNat
  | .reelStat n => (s.reel n).epoch.toNat * 2 ^ 16 + b2n (s.reel n).part * 4 + b2n (s.reelWaiting n) * 2 + b2n (s.reel n).held
  | .reelCtrl _ => 0
  | .reelNextSeq n => (s.reel n).nextSeq.toNat
  | .reelFlSeq n => (s.reel n).flSeq.toNat
  | .reelFlDrop n => (s.reel n).flDrop.toNat
  | .reelDbRej n => (s.reel n).dbRej.toNat
  | .margin d =>
    let v := s.die d
    v.fmaxFuse.toNat * 2 ^ 24 + v.fmax.toNat * 2 ^ 16 + v.slack.toNat * 2 ^ 8 + v.vofs.toNat * 2 ^ 4 + b2n v.lost
  | .lagCfg d => b2n (s.die d).lagSwap * 2 ^ 24 + (s.die d).lagThresh.toNat * 2 ^ 16 + (s.die d).lagCount.toNat
  | .cueCfg d =>
    let q := (s.die d).cue
    b2n (q.enNext.getD q.en) * 2 ^ 63 + b2n q.armed * 2 ^ 61 + q.armErr.toNat * 2 ^ 56 + q.core.toNat * 2 ^ 50 + q.desc.toNat
  | .cueDb _ => 0
  | .cueMb d => let q := (s.die d).cue; b2n q.full * 2 ^ 63 + q.flags.toNat * 2 ^ 32 + q.seq.toNat
  | .cueRej d => (s.die d).cue.rej.toNat
  | .cueX d i => leNat (tread (s.die d).cue.x (4 * i) 4)
  | .cueRes d i => (tget (fun _ => (0 : Word)) (s.die d).cue.res i).toNat
  | .mxStatus k =>
    let m := (s.coreK k).mx
    m.rows.toNat * 2 ^ 16 + m.sfmt.toNat * 2 ^ 12 + m.acc.toNat * 2 ^ 10 + b2n m.shadow.isSome * 2 ^ 9 + b2n m.drains * 2 ^ 8 + m.state.toNat
  | .coreCtr k i => ((s.coreK k).counter i).toNat
  | .pgStatus k => (s.coreK k).fstat.toNat * 2 ^ 16 + (s.coreK k).fpc.toNat * 2 ^ 3 + (s.coreK k).pstate.toNat
  | .pgFaultIw k => (s.coreK k).faultIw.toNat
  | .pgWdog k => (s.coreK k).wdog.toNat
  | .rasState k => (s.coreK k).logical.toNat * 2 ^ 20 + (s.coreK k).fcause.toNat * 2 ^ 16 + (s.coreK k).role.toNat
  | .hubCtrl h => (s.hub h).scrubH.toNat * 2 ^ 24 + (s.hub h).age.toNat * 2 ^ 16 + (s.hub h).cap0.toNat * 2 + b2n (s.hub h).hot
  | .rprCmd h => (s.hub h).rprResult.toNat * 2 ^ 8 + b2n (s.hub h).rprBusy
  | .rprAddr h => (s.hub h).rprAddr.toNat
  | .rprBuf h => (s.hub h).rprBuf.toNat
  | .hubCtr h i => ((s.hub h).counter i).toNat
  | .portStatus p =>
    let q := s.port p
    q.peerId.toNat * 2 ^ 16 + q.lanes.toNat * 2 ^ 12 + q.peerPort.toNat % 16 * 2 ^ 8 + q.peerPort.toNat / 16 * 2 ^ 7 + b2n q.lag * 2 ^ 6 +
    q.state.toNat
  | .portCtrl p => b2n (s.port p).en
  | .portCtr p i => ((s.port p).counter i).toNat
  | .lnkLag => s.links.retryExp.toNat * 2 ^ 24 + b2n s.links.reroute
  | .route i =>
    let r := s.route i
    b2n r.valid * 2 ^ 31 + b2n r.onAlt * 2 ^ 30 + r.alt.toNat * 2 ^ 8 + r.pri.toNat
  | .edgTables => s.links.edgBase.toNat
  | .pwrBudget => s.pwr.thr.toNat * 2 ^ 16 + s.pwr.cap.toNat
  | .pwrRamp => s.pwr.dstep.toNat * 2 ^ 22 + s.pwr.rampDn.toNat * 2 ^ 11 + s.pwr.rampUp.toNat
  | .pwrPlan => (s.pwr.planAsk.getD s.pwr.planAddr).toNat
  | .pwrStatus =>
    s.pwr.power.toNat * 2 ^ 20 + (if s.ebtor then min s.granted 4095 else 0) * 2 ^ 8 + b2n s.pwr.throttle * 2 ^ 7 +
    b2n (!s.pwr.excur.isEmpty) * 2 ^ 6 + b2n s.pwr.rampShort * 2 ^ 5 + b2n s.pwr.plan.isSome * 2 ^ 4 + b2n s.pwr.planRej * 2 ^ 3
  | .pwrExcursions => s.pwr.excursions.toNat
  | .planMiss => s.pwr.planMiss.toNat
  | .pltCfg =>
    s.pwr.toutSet.toNat * 2 ^ 24 + s.pwr.tinMax.toNat * 2 ^ 16 + s.pwr.flowMin.toNat * 2 ^ 8 + s.pwr.flead.toNat * 2 + b2n s.pwr.valveAuto
  | .pltStatus =>
    s.pwr.tin.toNat * 2 ^ 24 + s.pwr.tout.toNat * 2 ^ 16 + s.pwr.flow.toNat * 2 ^ 8 + s.pwr.valve.toNat * 2 + b2n s.pwr.snsOk
  | .tstDaily => s.glb.period.toNat * 2 ^ 24 + s.glb.deferMax.toNat * 2 ^ 16 + b2n s.glb.dailyEn
  | .rngStatus =>
    let c := s.cd s.activeCd
    c.fails.toNat * 2 ^ 24 + b2n s.glb.lkat * 2 ^ 12 + c.pool.toNat * 4 + c.entState.toNat

/-- A 4-byte slot as a read returns it: the addressed half of a 64-bit register, 0 where no block defines one (R488). -/
def State.slotVal (s : State) (off : Nat) : Nat :=
  match regAt off with
  | none => 0
  | some (r, hi) => if hi then s.regVal r / 2 ^ 32 else s.regVal r % 2 ^ 32

/-- A BAR0 read (R488); `none` where it completes with completer abort. -/
def State.barRead (s : State) (off size : Nat) : Option Dword :=
  if (size = 4 || size = 8) && off % size = 0 && decide (off + size ≤ 0x4000000) then
    some (BitVec.ofNat 64 (if size = 4 then s.slotVal off else s.slotVal off + s.slotVal (off + 4) * 2 ^ 32))
  else none

end Sys2Proof.Machine
end

