-- ==== Sys2Proof/Machine/Regs.lean ====
section
/-!
DEFINITION. Writes of BAR0 registers (R10 to R12, R488): the registers with a row of their own and all others.
-/
namespace Sys2Proof.Machine

/-! ## GLB -/

/-- R289, Table 11-2. -/
def glbDeviceIdWrite (v : Word) (s : State) : State :=
  (s.rsvIf (decide (fld v.toNat 16 15 ≠ 0))).modGlb (fun g =>
    if g.idLock then g else { g with devId := v.setWidth 16, idLock := v.getLsbD 31 })
def execGlbDeviceIdWrite (v : Word) (s : State) : Out State := .next (glbDeviceIdWrite v s)

/-- R292, Table 11-3: ignored while a reel has EN = 1 or BUSY = 1; a change makes every slate UNWRITTEN. -/
def glbMemCfgWrite (v : Word) (s : State) : State :=
  let p := v.toNat % 512
  if 256 < p then s.rsv
  else
    let s := s.rsvIf (decide (fld v.toNat 9 22 ≠ 0))
    if s.anyReel || s.glb.memBusy || s.glb.pin64.toNat = p then s
    else (s.modGlb (fun g => { g with pin64 := BitVec.ofNat 9 p, memBusy := true })).modHbm (fun m => { m with slates := [] })
def execGlbMemCfgWrite (v : Word) (s : State) : Out State := .next (glbMemCfgWrite v s)

/-- R292: BUSY clears and the memory requests that waited are served. -/
def slateReinitComplete (s : State) : State := (s.modGlb (fun g => { g with memBusy := false })).memoryBack
def execSlateReinitComplete (s : State) : Out State := .next (slateReinitComplete s)

/-- The counters of R125 of a core, a hub and a port at 0. -/
def Core.cleared (c : Core) : Core :=
  { c with mxTiles := 0, mxRowcyc := 0, mxMacs := 0, mxStall := 0, mxDiscard := 0, spSkipTile := 0, spSkipRow := 0, peQelems := 0,
           peStall := 0, epElems := 0, vxInstr := 0, vxBusy := 0, orgFills := 0, pgIssued := 0, pgCuts := 0, mxMism := 0, vxMism := 0,
           retakes := 0, slowTile := 0, slateErr := 0 }
def Hub.cleared (h : Hub) : Hub :=
  { h with odce := 0, ce := 0, ue := 0, refPost := 0, vltHit := 0, vltMiss := 0, scrubPass := 0 }
def Port.cleared (p : Port) : Port :=
  { p with flitsTx := 0, flitsRx := 0, retries := 0, fecCorr := 0, fecUnc := 0, laneDrops := 0, dropped := 0 }

/-- R508: every counter that follows R125, GLB_RSV_WRITES among them, at one instant. -/
def clear (s : State) : State :=
  { s with
    cores := s.cores.map (fun c => (c.1, c.2.cleared)), hubs := s.hubs.map (fun h => (h.1, h.2.cleared)),
    links := { s.links with ports := s.links.ports.map (fun p => (p.1, p.2.cleared)) },
    pwr := { s.pwr with excursions := 0, planMiss := 0 }, glb := { s.glb with rsvWrites := 0, flogLost := 0 } }
def execClear (s : State) : Out State := .next (clear s)

/-- GLB_HWIN (Table 11-4). -/
def State.writeHwin (s : State) (i v : Nat) : State :=
  (s.rsvIf (decide (fld v 1 30 ≠ 0))).modGlb (fun g =>
    { g with hwin := tset g.hwin i (BitVec.ofNat 64 (v / 2 ^ 31 * 2 ^ 31 + v % 2)) })

/-! ## Reels -/

/-- GLB_REEL_RING (Table 10-9, R273). -/
def State.writeRing (s : State) (n v : Nat) : State :=
  let r := s.reel n
  if r.en then s
  else
    let loc := bit v 63
    let low := if loc then fld v 12 51 else fld v 12 28
    (s.rsvIf (decide (fld v 0 12 ≠ 0) || (!loc && decide (fld v 40 23 ≠ 0)) || (loc && r.owner = 2))).setReel n
      { r with loc := loc && r.owner ≠ 2, base := BitVec.ofNat 63 (low * 2 ^ 12) }

/-- GLB_REEL_JOB and GLB_REEL_NEXTSEQ (R273). -/
def State.writeReel (s : State) (n : Nat) (g : Reel → Reel) : State := if (s.reel n).en then s else s.modReel n g

/-- GLB_REEL_CTRL (Table 10-9): FLUSH, then RELEASE. -/
def State.writeReelCtrl (s : State) (n v : Nat) : State :=
  let s := s.rsvIf (decide (4 ≤ v))
  let s := if bit v 0 then s.flushReel n else s
  if bit v 1 then release (Fin.ofNat 1024 n) s else s

/-! ## Dies and hubs -/

/-- DIE_LAG_CFG (R340). -/
def State.writeLagCfg (s : State) (d v : Nat) : State :=
  if outside (fld v 16 8) 1 100 || v % 65536 = 0 then s.rsv
  else (s.rsvIf (decide (fld v 25 7 ≠ 0))).modDie d (fun x =>
    { x with lagSwap := bit v 24, lagThresh := BitVec.ofNat 8 (fld v 16 8), lagCount := BitVec.ofNat 16 v })

/-- HUB_CTRL (R306). -/
def State.writeHubCtrl (s : State) (h v : Nat) : State :=
  if fld v 16 8 = 0 || fld v 1 3 = 0 then s.rsv
  else (s.rsvIf (decide (fld v 4 12 ≠ 0))).modHub h (fun x =>
    { x with scrubH := BitVec.ofNat 8 (fld v 24 8), age := BitVec.ofNat 8 (fld v 16 8), cap0 := BitVec.ofNat 3 (fld v 1 3) })

/-! ## Links -/

/-- LNK_PORT_CTRL (Table 13-7): EN, then RETRAIN. -/
def State.writePortCtrl (s : State) (p v : Nat) : State :=
  let s := s.rsvIf (decide (4 ≤ v))
  let was := (s.port p).en
  let s := s.modPort p (fun q => { q with en := bit v 0 })
  if !bit v 0 then (if was then (s.portDown p 4).abortUnreachable else s)
  else if bit v 1 || !was then (s.portTrain p).abortUnreachable else s

/-- R362: the port is retrained at full width. -/
def retrain (p : Fin 20) (s : State) : State := s.writePortCtrl p.val (b2n (s.port p.val).en + 2)
def execRetrain (p : Fin 20) (s : State) : Out State := .next (retrain p s)

/-- LNK_LAG_CFG (Table 13-8). -/
def State.writeLnkLag (s : State) (v : Nat) : State :=
  if outside (fld v 24 8) 8 40 then s.rsv
  else (s.rsvIf (decide (fld v 1 23 ≠ 0))).modLinks (fun l =>
    { l with retryExp := BitVec.ofNat 8 (fld v 24 8), reroute := bit v 0 })

/-- LNK_ROUTE (Table 13-12). -/
def State.writeRoute (s : State) (i v : Nat) : State :=
  let alt := fld v 8 5
  if (20 ≤ alt && alt ≠ 31) || 20 ≤ v % 32 then s.rsv
  else (((s.rsvIf (decide (fld v 13 17 ≠ 0) || decide (fld v 5 3 ≠ 0))).modRoute i (fun _ =>
    { valid := bit v 31, onAlt := false, alt := BitVec.ofNat 5 alt, pri := BitVec.ofNat 5 v })).reroute).abortUnreachable

/-- R374: the area is read once its hub and a control die serve. -/
def edgTablesWrite (v : Dword) (s : State) : State :=
  ((s.rsvIf (decide (fld v.toNat 40 24 ≠ 0))).modLinks (fun l => { l with edgBase := v.setWidth 40, edgAsk := true })).edgDue
def execEdgTablesWrite (v : Dword) (s : State) : Out State := .next (edgTablesWrite v s)

/-! ## Power -/

/-- R454: a plan is checked once its hub and a control die serve, and waits for its job's step boundary; 0 clears the plan then. -/
def pwrPlanWrite (v : Dword) (s : State) : State :=
  ((s.rsvIf (decide (fld v.toNat 40 24 ≠ 0))).modPwr (fun p => { p with planAsk := some (v.setWidth 40) })).planDue
def execPwrPlanWrite (v : Dword) (s : State) : Out State := .next (pwrPlanWrite v s)

/-- PWR_BUDGET (Table 16-4). -/
def State.writeBudget (s : State) (v : Nat) : State :=
  if outside (v % 65536) 500 3600 || outside (fld v 16 16) 500 (v % 65536) then s.rsv
  else s.modPwr (fun p => { p with thr := BitVec.ofNat 16 (fld v 16 16), cap := BitVec.ofNat 16 v })

/-- PWR_RAMP (Table 16-5). -/
def State.writeRamp (s : State) (v : Nat) : State :=
  if outside (fld v 22 10) 1 360 || fld v 11 11 = 0 || fld v 0 11 = 0 then s.rsv
  else s.modPwr (fun p =>
    { p with dstep := BitVec.ofNat 10 (fld v 22 10), rampDn := BitVec.ofNat 11 (fld v 11 11), rampUp := BitVec.ofNat 11 v })

/-- PLT_CFG (Table 16-8). -/
def State.writePlt (s : State) (v : Nat) : State :=
  if outside (fld v 24 8) 20 70 || outside (fld v 16 8) 10 50 || fld v 8 8 < 5 || fld v 1 7 = 0 then s.rsv
  else s.modPwr (fun p =>
    { p with toutSet := BitVec.ofNat 8 (fld v 24 8), tinMax := BitVec.ofNat 8 (fld v 16 8), flowMin := BitVec.ofNat 8 (fld v 8 8),
             flead := BitVec.ofNat 7 (fld v 1 7), valveAuto := bit v 0 })

/-- TST_DAILY_CFG (R343). -/
def State.writeDaily (s : State) (v : Nat) : State :=
  if fld v 24 8 = 0 || fld v 16 8 = 0 then s.rsv
  else (s.rsvIf (decide (fld v 1 15 ≠ 0))).modGlb (fun g =>
    { g with period := BitVec.ofNat 8 (fld v 24 8), deferMax := BitVec.ofNat 8 (fld v 16 8), dailyEn := bit v 0 })

/-! ## Firmware update -/

/-- GLB_FWU_CTRL (Table 17-5). What STAGE finds in the image comes with its own row. -/
def State.writeFwu (s : State) (v : Nat) : State :=
  let op := fld v 28 4
  if s.boot.fwuBusy || 5 < op then s.rsv
  else
    let s := s.rsvIf (decide (fld v 12 16 ≠ 0) || decide (fld v 3 5 ≠ 0))
    match op with
    | 2 => fwuActivate s
    | 3 => fwuConfirm s
    | 4 => fwuRevert s
    | 5 => fwuCancel s
    | _ => s

/-! ## One register, one access -/

/-- RSV bits of the registers whose other fields a write leaves alone. -/
def Reg.rsvMask : Reg → Nat
  | .partId => 0xFF | .cdStatus => 0xFFF0 | .clapStat => 0x03FF0000 | .bootStatus => 0x7FFF00 | .admDone _ => 0xFFFFFFFE00000000
  | .reelStat _ => 0xFFF8 | .margin _ => 0xE | .cueMb _ => 0x7FFFFFF800000000 | .mxStatus _ => 0xFF0000F8 | .rasState _ => 0xC000FFF8
  | .portStatus _ => 0x30 | .rngStatus => 0x00FFE000 | .pwrStatus => 7
  | _ => 0

/-- A write of a whole register (R10 to R12). DIE_CUE_X has its own row. -/
def State.regWrite (s : State) (r : Reg) (v : Nat) : State :=
  let w : Word := BitVec.ofNat 32 v
  match r with
  | .deviceId => glbDeviceIdWrite w s
  | .memCfg => glbMemCfgWrite w s
  | .clapCfg => s.writeClapCfg w
  | .rstCtrl => s.writeRst w
  | .fwuAddr => (s.rsvIf (decide (fld v 40 24 ≠ 0))).modBoot (fun b => { b with fwuAddr := BitVec.ofNat 40 v })
  | .fwuCtrl => s.writeFwu v
  | .cntCtrl => let s := s.rsvIf (decide (2 ≤ v)); if bit v 0 then clear s else s
  | .flogBase => (s.rsvIf (decide (fld v 40 24 ≠ 0))).modGlb (fun g => { g with flogBase := BitVec.ofNat 40 v })
  | .hwin i => s.writeHwin i v
  | .reelRing n => s.writeRing n v
  | .reelCfg n => s.writeCfg n w
  | .reelJob n => s.writeReel n (fun x => { x with job := w })
  | .reelCtrl n => s.writeReelCtrl n v
  | .reelNextSeq n => s.writeReel n (fun x => { x with nextSeq := w })
  | .lagCfg d => s.writeLagCfg d v
  | .cueCfg d => s.writeCueCfg d (BitVec.ofNat 64 v)
  | .cueDb d => dieCueDb (Fin.ofNat 16 d) (BitVec.ofNat 64 v) s
  | .cueX _ _ => s
  | .pgWdog k => s.modCoreK k (fun c => { c with wdog := w })
  | .hubCtrl h => s.writeHubCtrl h v
  | .rprCmd h => s.writeRpr h v
  | .rprAddr h => (s.rsvIf (decide (fld v 37 27 ≠ 0))).modHub h (fun x => { x with rprAddr := BitVec.ofNat 37 v })
  | .rprBuf h => (s.rsvIf (decide (fld v 40 24 ≠ 0))).modHub h (fun x => { x with rprBuf := BitVec.ofNat 40 v })
  | .portCtrl p => s.writePortCtrl p v
  | .lnkLag => s.writeLnkLag v
  | .route i => s.writeRoute i v
  | .edgTables => edgTablesWrite (BitVec.ofNat 64 v) s
  | .pwrBudget => s.writeBudget v
  | .pwrRamp => s.writeRamp v
  | .pwrPlan => pwrPlanWrite (BitVec.ofNat 64 v) s
  | .pltCfg => s.writePlt v
  | .tstDaily => s.writeDaily v
  | .partId | .cdStatus | .clap | .clapStat | .contKey | .bootStatus | .rsvWrites | .admDone _ | .flogHead | .flogLost | .reelHead _
  | .reelTail _ | .reelStat _ | .reelFlSeq _ | .reelFlDrop _ | .reelDbRej _ | .margin _ | .cueMb _ | .cueRej _ | .cueRes .. | .mxStatus _
  | .coreCtr .. | .pgStatus _ | .pgFaultIw _ | .rasState _ | .hubCtr .. | .portStatus _ | .portCtr .. | .pwrStatus | .pwrExcursions
  | .planMiss | .pltStatus | .rngStatus => s.rsvIf (decide (v &&& r.rsvMask ≠ 0))

/-- A 4-byte write of one half of a 64-bit register (R488): the other half keeps its values. A cue doorbell is rung by its lower half;
bits of the upper one are reserved. -/
def State.halfWrite (s : State) (r : Reg) (hi : Bool) (v : Nat) : State :=
  match r, hi with
  | .cueDb _, true => s.rsvIf (decide (v ≠ 0))
  -- EN and ARM stand in the upper half of DIE_CUE_CFG, and take no action here
  | .cueCfg d, false => s.modCue d (fun q => { q with desc := BitVec.ofNat 40 (q.desc.toNat / 2 ^ 32 * 2 ^ 32 + v) })
  | _, _ =>
    let old := s.regVal r
    s.regWrite r (if hi then v * 2 ^ 32 + old % 2 ^ 32 else old / 2 ^ 32 * 2 ^ 32 + v)

/-- A write of one 4-byte slot. -/
def State.slotWrite (s : State) (off v : Nat) : State :=
  match regAt off with
  | none => s.rsv
  | some (r, hi) => if r.wide then s.halfWrite r hi v else s.regWrite r v

/-- A BAR0 write (R488). Of two adjacent 32-bit registers the upper one is judged first, on the state before the write. -/
def State.barWrite (s : State) (off size v : Nat) : State :=
  if size = 4 then s.slotWrite off (v % 2 ^ 32)
  else match regAt off with
    | some (r, false) => if r.wide then s.regWrite r v else (s.slotWrite (off + 4) (v / 2 ^ 32)).slotWrite off (v % 2 ^ 32)
    | _ => (s.slotWrite (off + 4) (v / 2 ^ 32)).slotWrite off (v % 2 ^ 32)

/-- R10, R488. A poisoned write is dropped and logged (R490). -/
def registerWrite (a : BarAccess) (s : State) : State :=
  if a.poison then s.emit (.aerPoisoned a.port)
  else if (a.size = 4 || a.size = 8) && a.off % a.size = 0 && decide (a.off + a.size ≤ 0x4000000) then
    s.barWrite a.off a.size (a.val.toNat % 2 ^ (8 * a.size))
  else s.emit (.aerCompleterAbort a.port a.off)
def execRegisterWrite (a : BarAccess) (s : State) : Out State := .next (registerWrite a s)

end Sys2Proof.Machine
end

