-- ==== Sys2Proof/Machine/Pins.lean ====
section
/-!
DEFINITION. The JTAG port (R493).
-/
namespace Sys2Proof.Machine

/-- IDCODE (R493): its version is 1 on A1 and 2 on B0, and free on a reserved stepping. -/
def State.idcode (s : State) : Nat :=
  let v := if s.boot.stepping = 0xA1 then 1 else if s.boot.stepping = 0xB0 then 2 else s.freeVal.toNat % 16
  v * 2 ^ 28 + 0x4E4B * 2 ^ 12 + 0x5A3 * 2 + 1

/-- What an IEEE 1687 access to an instrument returns (R493): in LIFECYCLE production only the monitors answer, and only to a read. -/
def State.instrument (s : State) (i : Nat) : Dword :=
  if s.sec.lifecycle = 1 && !Config.isMonitor i then 0 else Config.instrument i

/-- R493: 0 BYPASS, 1 IDCODE, 2 SAMPLE/PRELOAD, 3 EXTEST, 4 an IEEE 1687 access to instrument `data`. -/
def jtagInstruction (ir : Fin 5) (data : Dword) (balls : List (Nat × Bool)) (s : State) : State :=
  let u := { s with jtag := { s.jtag with ir := ir.val, driving := ir.val = 3 } }
  match ir.val with
  | 0 => u.emit (.tdo 0)
  | 1 => (u.emit (.tdo (BitVec.ofNat 64 s.idcode))).tick
  | 2 => ({ u with jtag := { u.jtag with preload := balls } }.emit (.tdo s.freeVal)).tick
  | 3 => u
  | _ => u.emit (.tdo (s.instrument data.toNat))
def execJtagInstruction (ir : Fin 5) (data : Dword) (balls : List (Nat × Bool)) (s : State) : Out State :=
  .next (jtagInstruction ir data balls s)

end Sys2Proof.Machine
end

