-- ==== Sys2Proof/Machine/Issue.lean ====
section
/-!
DEFINITION. What every core instruction shares: arriving chunks (R174, R248), the engines and their queues (R231 to R233), the checks at
issue in their order, precise faults, the end of an instruction (R236, R249), the duplicated pair of R326.
-/
namespace Sys2Proof.Machine

/-- Bytes [off, off + n) of the tensor that arrives on queue q; none while a chunk of them is missing (R174, R389). -/
def arriveGet (xs : List (Nat × Nat × List Byte)) (q : Nat) : Nat → Nat → Nat → Option (List Byte)
  | 0, _, _ => some []
  | fuel + 1, off, n =>
    if n = 0 then some []
    else
      match xs.find? (fun e => e.1 == q && decide (e.2.1 ≤ off) && decide (off < e.2.1 + e.2.2.length)) with
      | none => none
      | some e =>
        let b := (e.2.2.drop (off - e.2.1)).take n
        (arriveGet xs q fuel (off + b.length) (n - b.length)).map (b ++ ·)

/-- The tokens and chunks of a delivery queue are released (R174, R248, assumption 44). -/
def Core.release (v : Core) (q : Nat) : Core :=
  { v with dq := tset v.dq q [], arrived := v.arrived.filter (fun e => e.1 ≠ q) }

/-- The requester of a program's accesses (R287, R426). -/
def Core.req (v : Core) : Req := { tenant := v.tenant, use := .other, range := stOperandRange }

/-- A reader for the instructions of a core: memory, and the tensors that arrive on three queues (R174). -/
def State.coreReader (s : State) (v : Core) (qs : List Nat) : Reader := fun u acc a n =>
  if arriveBase 0 ≤ a then
    let i := a / arriveBase 0 - 1
    match arriveGet v.arrived (qs.getD i 0) (n + 1) (a % arriveBase 0) n with
    | none => .error .wait
    | some bs => .ok bs
  else s.reader v.tenant stOperandRange u acc a n

/-- A range from a parameter register lies in device memory. -/
def State.inMemory (s : State) (a n : Nat) : Bool :=
  if n = 0 then true
  else decide (a + n ≤ 2 ^ 40) && s.mapped a && s.mapped (a + n - 1)

/-! ## Issue -/

/-- What an instruction does once its word is due, or once it heads its engine's queue. -/
inductive Iss where
  /-- it waits: at issue a word of an engine enters its queue, and a control word stays due -/
  | wait
  /-- a precise fault (Table 9-2): no effect -/
  | fault (st : Half)
  /-- an access of it fails with a status and the address it names -/
  | mem (st : Half) (a : Nat)
  /-- it fails with a status that the state has reported -/
  | stop (s : State) (st : Half)
  /-- it does not complete, and the PC stays -/
  | hold (s : State)
  /-- it has come to a position and waits there (POS0 of Table 9-14) -/
  | part (s : State) (pos : Nat)
  /-- it has started, and an event completes it: an organ fill, a collective chunk -/
  | flight (s : State)
  /-- it completes -/
  | next (s : State)
  /-- it completes and issue goes on at a PC -/
  | to (s : State) (pc : Nat)
deriving DecidableEq, Repr

/-- The chunk has been staged at this member, or has left it and been acknowledged (R389). -/
def Coll.chunkOver (k : Coll) (c : Nat) : Bool :=
  if k.opcode = 0x201 && 0 < k.pos then
    (k.chunkBlocks c).all (fun b => k.sumsDone.contains b) && !k.outq.any (fun o => k.chunkOf o.blk == c) &&
    !k.unacked.any (fun u => k.chunkOf u.2 == c)
  else k.done.contains c

/-- Some instruction of core k has been issued and has not completed. -/
def State.coreBusy (s : State) (k : Nat) : Bool := !(s.coreK k).queue.isEmpty

/-- The program's part ends with a status of its own at instruction pc; CORE_PG_STATUS records it (R236, R257). -/
def State.faultAt (s : State) (k : Nat) (st : Half) (pc : Nat) : State :=
  let v := s.coreK k
  let pc := min pc (v.prog.length - 1)
  (s.modCoreK k (fun c => { c with fstat := st, fpc := BitVec.ofNat 13 pc, faultIw := v.prog.getD pc 0 })).endPart k st 5

/-- The same at the instruction that is due. -/
def State.faultCore (s : State) (k : Nat) (st : Half) : State := s.faultAt k st (s.coreK k).pc

/-- The part ends with a status whose cause has been reported; OPERAND_RANGE is recorded in CORE_PG_STATUS (R257). -/
def State.stopAt (s : State) (k : Nat) (st : Half) (pc : Nat) : State :=
  if st = stOperandRange then s.faultAt k st pc else s.endPart k st 5

/-- A precise fault waits until every earlier instruction has completed (R236). -/
def State.preciseFault (s : State) (k : Nat) (st : Half) : State :=
  if s.coreBusy k then s.modCoreK k (fun c => { c with faultWait := some st }) else s.faultCore k st

/-! ## The engines' queues (R231 to R233) -/

/-- Descriptor slots a word reads: runs of first slot and count. -/
def slotsRead (w : Dword) : List (Nat × Nat) :=
  match opOf w with
  | 0x00 => (bitsOf w 47 40, 6) :: (if flagOf w 48 then [(bitsOf w 39 32, 6)] else [])
  | 0x01 => [(bitsOf w 47 40, 6), (bitsOf w 39 32, 1)]
  | 0x02 => [(bitsOf w 47 40, 6)]
  | 0x03 => if bitsOf w 55 53 = 4 then [(bitsOf w 15 8, 6)] else []
  | 0x24 | 0x25 => [(bitsOf w 50 43, 1)]
  | 0x43 => [(bitsOf w 49 42, 1)]
  | _ => []

/-- Descriptor slots a DLOAD writes. -/
def slotsWritten (w : Dword) : List (Nat × Nat) := if opOf w = 0x45 then [(bitsOf w 51 44, bitsOf w 43 36 + 1)] else []

/-- Two lists of runs meet. -/
def runsMeet (a b : List (Nat × Nat)) : Bool := a.any (fun x => b.any (fun y => decide (x.1 < y.1 + y.2) && decide (y.1 < x.1 + x.2)))

/-- The first two stalls of R231: a slot or register that an earlier DLOAD or PLOAD has yet to write, a DLOAD of a slot that an
instruction not yet completed reads. -/
def Core.slotStall (v : Core) (w : Dword) : Bool :=
  v.queue.any (fun e =>
    runsMeet (slotsWritten e.iw) (slotsRead w ++ slotsWritten w) ||
    (opOf e.iw == 0x46 && (regsOf w).contains (bitsOf e.iw 55 52)) ||
    runsMeet (slotsWritten w) (slotsRead e.iw))

/-- Entries of an engine, in program order. -/
def Core.ofEngine (v : Core) (n : Nat) : List Issued := v.queue.filter (fun e => engineOf e.iw == some n)

/-- No engine takes a 65th instruction, and none has more than 16 queued beside the one it runs (R231, R232). -/
def Core.full (v : Core) (n : Nat) : Bool := decide (64 ≤ v.queue.length) || decide (17 ≤ (v.ofEngine n).length)

/-- The instruction at the PC as it is issued: its word with the values of the registers it names. -/
def Core.issuing (v : Core) (w : Dword) : Issued :=
  { iw := w, pc := v.pc, seq := v.queue.foldl (fun m e => max m (e.seq + 1)) 0, prv := (regsOf w).map (fun r => (r, v.par r)) }

/-- Entries issued before e. -/
def Core.before (v : Core) (e : Issued) : List Issued := v.queue.filter (fun x => decide (x.seq < e.seq))

/-- The organ slot a vector word reads. -/
def organRead (w : Dword) : Option Nat :=
  if 0x20 ≤ opOf w ∧ opOf w ≤ 0x23 ∧ bitsOf w 23 22 ≠ 0 then some (bitsOf w 29 24) else none

/-- The effect, in program order, of an instruction not yet run on the organ slots' states and on the held set (R180, R236, R242). -/
def Core.foresee (v : Core) (e : Issued) : Core :=
  let w := e.iw
  if e.started then v
  else match opOf w with
  | 0x43 => v.setSlot (bitsOf w 55 50) (some (.filling [] 0 0))
  | 0x44 => v.setSlot (bitsOf w 55 50) none
  | 0x00 | 0x01 =>
    if flagOf w 49 then
      let d := v.slots (bitsOf w 47 40) 6
      { v with mx := { v.mx with held := some (leAt d 96 4, leAt d 100 4), shape := (leAt d 96 4, leAt d 100 4) } }
    else v
  | 0x03 =>
    match bitsOf w 55 53 with
    | 3 => { v with mx := { v.mx with held := some v.mx.shape } }
    | 4 | 6 => { v with mx := { v.mx with held := none } }
    | _ => v
  | _ => v

/-- The core as entry e sees it: organ and held set in program order, and the register values e has captured. -/
def Core.seenBy (v : Core) (e : Issued) : Core :=
  let u := (v.before e).foldl Core.foresee v
  { u with pr := e.prv.foldl (fun p x => tset p x.1 x.2) u.pr }

/-- Whether an instruction in flight is over: a chunk whose data has been staged here or has left and been acknowledged (R389). -/
def State.chunkEnds (s : State) (e : Issued) : Bool :=
  e.started && opOf e.iw == 0x53 &&
  match s.links.open_.find? (fun o => o.1 == bitsOf e.iw 55 44) with
  | none => true
  | some o => o.2.chunkOver (bitsOf e.iw 43 32)

/-- A word names delivery queue q. -/
def namesQueue (w : Dword) (q : Nat) : Bool :=
  match opOf w with
  | 0x00 | 0x01 | 0x02 => (flagOf w 31 && bitsOf w 27 24 == q) || (flagOf w 30 && bitsOf w 23 20 == q) || (flagOf w 29 && bitsOf w 19 16 == q)
  | 0x03 => flagOf w 48 && bitsOf w 52 49 == q
  | 0x51 => bitsOf w 55 52 == q
  | _ => false

/-- A CCHK has completed: the token of its chunk is released, unless an instruction that is issued still names the queue (R248,
assumption 44). -/
def Core.chunkDone (v : Core) (e : Issued) : Core :=
  let q := bitsOf e.iw 31 28
  let v := { v with queue := v.queue.filter (fun x => x.seq ≠ e.seq) }
  if v.queue.any (fun x => namesQueue x.iw q) then v
  else { v with dq := tset v.dq q ((v.tokens q).filter (· ≠ bitsOf e.iw 43 32 % 256)) }

/-- A precise fault that has waited for earlier instructions (R236). -/
def State.faultDue (s : State) (k : Nat) : State :=
  let v := s.coreK k
  match v.faultWait with
  | some st => if v.queue.isEmpty then s.faultCore k st else s
  | none => s

/-- Chunks that are over leave the queue of the collective engine. -/
def State.retire (s : State) (k : Nat) : State :=
  let es := (s.coreK k).queue.filter s.chunkEnds
  if es.isEmpty then s else (s.modCoreK k (fun v => es.foldl Core.chunkDone v)).faultDue k

/-- An instruction of the queue has completed. -/
def State.completed (s : State) (k : Nat) (e : Issued) : State :=
  (s.modCoreK k (fun v => { v with queue := v.queue.filter (fun x => x.seq ≠ e.seq), vxTry := 0 })).faultDue k

/-- An instruction of the queue has started or come further. -/
def State.progress (s : State) (k : Nat) (e : Issued) (pos : Nat) : State :=
  s.modCoreK k (fun v => { v with queue := v.queue.map (fun x => if x.seq = e.seq then { x with started := true, pos := pos } else x) })

/-- One more instruction issued (R260). -/
def State.issued (s : State) (k : Nat) : State := s.modCoreK k (fun c => { c with pgIssued := satInc c.pgIssued, vxTry := 0 })

/-- Issue goes on at a PC; a PC past the last instruction raises PC_RANGE (Table 9-2). -/
def State.goTo (s : State) (k : Nat) (pc : Nat) : State :=
  let s := s.issued k
  if (s.coreK k).pstate ≠ 2 then s
  else
    let s := s.modCoreK k (fun c => { c with pc := pc })
    if (s.coreK k).prog.length ≤ pc then s.preciseFault k stPcRange else s

/-- A failed access of an instruction ends its part (R267, R318); OPERAND_RANGE is recorded (R257). -/
def State.failAccess (s : State) (k : Nat) (st : Half) (a : Nat) : State :=
  if st = stOperandRange then s.faultCore k st else s.failCore k st a

/-- An instruction enters the queue of its engine, and issue goes on behind it. -/
def State.enqueue (s : State) (k : Nat) (e : Issued) : State :=
  (s.modCoreK k (fun v => { v with queue := v.queue ++ [e] })).goTo k (e.pc + 1)

/-- The core takes instructions: it runs a program on a die that runs, with clocks and an active control die, outside a thermal
trip (R39, R258, Table 16-2), and no organ slot is still to be filled again after a move (R181). -/
def State.issues (s : State) (c : CoreId) : Bool :=
  s.clocks && s.ebtor && !s.pwr.thermTrip && s.dieRuns c.die.val && (s.core c).pstate == 2 && !(s.core c).refilling

/-- What an instruction of an engine does to the state once it is issued to it: an idle engine runs it at once (R232). -/
def State.take (s : State) (k : Nat) (e : Issued) (x : Iss) : State :=
  match x with
  | .wait => s.enqueue k e
  | .fault st => s.preciseFault k st
  | .mem st a => (s.issued k).failAccess k st a
  | .stop u st => (u.issued k).stopAt k st e.pc
  | .hold u => u
  | .part u pos => u.enqueue k { e with started := true, pos := pos }
  | .flight u => u.enqueue k { e with started := true }
  | .next u => u.goTo k (e.pc + 1)
  | .to u pc => u.goTo k pc

/-- Issue the word at the PC (R231, R232, R236): checked first, it then stalls, waits behind its engine's others, or runs. -/
def State.issueNew (s : State) (c : CoreId) (w : Dword) (op : Nat) (g : Core → Issued → Iss) : State :=
  let k := c.key
  let v := s.core c
  if v.prog.length ≤ v.pc then s.preciseFault k stPcRange
  else if v.prog.getD v.pc 0 ≠ w then s
  else if !opDefined (opOf w) then s.preciseFault k stUndefOp
  else if opOf w ≠ op || v.slotStall w then s
  else
    let e := v.issuing w
    match engineOf w, g (v.seenBy e) e with
    | _, .fault st => s.preciseFault k st
    | none, .wait => s
    | none, x => s.take k e x
    | some n, x =>
      if v.full n then s
      else if (v.ofEngine n).isEmpty then s.take k e x
      else s.enqueue k e

/-- The engine of word w goes on with the instruction it is at, when that has this word. None: it waits, or there is none. -/
def State.runHead (s : State) (c : CoreId) (w : Dword) (op : Nat) (g : Core → Issued → Iss) : Option State :=
  let k := c.key
  let v := s.core c
  match (engineOf w).bind (fun n => (v.ofEngine n).head?) with
  | none => none
  | some e =>
    if e.iw ≠ w || opOf w ≠ op || (e.started && (op == 0x43 || op == 0x53)) then none
    else match g (v.seenBy e) e with
    | .wait => none
    | .fault st => some (s.faultAt k st e.pc)
    | .mem st a => some (if st = stOperandRange then s.faultAt k st e.pc else s.failAccess k st a)
    | .stop u st => some (u.stopAt k st e.pc)
    | .hold u => some u
    | .part u pos => some (u.progress k e pos)
    | .flight u => some (u.progress k e 0)
    | .next u => some (u.completed k e)
    | .to u _ => some (u.completed k e)

/-- Word w on a core that runs: its engine goes on with it, or it is due at the PC and is issued (assumption 49). -/
def State.issue (s : State) (c : CoreId) (w : Dword) (op : Nat) (g : Core → Issued → Iss) : State :=
  let s := s.retire c.key
  if !s.issues c then s
  else (s.runHead c w op g).getD (s.issueNew c w op g)

/-- An instruction whose word breaks a rule of its table raises RSVD_FIELD; otherwise it goes on. -/
def Iss.unless (bad : Bool) (st : Half) (i : Iss) : Iss := if bad then .fault st else i

/-- The outcome of an access. -/
def Iss.ofTry (x : Except Stop State) (g : State → Iss) : Iss :=
  match x with
  | .error .wait => .wait
  | .error (.fail st a) => .mem st a
  | .ok s => g s

/-- The outcome of a read. -/
def Iss.ofRead {α : Type} (x : Except Stop α) (g : α → Iss) : Iss :=
  match x with
  | .error .wait => .wait
  | .error (.fail st a) => .mem st a
  | .ok b => g b

/-- The shot and the part a core runs. -/
def State.shotOn (s : State) (v : Core) : Option Tracked := v.part.bind (fun p => s.trackedOf p.1)
/-- Its reel and SEQ for a fault record. -/
def Core.whose (v : Core) : Nat × Word := match v.part with | some (r, _) => (r.reel.val, r.seq) | none => (0xFFFF, 0)
/-- The check mode in force (R320). -/
def State.coreMode (s : State) (v : Core) : Nat := ((s.shotOn v).map (fun t => t.mode.toNat)).getD 0
/-- An evaluation shot runs (R205). -/
def State.coreEval (s : State) (v : Core) : Bool := ((s.shotOn v).map (·.eval)).getD false

/-- Conversions flagged WLOSS or SAT report in the shot's completion (R266). -/
def State.flagShot (s : State) (v : Core) (wloss sat : Bool) : State :=
  match v.part with
  | none => s
  | some (r, _) => s.modTracked r (fun t => { t with wloss := t.wloss || wloss, sat := t.sat || sat })

/-- Ledgers of a held set are ledgers of the shot: their WLOSS and SAT reach its completion, drained or not (R84). -/
def State.flagLedgers (s : State) (v : Core) (m : Tab Ledger) : State :=
  s.flagShot v (m.any (·.2.wloss)) (m.any (·.2.sat))

/-- What an instruction has committed counts among its part's destinations and records (R72, R315). -/
def State.noteShot (s : State) (v : Core) (p : PartOut) : State :=
  match v.part with
  | none => s
  | some (r, u) => s.modTracked r (fun t =>
      { t with dests := t.dests ++ p.touch.map (fun x => (u, x)), recs := t.recs ++ p.merges.map (fun x => (u, x.1)) })

/-- Commit what an instruction would write as one part (R172, R315). -/
def State.commitInstr (s : State) (v : Core) (k : Nat) (p : PartOut) (g : State → Iss) : Iss :=
  match s.runParts v.req v.taint v.whose.1 v.whose.2 [p] with
  | none => .wait
  | some (u, fs) =>
    let u := u.modCoreK k (·.addCounts p.counts)
    match (fs.findSome? id) with
    | none => g ((u.noteShot v p).flagShot v p.wloss p.sat)
    | some (st, _) =>
      .stop (if (slateKind st).isSome then u.modCoreK k (fun c => { c with slateErr := satInc c.slateErr }) else u) st

/-! ## The duplicated pair (R326) -/

/-- A compute check that still fails after the stand-in step (R326, R331): the part fails, and the stand-in runs the blotter. -/
def State.checkFail (s : State) (k kind : Nat) : State :=
  let w := (s.coreK k).whose
  ((s.fault { status := stCheckFail, kind := kind, outcome := 3, loc := locCore k, reel := w.1, seq := w.2 }).testCore k).endPart k
    stCheckFail 5

/-- A pair that disagrees writes nothing: a first time it runs again, a second time the work goes to a stand-in, and there it fails
the part. -/
def State.pairMismatch (s : State) (k : Nat) : State :=
  let v := s.coreK k
  let s := s.modCoreK k (fun c => { c with vxMism := satInc c.vxMism, vxTry := c.vxTry + 1 })
  match v.vxTry with
  | 0 => s
  | 1 => s.standInStep k 2 7 0
  | _ => s.checkFail k 7

/-- The pair agrees: a mismatch that its rerun has absorbed writes its record (R326, R347). -/
def State.pairPassed (s : State) (k : Nat) : State :=
  let v := s.coreK k
  if v.vxTry = 1 then
    (s.fault { kind := 7, outcome := 0, loc := locCore k, reel := v.whose.1, seq := v.whose.2 }).modCoreK k (fun c => { c with vxTry := 0 })
  else s

/-- Modes that duplicate the vector engine, the prologue, the epilogue and the scatter-add (R326). -/
def pairedMode (m : Nat) : Bool := decide (2 ≤ m) && decide (m ≤ 4)

/-- A vector instruction under R326: it executes, or its pair disagrees. Its cycles count twice when it runs twice. -/
def State.issueVec (s : State) (c : CoreId) (w : Dword) (op cost : Nat) (agree : Bool) (g : Core → Iss) : State :=
  s.issue c w op (fun v _ =>
    let twice := pairedMode (s.coreMode v)
    match g v with
    | .next u =>
      if twice && !agree then .hold (s.pairMismatch c.key)
      else .next ((u.pairPassed c.key).modCoreK c.key (fun c =>
        { c with vxInstr := satInc c.vxInstr, vxBusy := satAdd c.vxBusy (cost * (if twice then 2 else 1)) }))
    | x => x)

end Sys2Proof.Machine
end

