-- ==== Sys2Proof/Machine/Programs.lean ====
section
/-!
DEFINITION. The PROGRAM shot and the instructions that move data, handle tokens, descriptors and the organ, and control the
program (R179, R180, R230, R247 to R250, R389).
-/
namespace Sys2Proof.Machine

/-! ## PROGRAM -/

/-- R230, R267: the shot's cores load the program and run it; a core that is not free leaves its unit waiting. -/
def program (r : ShotRef) (s : State) : State :=
  s.withShot r 0x001 (fun t =>
    if t.phase = .dispatched then
      let n := leAt t.shot.body 12 2
      (s.modTracked r (fun t => { t with phase := .running, nparts := partsOf n, queued := List.range n })).startParts r
    else s.startParts r)
def execProgram (r : ShotRef) (s : State) : Out State := .next (program r s)

/-! ## Moves -/

/-- One token on count queue q, when there is room (R248). None: the put waits. -/
def Core.putTokens (v : Core) (q n : Nat) : Option Core :=
  if v.count q + n ≤ 255 then some (v.setCount q (v.count q + n)) else none

/-- A move of n bytes is over: with TOK it puts its token (Table 9-12), and waits in its engine for room. -/
def State.moved (s : State) (k : Nat) (w : Dword) (tok tq n : Nat) : Iss :=
  if bitsOf w tok tok = 0 then .next s
  else
    match (s.coreK k).putTokens tq 1 with
    | none => .part s n
    | some v => .next (s.modCoreK k (fun _ => v))

/-- TQ is 0 without TOK, and 0 to 11 with it. -/
def tokBad (tok tq : Nat) : Bool := (tok = 0 && tq ≠ 0) || decide (11 < tq)

/-- An address or a length from a parameter register is no multiple of n (R247). -/
def offGrid (n : Nat) (xs : List Nat) : Bool := xs.any (fun x => x % n ≠ 0)

/-- The 4 KiB blocks that [a + pos, a + n) meets, as ranges (Table 9-13). -/
def blocksFrom (a n pos : Nat) : List (Nat × Nat) :=
  (List.range (destBlocks (a + pos) (n - pos))).map (destRange (a + pos) (n - pos))

/-- Read block after block until one cannot be read now. -/
def State.readOn (s : State) (q : Req) : List (Nat × Nat) → List Byte × Option Stop
  | [] => ([], none)
  | b :: bs =>
    match s.read q .any b.1 (b.2 - b.1) with
    | .error x => ([], some x)
    | .ok y => let r := State.readOn s q bs; (y ++ r.1, r.2)

/-- Write block after block until one cannot be written now: the state, the bytes written, and why it stops. -/
def State.writeOn (q : Req) (get : Nat → Nat → List Byte) : List (Nat × Nat) → State → State × Nat × Option Stop
  | [], s => (s, 0, none)
  | b :: bs, s =>
    match s.write q kRaw 0 0 b.1 (get b.1 (b.2 - b.1)) with
    | .error x => (s, 0, some x)
    | .ok u => let r := State.writeOn q get bs u; (r.1, b.2 - b.1 + r.2.1, r.2.2)

/-- R247, R287: memory to scratchpad. -/
def load (c : CoreId) (w : Dword) (s : State) : State :=
  s.issue c w 0x40 (fun v e =>
    let a := (v.par (bitsOf w 55 52)).toNat
    let n := (v.par (bitsOf w 51 48)).toNat
    let p := bitsOf w 47 32 * 64
    let tq := bitsOf w 30 27
    (Iss.unless (unitBad (bitsOf w 47 32) || tokBad (bitsOf w 31 31) tq || bitsOf w 26 0 ≠ 0) stRsvdField)
      (Iss.unless (offGrid 64 [a, n] || !padFits p n || !s.inMemory a n) stOperandRange
        (match s.read v.req .any (a + e.pos) (n - e.pos) with
         | .ok bs => (s.modCoreK c.key (·.padPut (p + e.pos) bs)).moved c.key w 31 tq n
         | .error (.fail st x) => .mem st x
         | .error .wait =>
           -- what can be read now is loaded (Table 9-13)
           let r := s.readOn v.req (blocksFrom a n e.pos)
           match r.2 with
           | some (.fail st x) => .mem st x
           | _ => if r.1.isEmpty then .wait else .part (s.modCoreK c.key (·.padPut (p + e.pos) r.1)) (e.pos + r.1.length))))
def execLoad (c : CoreId) (w : Dword) (s : State) : Out State := .next (load c w s)

/-- R247: scratchpad to memory; the slate is RAW (Table 12-3). -/
def store (c : CoreId) (w : Dword) (s : State) : State :=
  s.issue c w 0x41 (fun v e =>
    let a := (v.par (bitsOf w 55 52)).toNat
    let n := (v.par (bitsOf w 51 48)).toNat
    let p := bitsOf w 47 32 * 64
    let tq := bitsOf w 30 27
    (Iss.unless (unitBad (bitsOf w 47 32) || tokBad (bitsOf w 31 31) tq || bitsOf w 26 0 ≠ 0) stRsvdField)
      (Iss.unless (offGrid 64 [a, n] || !padFits p n || !s.inMemory a n) stOperandRange
        (match s.write v.req kRaw 0 0 (a + e.pos) (v.pad (p + e.pos) (n - e.pos)) with
         | .ok u => u.moved c.key w 31 tq n
         | .error (.fail st x) => .mem st x
         | .error .wait =>
           let r := State.writeOn v.req (fun x m => v.pad (p + (x - a)) m) (blocksFrom a n e.pos) s
           match r.2.2 with
           | some (.fail st x) => .mem st x
           | _ => if r.2.1 = 0 then .wait else .part r.1 (e.pos + r.2.1))))
def execStore (c : CoreId) (w : Dword) (s : State) : Out State := .next (store c w s)

/-- A range of a COPY: device memory, or a host window (R294). -/
def State.copyRange (s : State) (a n : Nat) : Bool :=
  n = 0 || ((hostPort a).isSome && decide (a + n ≤ 2 ^ 40)) || s.inMemory a n

/-- R247, R294: memory to memory; a host window may be its source or destination. -/
def copyInstruction (c : CoreId) (w : CopyWord) (s : State) : State :=
  let bad := w.bad
  let w := w.iw
  s.issue c w 0x42 (fun v e =>
    let src := (v.par (bitsOf w 55 52)).toNat
    let dst := (v.par (bitsOf w 51 48)).toNat
    let n := (v.par (bitsOf w 47 44)).toNat
    let tq := bitsOf w 42 39
    let made := fun a m => do
      if (hostPort dst).isSome then
        match s.hostAddr a with
        | none => throw (.fail stOperandRange a)
        | some (port, _) => if !s.ideOk v.tenant port.val then throw (.fail 0x0501 a)
      let x ← s.copySource v.req bad (src + (a - dst)) m
      return ({ kind := x.2.1, fmt := x.2.2.1, tid := x.2.2.2, bits := [],
                runs := [(a, s.blurred src dst n (src + (a - dst)) x.1)] } : Wr)
    (Iss.unless (tokBad (bitsOf w 43 43) tq || bitsOf w 38 0 ≠ 0) stRsvdField)
      (Iss.unless (offGrid 64 [src, dst, n] || !s.copyRange src n || !s.copyRange dst n) stOperandRange
        (if n ≤ e.pos then s.moved c.key w 43 tq n
         else
          let bl := blocksFrom dst n e.pos
          -- the blocks whose source can be read now
          let ok := if (partFrom bl made).isSome then bl else bl.takeWhile (fun b => (partFrom [b] made).isSome)
          let pos := e.pos + (ok.map (fun b => b.2 - b.1)).sum
          let ended := fun (u : State) => if pos = n then u.moved c.key w 43 tq n else .part u pos
          match partFrom ok made with
          | none => .wait
          | some p =>
            let u := { s with fresh := s.fresh + n }
            if ok.isEmpty then .wait
            else if (hostPort dst).isSome then
              match p.fail with
              | some (st, a) => .mem st a
              | none => ended (u.hostWrites p)
            else u.commitInstr { v with taint := [] } c.key p ended)))
def execCopyInstruction (c : CoreId) (w : CopyWord) (s : State) : Out State := .next (copyInstruction c w s)

/-- R247: memory to descriptor slots. -/
def dload (c : CoreId) (w : Dword) (s : State) : State :=
  s.issue c w 0x45 (fun v _ =>
    let a := (v.par (bitsOf w 55 52)).toNat
    let i := bitsOf w 51 44
    let n := (bitsOf w 43 36 + 1) * 64
    (Iss.unless (decide (255 < i + bitsOf w 43 36) || bitsOf w 35 0 ≠ 0) stRsvdField)
      (Iss.unless (offGrid 64 [a] || !s.inMemory a n) stOperandRange
        (Iss.ofRead (s.read v.req .any a n) (fun bs => .next (s.modCoreK c.key (·.padPut (slotBase + 64 * i) bs))))))
def execDload (c : CoreId) (w : Dword) (s : State) : Out State := .next (dload c w s)

/-- R247: one scratchpad word to a parameter register. -/
def pload (c : CoreId) (w : Dword) (s : State) : State :=
  s.issue c w 0x46 (fun v _ =>
    (Iss.unless (unitBad (bitsOf w 51 36) || bitsOf w 32 0 ≠ 0) stRsvdField)
      (.next (s.modCoreK c.key (·.setPar (bitsOf w 55 52)
        (BitVec.ofNat 64 (leNat (v.pad (bitsOf w 51 36 * 64 + 8 * bitsOf w 35 33) 8)))))))
def execPload (c : CoreId) (w : Dword) (s : State) : Out State := .next (pload c w s)

/-- R247: a parameter register to one scratchpad word. -/
def pstore (c : CoreId) (w : Dword) (s : State) : State :=
  s.issue c w 0x47 (fun v _ =>
    (Iss.unless (unitBad (bitsOf w 51 36) || bitsOf w 32 0 ≠ 0) stRsvdField)
      (.next (s.modCoreK c.key (·.padPut (bitsOf w 51 36 * 64 + 8 * bitsOf w 35 33)
        (leBytes 8 (v.par (bitsOf w 55 52)).toNat)))))
def execPstore (c : CoreId) (w : Dword) (s : State) : Out State := .next (pstore c w s)

/-- R247, R73: an identity record of 32 zero bytes. -/
def sclr (c : CoreId) (w : Dword) (s : State) : State :=
  s.issue c w 0x60 (fun v _ =>
    let a := (v.par (bitsOf w 55 52)).toNat
    (Iss.unless (bitsOf w 51 0 ≠ 0) stRsvdField)
      (Iss.unless (offGrid 32 [a] || !s.inMemory a 32) stOperandRange
        (Iss.ofTry (s.write v.req kRecord 0 0 a (zeros 32)) .next)))
def execSclr (c : CoreId) (w : Dword) (s : State) : Out State := .next (sclr c w s)

/-! ## The organ -/

/-- An instruction issued before e has yet to read an organ slot (R180). -/
def Core.stillReads (v : Core) (e : Issued) (slot : Nat) : Bool := (v.before e).any (fun x => organRead x.iw == some slot)

/-- R179, R180: a fill starts, once every earlier read of its slot is over; it completes when its data lands. -/
def ofill (c : CoreId) (w : Dword) (s : State) : State :=
  s.issue c w 0x43 (fun v e =>
    let slot := bitsOf w 55 50
    let d := v.slots (bitsOf w 49 42) 1
    let nr := bitsOf w 41 36
    let nc := bitsOf w 35 30
    match TileD.parse false d with
    | none => .fault stRsvdField
    | some t =>
      (Iss.unless (extentBad nr || extentBad nc || bitsOf w 29 0 ≠ 0) stRsvdField)
        (Iss.unless (!t.padOk nr nc) stOperandRange
          (if ((v.slotAt slot).map Slot.isFilling).getD false || v.stillReads e slot then .wait
           else .flight (s.modCoreK c.key (·.setSlot slot (some (.filling d nr nc)))))))
def execOfill (c : CoreId) (w : Dword) (s : State) : Out State := .next (ofill c w s)

/-- The OFILL of a slot has completed, when it is one of the program's (a refill of R181 is not). -/
def State.fillDone (s : State) (k slot : Nat) : State :=
  match (s.coreK k).queue.find? (fun e => e.started && opOf e.iw == 0x43 && bitsOf e.iw 55 50 == slot) with
  | some e => s.completed k e
  | none => s

/-- R179, R180: a fill lands, and its slot is VALID; a fill whose read fails leaves the slot EMPTY and fails the part. -/
def organFillComplete (c : CoreId) (slot : Fin 64) (s : State) : State :=
  let k := c.key
  let v := s.core c
  match v.slotAt slot.val with
  | some (.filling d nr nc again) =>
    if !s.clocks || !s.dieRuns c.die.val then s
    else
      let s' := s.modCoreK k (fun c => { c.setSlot slot.val none with orgFills := satInc c.orgFills })
      match TileD.parse false d with
      | none => s'
      | some t =>
        match t.image (s.coreReader v []) v nr nc with
        | .error .wait => s
        | .error (.fail st a) => s'.failAccess k st a
        | .ok img =>
          -- a refill that finds another generation fails the tile (R181)
          if again.any (· != s.tileGens t nr nc) then s'.failAccess k 0x0308 0
          else (s'.modCoreK k (·.setSlot slot.val
            (some (.valid img (BitVec.ofNat 64 (leAt d 0 8)) (s.tileGens t nr nc) d nr nc)))).fillDone k slot.val
  | _ => s
def execOrganFillComplete (c : CoreId) (slot : Fin 64) (s : State) : Out State := .next (organFillComplete c slot s)

/-- R179, R180: the slot is EMPTY; an evict of a FILLING slot waits for the fill. -/
def oevict (c : CoreId) (w : Dword) (s : State) : State :=
  s.issue c w 0x44 (fun v e =>
    let slot := bitsOf w 55 50
    (Iss.unless (bitsOf w 49 0 ≠ 0) stRsvdField)
      (if ((v.slotAt slot).map Slot.isFilling).getD false || v.stillReads e slot then .wait
       else .next (s.modCoreK c.key (·.setSlot slot none))))
def execOevict (c : CoreId) (w : Dword) (s : State) : Out State := .next (oevict c w s)

/-! ## Tokens -/

/-- Reserved values of a token word (Table 9-12). -/
def tokenBad (w : Dword) (top : Nat) : Bool :=
  let q := bitsOf w 55 52
  decide (top < q) || (q < 12 && bitsOf w 51 44 = 0) || decide (4 < bitsOf w 43 41) || bitsOf w 40 0 ≠ 0

/-- R248: N tokens more; it waits while the count would exceed 255. -/
def tput (c : CoreId) (w : Dword) (s : State) : State :=
  s.issue c w 0x50 (fun v _ =>
    (Iss.unless (tokenBad w 11) stRsvdField)
      (let q := bitsOf w 55 52
       let n := bitsOf w 51 44
       if v.count q + n ≤ 255 then .next (s.modCoreK c.key (·.setCount q (v.count q + n))) else .wait))
def execTput (c : CoreId) (w : Dword) (s : State) : Out State := .next (tput c w s)

/-- R248: N tokens fewer once there are as many; on a delivery queue, the token of chunk N is there and stays. -/
def twait (c : CoreId) (w : Dword) (s : State) : State :=
  s.issue c w 0x51 (fun v _ =>
    let q := bitsOf w 55 52
    let n := bitsOf w 51 44
    (Iss.unless (tokenBad w 15) stRsvdField)
      (if 12 ≤ q then (if (v.tokens q).contains n then .next s else .wait)
       else if n ≤ v.count q then .next (s.modCoreK c.key (·.setCount q (v.count q - n))) else .wait))
def execTwait (c : CoreId) (w : Dword) (s : State) : Out State := .next (twait c w s)

/-- R249: it waits until every earlier instruction has completed. -/
def fence (c : CoreId) (w : Dword) (s : State) : State :=
  s.issue c w 0x52 (fun _ _ =>
    (Iss.unless (bitsOf w 55 0 ≠ 0) stRsvdField) (if s.coreBusy c.key then .wait else .next s))
def execFence (c : CoreId) (w : Dword) (s : State) : Out State := .next (fence c w s)

/-- R389: one chunk of a MODE 1 collective. It waits for the collective; a chunk past its end or run before ends the program. -/
def cchk (c : CoreId) (w : Dword) (s : State) : State :=
  s.issue c w 0x53 (fun _ _ =>
    let i := bitsOf w 55 44
    let n := bitsOf w 43 32
    let q := bitsOf w 31 28
    (Iss.unless (decide (q < 12) || bitsOf w 27 0 ≠ 0) stRsvdField)
      (match s.openAt i with
       | none => .wait
       | some k =>
         if !k.mode1 then .wait
         else if decide (k.chunks ≤ n) || k.run.contains n then .stop s stChunkInvalid
         else
           match State.startChunk i (s, { k with cchk := k.cchk ++ [(n, c.key, q)] }) n with
           | .error .wait => .wait
           | x => .flight (s.settle i { k with cchk := k.cchk ++ [(n, c.key, q)] } x)))
def execCchk (c : CoreId) (w : Dword) (s : State) : Out State := .next (cchk c w s)

/-! ## Control -/

/-- R235. -/
def nopInstruction (c : CoreId) (w : Dword) (s : State) : State :=
  s.issue c w 0x70 (fun _ _ => (Iss.unless (bitsOf w 55 0 ≠ 0) stRsvdField) (.next s))
def execNopInstruction (c : CoreId) (w : Dword) (s : State) : Out State := .next (nopInstruction c w s)

/-- R249: the program completes once every earlier instruction has. -/
def endProgram (c : CoreId) (w : Dword) (s : State) : State :=
  s.issue c w 0x71 (fun _ _ =>
    (Iss.unless (bitsOf w 55 0 ≠ 0) stRsvdField)
      (if s.coreBusy c.key then .wait else .hold ((s.issued c.key).endPart c.key 0 0)))
def execEndProgram (c : CoreId) (w : Dword) (s : State) : Out State := .next (endProgram c w s)

/-- R247: an immediate into one half of a parameter register. -/
def psetValue (old : Dword) (hi sx : Bool) (imm : Nat) : Dword :=
  if hi then BitVec.ofNat 64 (old.toNat % 2 ^ 32 + imm * 2 ^ 32)
  else if sx then BitVec.ofInt 64 (toSigned 32 imm)
  else BitVec.ofNat 64 (old.toNat / 2 ^ 32 * 2 ^ 32 + imm)

def pset (c : CoreId) (w : Dword) (s : State) : State :=
  s.issue c w 0x72 (fun v _ =>
    let d := bitsOf w 55 52
    (Iss.unless ((flagOf w 51 && flagOf w 50) || bitsOf w 49 32 ≠ 0) stRsvdField)
      (.next (s.modCoreK c.key (·.setPar d (psetValue (v.par d) (flagOf w 51) (flagOf w 50) (bitsOf w 31 0))))))
def execPset (c : CoreId) (w : Dword) (s : State) : Out State := .next (pset c w s)

/-- R247: PD = PA + IMM modulo 2^64. -/
def padd (c : CoreId) (w : Dword) (s : State) : State :=
  s.issue c w 0x73 (fun v _ =>
    (Iss.unless (bitsOf w 47 32 ≠ 0) stRsvdField)
      (.next (s.modCoreK c.key (·.setPar (bitsOf w 55 52) (v.par (bitsOf w 51 48) + BitVec.ofInt 64 (signedOf w 31 0))))))
def execPadd (c : CoreId) (w : Dword) (s : State) : Out State := .next (padd c w s)

/-- The target of a branch (R249); none outside the program. -/
def Core.target (v : Core) (w : Dword) : Option Nat :=
  let t := (v.pc : Int) + signedOf w 23 0
  if 0 ≤ t ∧ t < v.prog.length then some t.toNat else none

/-- R247: the register falls by one, and a result that is not 0 branches. -/
def loop (c : CoreId) (w : Dword) (s : State) : State :=
  s.issue c w 0x74 (fun v _ =>
    let p := bitsOf w 55 52
    let x := v.par p - 1
    (Iss.unless (bitsOf w 23 0 = 0 || bitsOf w 51 24 ≠ 0) stRsvdField)
      (match v.target w with
       | none => .fault stPcRange
       | some t =>
         let u := s.modCoreK c.key (·.setPar p x)
         if x = 0 then .next u else .to u t))
def execLoop (c : CoreId) (w : Dword) (s : State) : Out State := .next (loop c w s)

/-- COND of BR (Table 9-12). -/
def branchTaken (cond : Nat) (x : Dword) : Bool :=
  match cond with
  | 0 => x == 0 | 1 => x != 0 | 2 => x.msb | _ => !x.msb

/-- R247. -/
def br (c : CoreId) (w : Dword) (s : State) : State :=
  s.issue c w 0x75 (fun v _ =>
    (Iss.unless (bitsOf w 23 0 = 0 || bitsOf w 49 24 ≠ 0) stRsvdField)
      (match v.target w with
       | none => .fault stPcRange
       | some t => if branchTaken (bitsOf w 51 50) (v.par (bitsOf w 55 52)) then .to s t else .next s))
def execBr (c : CoreId) (w : Dword) (s : State) : Out State := .next (br c w s)

end Sys2Proof.Machine
end

