-- ==== Sys2Proof/Machine/Tensor.lean ====
section
/-!
DEFINITION. The shots that run on cores without a program: MATMUL, CONV, SCATTER, CONVERT and ROUTE (R102, R119, R132, R140 to
R146, R192, Table 10-8).
-/
namespace Sys2Proof.Machine

/-- Core work of the shot can run: no batch of it waits for a grant (R449), and a core is enabled. -/
def State.canWork (s : State) (r : ShotRef) : Bool :=
  !s.grantWaits r && s.cores.any (fun e => e.2.role == 0 && s.dieRuns (e.1 / 34))

/-- Weight slots of SEALED and BOUND regions that a range of addresses meets (R432). -/
def State.slotsOf (s : State) (a n : Nat) : List Nat :=
  ((s.sec.regions.filter (fun e => e.2.kind ≠ 0 && decide (e.2.base < a + n) && decide (a < e.2.base + e.2.len))).map
    (·.2.slot)).eraseDups

/-- Slots that taint a shot through an operand the prologue quantises (R432). -/
def State.quantTaint (s : State) (o : Opnd) (rows k : Nat) : List Nat :=
  if o.quant then s.slotsOf o.addr (o.extent rows k).1 ++ s.slotsOf o.scale (o.extent rows k).2 else []

/-- Weight slots whose regions hold an operand: its elements, scales, and indices or bitmap (R431, R443). -/
def State.operandSlots (s : State) (o : Opnd) (rows k : Nat) : List Nat :=
  s.slotsOf o.addr (o.extent rows k).1 ++ s.slotsOf o.scale (o.extent rows k).2 ++
  (if o.auxk = 0 then [] else s.slotsOf o.aux (rows * ceilDiv k 8))

/-! ## Products -/

/-- Run a product job as a shot (R267). -/
def State.runProduct (s : State) (r : ShotRef) (t : Tracked) (j : ProdJob) : State :=
  let p := j.job.p
  let taint := s.quantTaint p.a p.m p.k ++ s.quantTaint p.b p.n p.k
  match j.parts (s.reader t.tenant stRange) (partsOf j.tiles.length) with
  | none => s
  | some ps =>
    (s.touch (s.batchDies t.shot) (s.operandSlots p.a p.m p.k ++ s.operandSlots p.b p.n p.k)).landShot t r taint ps

/-- Read a piece of memory a shot names, or say why not. None: the read waits. -/
def State.fetchFor (s : State) (t : Tracked) (a n : Nat) : Option (Except (Half × Nat) (List Byte)) :=
  match s.read t.req .any a n with
  | .error .wait => none
  | .error (.fail st x) => some (.error (st, x))
  | .ok b => some (.ok b)

/-- R102, R193: a matrix product, with its companion. -/
def matmul (r : ShotRef) (s : State) : State :=
  s.withShot r 0x010 (fun t =>
    let b := t.shot.body
    let ca := leAt b 8 5
    if !s.canWork r then s
    else match s.fetchFor t (leAt b 0 5) 384, (if ca = 0 then some (.ok []) else s.fetchFor t ca 384) with
      | none, _ | _, none => s
      | some (.error (st, x)), _ => s.failShot r st x
      | _, some (.error (st, x)) => s.failShot r st x
      | some (.ok d), some (.ok c) =>
        match matmulJob t d c with
        | .error st => s.rejectShot r st
        | .ok j => s.runProduct r t j)
def execMatmul (r : ShotRef) (s : State) : Out State := .next (matmul r s)

/-- R119, R239: a convolution. -/
def convShot (r : ShotRef) (s : State) : State :=
  s.withShot r 0x011 (fun t =>
    let b := t.shot.body
    if !s.canWork r then s
    else match s.fetchFor t (leAt b 0 5) 384, s.fetchFor t (leAt b 8 5) 64 with
      | none, _ | _, none => s
      | some (.error (st, x)), _ => s.failShot r st x
      | _, some (.error (st, x)) => s.failShot r st x
      | some (.ok d), some (.ok c) =>
        match convShotJob t d c with
        | .error st => s.rejectShot r st
        | .ok j => s.runProduct r t j)
def execConv (r : ShotRef) (s : State) : Out State := .next (convShot r s)

/-- R146, R240: a scatter-add. -/
def scatter (r : ShotRef) (s : State) : State :=
  s.withShot r 0x012 (fun t =>
    if !s.canWork r then s
    else match s.fetchFor t (leAt t.shot.body 0 5) 384 with
      | none => s
      | some (.error (st, x)) => s.failShot r st x
      | some (.ok d) =>
        match scatterJob t d with
        | .error st => s.rejectShot r st
        | .ok j => s.runProduct r t j)
def execScatter (r : ShotRef) (s : State) : Out State := .next (scatter r s)

/-! ## CONVERT -/

/-- Bytes from one source row to the next. -/
def ConvertJob.srcLd (j : ConvertJob) : Nat := if j.src.ld = 0 then j.src.t.f.rowBytes j.cols else j.src.ld

/-- Source values of row r, columns [lo, hi): exact element values with block and master scale, rotated when the source names a
rotation (R60, R155, R161). An empty slot of the token list gives a row of +0, which the conversion writes and counts like any other
row: R145 says of an empty slot what a product does with it alone (DESIGN CHOICE, assumption 62). -/
def ConvertJob.slice (j : ConvertJob) (rd : Reader) (toks : List Nat) (r lo hi : Nat) : Except Stop (List Num) := do
  let o := j.src
  let row := if o.auxk = 3 then toks.getD r 0xFFFFFFFF else r
  let n := if o.quant then o.rot else if o.t.f.bits = 4 then 2 else 1
  let a := lo - lo % n
  let z := min j.cols (ceilDiv hi n * n)
  let ms := f32Num o.mscale
  if o.auxk = 3 && row = 0xFFFFFFFF then return List.replicate (hi - lo) (.fin 0 1)
  else if o.auxk = 3 && decide (Config.rowCount o.addr ≤ row) then throw (.fail stIndexRange 0)
  else
    let np := ceilDiv j.cols 32
    let live ← if o.auxk = 2 then do
        let bs ← rd .convert acceptBitmap (o.aux + row * ceilDiv np 8) (ceilDiv np 8)
        pure (fun c => bit (leAt bs (c / 32 / 8) 1) (c / 32 % 8))
      else pure (fun _ => true)
    let blk := o.t.lay.block
    let sc ← if o.t.lay = .plain then pure []
             else rd .convert (acceptScale o.t.lay.scaleFmt) (o.scale + row * ceilDiv j.cols blk + a / blk) (ceilDiv z blk - a / blk)
    -- runs of one presence block each: an absent block is not read (R135)
    let runs ← (List.range (ceilDiv z 32 - a / 32)).mapM (fun i => do
      let x := max a ((a / 32 + i) * 32)
      let y := min z ((a / 32 + i + 1) * 32)
      if live x then do
        let b0 := x * o.t.f.bits / 8
        let bs ← rd .convert (acceptElem o.t.f.code) (o.addr + row * j.srcLd + b0) (o.t.f.rowBytes y - b0)
        return (List.range (y - x)).map (fun c => some (o.t.f.elem (decide (o.t.lay = .coarse)) (o.t.f.code1 bs c)))
      else return List.replicate (y - x) none)
    let elem := fun c => (runs.flatten).getD (c - a) none
    let scale := fun c => leAt sc (c / blk - a / blk) 1
    let xs : List Num :=
      if o.quant then
        let w := (List.range (z - a)).map (fun i => expandWord o.t.lay (elem (a + i)) (scale (a + i)))
        (((cut o.rot w).zipIdx).flatMap (fun g => rotateBlock o.rotSeed o.rotStrm (a + g.2 * o.rot) g.1)).map
          (fun x => (f32Num x).mul ms)
      else (List.range (z - a)).map (fun i =>
        match elem (a + i) with
        | none => .fin 0 1
        | some e =>
          if o.t.lay = .plain then e.num.mul ms
          else if (scaleParts o.t.lay (scale (a + i))).isNone then .nan
          else ((e.underScale (scaleParts o.t.lay (scale (a + i)))).num.mul (scaleNum o.t.lay (scale (a + i)))).mul ms)
    return (xs.drop (lo - a)).take (hi - lo)

/-- Bytes that D0's elements span. -/
def ConvertJob.span (j : ConvertJob) : Nat :=
  if j.rows = 0 || j.cols = 0 then 0
  else (j.rows - 1) * j.d0.rowLd j.cols + j.d0.fmt.f.rowBytes (j.d0.stored j.cols)

/-- Units of work (R267): 4 KiB blocks of D0. -/
def ConvertJob.units (j : ConvertJob) : Nat := destBlocks j.d0.addr j.span

/-- The part that converts the block of D0 that holds row r, column c. -/
def ConvertJob.partOf (j : ConvertJob) (r c : Nat) : Nat :=
  let u := j.d0.elemAddr j.cols r (c - c % j.d0.chunk) / 4096 - j.d0.addr / 4096
  let np := partsOf j.units
  ((List.range np).find? (fun p => decide (u < (partRange j.units np p).2))).getD 0

/-- One row of source cells; a failed read fails the cells it serves. None: a read waits. -/
def ConvertJob.row (j : ConvertJob) (rd : Reader) (toks : List Nat) (r : Nat) : Option (List OutCell × List (Nat × Half × Nat)) :=
  let ch := j.d0.chunk
  (List.range (ceilDiv j.cols ch)).foldl (fun acc g =>
    match acc with
    | none => none
    | some (cells, bad) =>
      let lo := g * ch
      let hi := min j.cols (lo + ch)
      let p := j.partOf r lo
      match j.slice rd toks r lo hi with
      | .error .wait => none
      | .error (.fail st a) =>
        some (cells ++ List.replicate (hi - lo) { part := p, v := .failed }, bad ++ [(p, st, a)])
      | .ok xs => some (cells ++ xs.map (fun x => { part := p, v := .val { v := x } 0 }), bad)) (some ([], []))

/-- The destination whose companion the shot writes: D0, or D1 when its entry alone has a base-note list (R192, assumption 26). -/
def ConvertJob.noted (j : ConvertJob) : Dst :=
  match j.d1 with
  | some d => if j.d0.bnCnt = 0 then d else j.d0
  | none => j.d0

/-- The companion tensor of a base-note conversion (R192, assumption 26). -/
def ConvertJob.companion (j : ConvertJob) : Dst :=
  { addr := j.comp, scale := Config.placeBlock 1 j.comp % 0x2000000 * 4096, sill := 0, pres := 0,
    fmt := { f := .e4m3, lay := .coarse, ocp := false, rnd := false, sill := false, s := j.noted.fmt.s, seed := 0, stream := 0 },
    spat := 0, hasP := false, ld := 0, tid := j.noted.tid, bnAddr := 0, bnCnt := 0 }

/-- Companion cells of one row: the listed channels in list order, padded to a multiple of 32. -/
def companionRow (list : List Nat) (cells : List OutCell) : List OutCell :=
  let cs := list.map (fun c => cells.getD c ⟨0, .failed⟩)
  let p := (cs.getLast?.map (·.part)).getD 0
  cs ++ List.replicate (ceilDiv list.length 32 * 32 - list.length) { part := p, v := .val { v := .fin 0 1 } 0 }

/-- Every part of a conversion (R192, R267). None: a read waits. -/
def ConvertJob.parts (j : ConvertJob) (rd : Reader) (toks list0 list1 : List Nat) : Option (List PartOut) :=
  match (List.range j.rows).mapM (j.row rd toks) with
  | none => none
  | some rs =>
    let np := partsOf j.units
    let rows := rs.map (·.1)
    let bad := rs.flatMap (·.2)
    let list := if list0.isEmpty then list1 else list0
    let out := fun (d : Dst) (z : Nat → Bool) =>
      (List.range j.rows).flatMap (fun m => d.rowOut none 0 j.cols m z (rows.getD m []))
    let c0 := out j.d0 list0.contains
    let c1 := match j.d1 with | some d => some (d, out d list1.contains) | none => none
    let kc := ceilDiv list.length 32 * 32
    let cc := if list.isEmpty then []
              else (List.range j.rows).flatMap (fun m =>
                j.companion.rowOut none 0 kc m (fun _ => false) (companionRow list (rows.getD m [])))
    some ((List.range np).map (fun p =>
      let base : PartOut := { fail := (bad.find? (fun b => b.1 == p)).map (·.2) }
      let d1 := match c1 with | some (d, cs) => d.part cs p | none => {}
      let comp := if list.isEmpty then {} else j.companion.part cc p
      -- clips of the companion count in the one record (R192)
      let clips := ((cc.filter (fun c => c.owner == p && c.ok)).map (·.sill.clips)).sum
      let withClips := fun (o : PartOut) =>
        { o with merges := o.merges.map (fun (m : Nat × Sill) => (m.1, { m.2 with clips := m.2.clips + clips })) }
      let main : PartOut := j.d0.part c0 p
      let main := if list0.isEmpty then main else withClips main
      let d1 := if list0.isEmpty && !list1.isEmpty then withClips d1 else d1
      ((main.plus d1).plus comp).plus base))

/-- The base-note list of a conversion (R192). -/
def bnList (bs : List Byte) (n k : Nat) : Option (List Nat) :=
  let l := (List.range n).map (fun i => leAt bs (4 * i) 4)
  if l.any (fun x => decide (k ≤ x)) || (List.range (n - 1)).any (fun i => decide (l.getD (i + 1) 0 ≤ l.getD i 0)) then none
  else some l

/-- R60, R132, R192: a conversion. -/
def convertShot (r : ShotRef) (s : State) : State :=
  s.withShot r 0x013 (fun t =>
    let b := t.shot.body
    if !s.canWork r then s
    else match s.fetchFor t (leAt b 0 5) 48, s.fetchFor t (leAt b 8 5) 128 with
      | none, _ | _, none => s
      | some (.error (st, x)), _ => s.failShot r st x
      | _, some (.error (st, x)) => s.failShot r st x
      | some (.ok src), some (.ok dst) =>
        match convertJob t src dst with
        | .error st => s.rejectShot r st
        | .ok j =>
          let l1 := match j.d1 with | some d => (d.bnAddr, d.bnCnt) | none => (0, 0)
          match s.fetchFor t j.d0.bnAddr (4 * j.d0.bnCnt), s.fetchFor t l1.1 (4 * l1.2),
                j.src.tokens (s.reader t.tenant stRange) j.rows with
          | none, _, _ | _, none, _ | _, _, .error .wait => s
          | some (.error (st, x)), _, _ => s.failShot r st x
          | _, some (.error (st, x)), _ => s.failShot r st x
          | _, _, .error (.fail st x) => s.failShot r st x
          | some (.ok b0), some (.ok b1), .ok toks =>
            match bnList b0 j.d0.bnCnt j.cols, bnList b1 l1.2 j.cols with
            | none, _ | _, none => s.endShot r stBnList
            | some list0, some list1 =>
              match j.parts (s.reader t.tenant stRange) toks list0 list1 with
              | none => s
              | some ps =>
                let sl := s.operandSlots j.src j.rows j.cols
                (s.touch (s.batchDies t.shot) sl).landShot t r sl ps)
def execConvert (r : ShotRef) (s : State) : Out State := .next (convertShot r s)

/-! ## ROUTE -/

/-- The fields of a ROUTE body (Tables 5-5, 10-8). -/
structure RouteD where
  logits : Nat
  e      : Nat
  k      : Nat
  gate   : Nat
  drop   : Nat
  bf16   : Bool
  gtok   : Nat
  c      : Nat
  ovf    : Nat
  tokens : Nat
  list   : Nat
  gates  : Nat
  count  : Nat
  ovfB   : Nat
  record : Nat
deriving DecidableEq, Repr

def RouteD.parse (b : List Byte) : RouteD :=
  let x := leAt b 11 1
  { logits := leAt b 0 5, e := leAt b 8 2, k := leAt b 10 1, gate := x % 4, drop := fld x 2 2, bf16 := bit x 4,
    gtok := leAt b 12 4, c := leAt b 16 2, ovf := leAt b 18 2, tokens := leAt b 20 4, list := leAt b 24 5, gates := leAt b 32 5,
    count := leAt b 40 5, ovfB := leAt b 48 5, record := leAt b 56 5 }

/-- Logits of a token as binary32. -/
def RouteD.row (d : RouteD) (bs : List Byte) : List Word :=
  (List.range d.e).map (fun i =>
    if d.bf16 then BitVec.ofNat 32 (leAt bs (2 * i) 2 * 2 ^ 16) else BitVec.ofNat 32 (leAt bs (4 * i) 4))

/-- A logit ranks above another: larger, and of equal ones the lower index (R140). -/
def logitAbove (a b : Nat × Word) : Bool :=
  (f32Num b.2).lt (f32Num a.2) || ((f32Num a.2).eq (f32Num b.2) && decide (a.1 < b.1))

/-- The k largest of indexed logits, largest first (R140). -/
def topOf (k : Nat) (xs : List (Nat × Word)) : List (Nat × Word) :=
  (xs.mergeSort (fun a b => logitAbove a b || a.1 == b.1)).take k

/-- The top-k experts of a row (R140). -/
def topK (k : Nat) (row : List Word) : List (Nat × Word) := topOf k (row.zipIdx.map (fun x => (x.2, x.1)))

/-- The softmax of one row at index i, by the steps of R178's worked softmax: the row maximum, exp of each difference (Table 6-9, within
2 ulp), their exact sum rounded once, and one division (R141; that the gates follow these steps is DEDUCED, assumption 3). -/
def softmaxAt (row : List Word) (i : Nat) : Word :=
  let m := row.foldl f32Max 0xFF800000
  let es := row.map (fun x => f32Fn .exp (f32Add x (f32Neg m)))
  let sum := es.foldl (fun (a : Num) e => a.add (f32Num e)) (.fin 0 1)
  f32Div (es.getD i 0) (toF32 sum)

/-- The gate of one selected pair (R141). -/
def RouteD.gateOf (d : RouteD) (row : List Word) (sel : List (Nat × Word)) (i : Nat) : Word :=
  let l := (sel.getD i (0, 0)).2
  match d.gate with
  | 0 => softmaxAt (sel.map (·.2)) i
  | 1 => softmaxAt row (sel.getD i (0, 0)).1
  | _ => l

/-- Pairs of one token: expert, gate; none for a token that holds a NaN. -/
def RouteD.pairs (d : RouteD) (row : List Word) : Option (List (Nat × Word)) :=
  if row.any (fun w => (f32Num w).isNan) then none
  else
    let sel := topK d.k row
    some ((List.range sel.length).map (fun i => ((sel.getD i (0, 0)).1, d.gateOf row sel i)))

/-- A gate ranks above another (R142); a NaN gate ranks lowest (assumption 38). -/
def gateAbove (a b : Nat × Word) : Bool :=
  let x := f32Num a.2
  let y := f32Num b.2
  if x.isNan || y.isNan then (!x.isNan && y.isNan) || (x.isNan == y.isNan && decide (a.1 < b.1))
  else y.lt x || (x.eq y && decide (a.1 < b.1))

/-- The main list and the overflow list of one expert in one group, in ascending token order (R142, R143). -/
def RouteD.keep (d : RouteD) (xs : List (Nat × Word)) : List (Nat × Word) × List (Nat × Word) :=
  if d.c = 0 then ([], [])
  else match d.drop with
  | 0 => (xs.take d.c, [])
  | 1 =>
    let best := (xs.mergeSort (fun a b => gateAbove a b || a.1 == b.1)).take d.c
    (xs.filter (fun x => best.contains x), [])
  | _ => (xs.take d.c, (xs.drop d.c).take d.ovf)

/-- A list of n slots with its gates (R143). -/
def slotBytes (n : Nat) (xs : List (Nat × Word)) : List Byte × List Byte :=
  ((List.range n).flatMap (fun i => leBytes 4 ((xs[i]?.map (·.1)).getD 0xFFFFFFFF)),
   (List.range n).flatMap (fun i => leBytes 4 ((xs[i]?.map (·.2.toNat)).getD 0)))

/-- What one token group writes, and its routing record. R143 gives no base for the gates of overflow pairs: none are written (DESIGN
CHOICE, assumption 62). -/
def RouteD.group (d : RouteD) (g : Nat) (toks : List (Nat × List Word)) : List (Nat × List Byte) × List Byte :=
  let ps := toks.map (fun t => (t.1, d.pairs t.2))
  let per := (List.range d.e).map (fun e =>
    ps.filterMap (fun p => match p.2 with
      | none => none
      | some l => (l.find? (fun x => x.1 == e)).map (fun x => (p.1, x.2))))
  let kept := per.map d.keep
  let runs := (List.range d.e).flatMap (fun e =>
    let m := kept.getD e ([], [])
    let i := g * d.e + e
    let ml := slotBytes d.c m.1
    let ol := slotBytes d.ovf m.2
    [(d.list + i * d.c * 4, ml.1), (d.gates + i * d.c * 4, ml.2), (d.count + i * 4, leBytes 4 m.1.length)] ++
    (if d.drop = 2 then [(d.ovfB + i * d.ovf * 4, ol.1)] else []))
  let routed := (ps.filter (fun p => p.2.isSome)).length
  let k := (kept.map (fun m => m.1.length + m.2.length)).sum
  (runs, leBytes 8 (routed * d.k) ++ leBytes 8 k ++ leBytes 8 (routed * d.k - k) ++ leBytes 4 (ps.length - routed) ++ zeros 4)

/-- The work of group g: read its logits. None: a read waits. -/
def RouteD.tryGroup (d : RouteD) (rd : Reader) (g : Nat) : Except Stop (List (Nat × List Byte) × List Byte) := do
  let w := if d.bf16 then 2 else 4
  let toks ← (List.range d.gtok).mapM (fun i => do
    let tok := g * d.gtok + i
    let bs ← rd .other (acceptElem (if d.bf16 then EFmt.bf16 else EFmt.f32).code) (d.logits + tok * d.e * w) (d.e * w)
    return (tok, d.row bs))
  return d.group g toks

/-- Commit one part of a routing shot: its lists (RAW), then its record's merge (R144). -/
def State.routePart (s : State) (t : Tracked) (d : RouteD) (gs : List Nat) : Except Stop State := do
  let rd := s.reader t.tenant stRange
  let ws ← gs.mapM (d.tryGroup rd)
  let s ← s.writeRuns t.req [] kRaw 0 0 ((ws.flatMap (·.1)).filter (fun r => !r.2.isEmpty))
  s.rmw t.req d.record 32 (mergeRouting (ws.foldl (fun p w => mergeRouting w.2 p) (zeros 32)))

/-- Destination ranges of a part of groups (R315). -/
def RouteD.touch (d : RouteD) (lo hi : Nat) : List (Nat × Nat) :=
  let n := (hi - lo) * d.e
  [(d.list + lo * d.e * d.c * 4, n * d.c * 4), (d.gates + lo * d.e * d.c * 4, n * d.c * 4), (d.count + lo * d.e * 4, n * 4)] ++
  (if d.drop = 2 then [(d.ovfB + lo * d.e * d.ovf * 4, n * d.ovf * 4)] else [])

/-- Parts of a routing shot one after the other. None: an access waits. -/
def State.routeParts (t : Tracked) (d : RouteD) (groups np : Nat) :
    List Nat → State → Option (State × List (Option (Half × Nat)))
  | [], s => some (s, [])
  | p :: ps, s =>
    let r := partRange groups np p
    let done : Except Stop State :=
      match t.lost.find? (fun x => x.1 == p) with
      | some x => .error (.fail x.2.1 (reported + x.2.2))
      | none => s.routePart t d ((List.range (r.2 - r.1)).map (r.1 + ·))
    match done with
    | .ok u => (State.routeParts t d groups np ps u).map (fun x => (x.1, none :: x.2))
    | .error (.fail st a) => (State.routeParts t d groups np ps s).map (fun x => (x.1, some (st, a) :: x.2))
    | .error .wait => none

/-- R140 to R144: routing logits into token lists. -/
def route (r : ShotRef) (s : State) : State :=
  s.withShot r 0x014 (fun t =>
    let d := RouteD.parse t.shot.body
    if !s.canWork r then s
    else if d.tokens = 0 then s.endShot r stSuccess
    else
      let groups := d.tokens / d.gtok
      let np := partsOf groups
      match State.routeParts t d groups np (List.range np) s with
      | none => s
      | some (u, fs) =>
        let ps := (List.range np).map (fun p =>
          ({ touch := d.touch (partRange groups np p).1 (partRange groups np p).2 } : PartOut))
        (u.failures r.reel.val r.seq ps fs).modTracked r (fun t => t.land fs false false))
def execRoute (r : ShotRef) (s : State) : Out State := .next (route r s)

end Sys2Proof.Machine
end

