-- ==== Sys2Proof/Machine/CoreMatrix.lean ====
section
/-!
DEFINITION. The matrix instructions MMA, CONV, SCAT (R237 to R241), the held ledger set and the LX operations (R242, R243), and
the token time limit (R250).
-/
namespace Sys2Proof.Machine

/-! ## The matrix word (Table 9-3) -/

/-- Reserved values of a matrix word; `op` is 0 MMA, 1 CONV, 2 SCAT. -/
def mxWordBad (op : Nat) (w : Dword) : Bool :=
  let q := fun (on : Bool) (x : Nat) => if on then decide (x < 12) else decide (x ≠ 0)
  let comp := bitsOf w 39 32
  let bn := flagOf w 48
  flagOf w 28 || decide (250 < bitsOf w 47 40) || q (flagOf w 31) (bitsOf w 27 24) || q (flagOf w 30) (bitsOf w 23 20) ||
  q (flagOf w 29) (bitsOf w 19 16) || (flagOf w 29 == decide (bitsOf w 15 0 = 0)) || (decide (op ≠ 0) && bn) ||
  (op = 0 && (if bn then decide (250 < comp) else decide (comp ≠ 0))) || (op = 2 && (comp ≠ 0 || flagOf w 49)) ||
  (flagOf w 49 && bitsOf w 55 54 = 2)

/-- MODE as the word carries it (R237). -/
def mxMode (w : Dword) : PMode :=
  { acc := bitsOf w 55 54, spat := bitsOf w 53 52, stat := bitsOf w 51 51, stage := flagOf w 50 }

/-- A literal destination block whose fields break no rule: what stands in for a block that an instruction does not use (R235). -/
def plainBlock (n : Nat) : List Byte := putAt (putAt (zeros n) 48 (leBytes 4 0x3F800000 ++ leBytes 2 5)) 54 [1]

/-- A product descriptor with its epilogue taken out, for an instruction that does not run it (R242). BIAS 0b01 stays: it is the
initial value of the ledgers. -/
def withoutEpilogue (d : List Byte) : List Byte :=
  let e0 := if leAt d 304 1 % 4 = 1 then 1 else 0
  let d := putAt (putAt d 128 (plainBlock 64 ++ zeros 64)) 264 (zeros 32)
  let d := putAt d 304 (leBytes 1 e0 ++ leBytes 1 (leAt d 305 1 / 16 * 16) ++ leBytes 1 (leAt d 306 1 &&& 0xE7))
  putAt d 312 (zeros 16)

/-- A product descriptor whose operands are taken out but for their master scales, for RELEASE (R242). -/
def withoutOperands (d : List Byte) : List Byte :=
  let o := fun (a : Nat) => zeros 32 ++ bytesAt d (a + 32) 4 ++ leBytes 2 5 ++ zeros 10
  putAt (putAt (putAt d 0 (o 0 ++ o 48)) 96 (zeros 32)) 328 (zeros 32)

/-- The status of an instruction whose descriptor breaks a rule: RSVD_FIELD, and for a misaligned record the memory class of R69. -/
def instrStatus (st : Half) : Half := if st = stAlign then stOperandRange else stRsvdField

/-- A block mask whose address is not 16-byte aligned: a field of the descriptor that is not valid (R138, R236). -/
def maskUneven (d : List Byte) : Bool :=
  let g := leAt d 306 1 % 8
  (g = 1 || g = 4) && leAt d 296 5 % 16 ≠ 0

/-- The address of an operand that arrives is not read (Table 9-5). -/
def withoutArriving (w : Dword) (d : List Byte) : List Byte :=
  let d := if flagOf w 31 then putAt d 0 (zeros 8) else d
  if flagOf w 30 then putAt d 48 (zeros 8) else d

/-- Operands that arrive stand in their reader's windows (R174). -/
def arriving (w : Dword) (p : Prod) : Prod :=
  let p := if flagOf w 31 then { p with a := { p.a with addr := arriveBase 0 } } else p
  if flagOf w 30 then { p with b := { p.b with addr := arriveBase 1 } } else p

/-- The job of a matrix instruction (R237 to R241). -/
def State.mxJob (s : State) (v : Core) (op : Nat) (w : Dword) : Except Half ProdJob := do
  let md := mxMode w
  let kind : PKind := match op with | 0 => .mm | 1 => .conv | _ => .scat
  let eval := s.coreEval v
  let d := withoutArriving w (v.slots (bitsOf w 47 40) 6)
  let d := if flagOf w 49 then withoutEpilogue d else d
  if maskUneven d then throw stRsvdField
  let p ← Prod.read kind false md (fun _ => none) eval d
  let conv ← if op = 1 then (ConvD.parse (v.slots (bitsOf w 39 32) 1)).map some else pure none
  let comp ← if flagOf w 48 then
      (Prod.read .comp false { md with spat := 0 } (fun _ => none) eval (v.slots (bitsOf w 39 32) 6)).map some
    else pure none
  let t := s.shotOn v
  let j ← prodJob (arriving w p) conv comp (decide (op = 2)) (s.coreMode v) ((t.map (fun t => t.shot.seq.toNat)).getD 0)
  let j := { j with nblk := if flagOf w 29 then bitsOf w 15 0 else 0 }
  -- a held set is one output tile (R242)
  if flagOf w 49 && (j.tiles.length ≠ 1 || decide (32 < p.n) || decide ((if md.acc = 1 then 384 else 128) < p.m)) then throw stFormat
  return j

/-- The queues a matrix word names (R174). -/
def mxQueues (w : Dword) : List Nat := [bitsOf w 27 24, bitsOf w 23 20, bitsOf w 19 16]

/-- Delivery queues named by an instruction that has completed are released (R248). -/
def State.releaseQueues (s : State) (k : Nat) (qs : List Nat) : State :=
  s.modCoreK k (fun v => (qs.filter (fun q => decide (12 ≤ q))).foldl Core.release v)

/-- Slots that a program's products read, and those that taint it (R432, R443). -/
def State.enterProduct (s : State) (c : CoreId) (p : Prod) : State :=
  let taint := s.quantTaint p.a p.m p.k ++ s.quantTaint p.b p.n p.k
  (s.touch [c.die.val] (s.operandSlots p.a p.m p.k ++ s.operandSlots p.b p.n p.k)).modCoreK c.key
    (fun v => { v with taint := (v.taint ++ taint).eraseDups })

/-- Ledgers of a tile as the cells hold them, by output row and column. -/
def heldLedgers (t : Tile) (r : TileRes) (wide : Bool) : Tab Ledger :=
  r.cells.foldl (fun m c => tset m ((c.1 - t.s0) * 32 + (c.2.1 - t.c0))
    (match c.2.2 with | some (.led g) => g | _ => Ledger.cleared wide r.wbase)) []

/-- A product with HOLD = 1: its ledgers stay in the cells (R242). -/
def State.holdProduct (s : State) (c : CoreId) (v : Core) (w : Dword) (j : ProdJob) : Iss :=
  let rd := s.coreReader v (mxQueues w)
  let p := j.job.p
  let t := j.tiles.headD ⟨0, 0, 0, 0⟩
  Iss.ofRead (do
    let mask ← p.readMask rd
    let bias ← p.readBias rd
    j.sums rd mask bias t) (fun r =>
      let leds := r.cells.filterMap (fun c => match c.2.2 with | some (.led g) => some g | _ => none)
      let part : PartOut := { merges := r.recs, counts := { r.counts with epElems := 0 }, wloss := leds.any (·.wloss), sat := leds.any (·.sat) }
      (s.enterProduct c p).commitInstr v c.key part (fun u =>
        .next ((u.modCoreK c.key (fun x => { x with mx := { x.mx with
          ledgers := heldLedgers { t with s0 := 0, c0 := 0 } r (decide (p.mode.acc = 1)), held := some (p.m, p.n), shape := (p.m, p.n),
          wbase := r.wbase, sa := p.a.mscale, sb := p.b.mscale, acc := BitVec.ofNat 2 p.mode.acc, row0 := 0, col0 := 0,
          desc := v.slots (bitsOf w 47 40) 6 } })).releaseQueues c.key (mxQueues w))))

/-- A matrix instruction that waits within its tiles (R172, R174, Table 9-13): the tiles that are complete commit. -/
def State.matrixSome (s : State) (c : CoreId) (w : Dword) (v : Core) (e : Issued) (j : ProdJob) : Iss :=
  match j.ready (s.coreReader v (mxQueues w)) with
  | .error .wait => .wait
  | .error (.fail st a) =>
    -- the failed access fails the part, whose destinations go STALE (R315)
    s.commitInstr v c.key ((j.allFail 1 st a).headD {}) .next
  | .ok ws =>
    if ws.length ≤ e.pos then .wait
    else
      let u := if e.started then s else s.enterProduct c j.job.p
      u.commitInstr (u.coreK c.key) c.key (j.advance ws e.pos ws.length) (fun u =>
        if ws.length < j.tiles.length then .part u ws.length else .next (u.releaseQueues c.key (mxQueues w)))

/-- A matrix instruction (R236 to R242). -/
def State.matrixInstr (s : State) (c : CoreId) (op : Nat) (w : Dword) (v : Core) (e : Issued) : Iss :=
  (Iss.unless (mxWordBad op w) stRsvdField)
    (match s.mxJob v op w with
     | .error st => .fault (if st = stAlign && v.mx.held.isSome then stLedgerState else instrStatus st)
     | .ok j =>
       (Iss.unless v.mx.held.isSome stLedgerState)
         (if flagOf w 49 then s.holdProduct c v w j
          else if e.started then s.matrixSome c w v e j
          else
            match j.parts (s.coreReader v (mxQueues w)) 1 with
            | none => s.matrixSome c w v e j
            | some ps =>
              let u := s.enterProduct c j.job.p
              u.commitInstr (u.coreK c.key) c.key (ps.headD {}) (fun u => .next (u.releaseQueues c.key (mxQueues w)))))

/-- R237: a matrix product. -/
def mma (c : CoreId) (w : Dword) (s : State) : State := s.issue c w 0x00 (s.matrixInstr c 0 w)
def execMma (c : CoreId) (w : Dword) (s : State) : Out State := .next (mma c w s)

/-- R239: a convolution. -/
def convInstruction (c : CoreId) (w : Dword) (s : State) : State := s.issue c w 0x01 (s.matrixInstr c 1 w)
def execConvInstruction (c : CoreId) (w : Dword) (s : State) : Out State := .next (convInstruction c w s)

/-- R240: a scatter-add. -/
def scat (c : CoreId) (w : Dword) (s : State) : State := s.issue c w 0x02 (s.matrixInstr c 2 w)
def execScat (c : CoreId) (w : Dword) (s : State) : Out State := .next (scat c w s)

/-! ## The held set -/

/-- Reserved values of an LX word for a SUB (Table 9-7): the fields the operation does not use are 0. -/
def lxWordBad (sub : Nat) (w : Dword) : Bool :=
  let q := bitsOf w 52 49
  let spin := bitsOf w 47 32
  let spout := bitsOf w 31 16
  let inUse := decide (sub ∈ [0, 1, 3, 5])
  let outUse := decide (sub ∈ [0, 1, 2])
  (if inUse then unitBad spin else decide (spin ≠ 0)) || (if outUse then unitBad spout else decide (spout ≠ 0)) ||
  (if flagOf w 48 then sub ≠ 1 || decide (q < 12) else decide (q ≠ 0)) ||
  (if sub = 4 then decide (250 < bitsOf w 15 8) else decide (bitsOf w 15 8 ≠ 0)) || bitsOf w 7 0 ≠ 0

/-- An LX instruction: SUB 0b111 is reserved; its word and descriptor are checked first; every SUB but RELOAD needs a held set, and
RELOAD none (R236, R242). -/
def State.issueLx (s : State) (c : CoreId) (w : Dword) (sub : Nat) (bad : Core → Bool) (g : Core → Nat → Iss) : State :=
  if bitsOf w 55 53 ≠ sub && bitsOf w 55 53 ≠ 7 then s
  else s.issue c w 0x03 (fun v _ =>
    if bitsOf w 55 53 = 7 then .fault stRsvdField
    else
      (Iss.unless (lxWordBad sub w || bad v) stRsvdField)
        (match v.mx.held with
         | some (rows, _) => if sub = 3 then .fault stLedgerState else g v rows
         | none => if sub = 3 then g v 0 else .fault stLedgerState))

/-- Byte of the scratchpad that a unit field names. -/
def spinOf (w : Dword) : Nat := bitsOf w 47 32 * 64
def spoutOf (w : Dword) : Nat := bitsOf w 31 16 * 64
/-- Bytes of a list of LEDGER96 blocks, one per row (R243). -/
def l96Span (rows : Nat) : Nat := if rows = 0 then 0 else (rows - 1) / 10 * 4096 + (if rows % 10 = 0 then 4096 else rows % 10 * 400)

/-- Entry i of a list of 16-bit numbers. -/
def pad16 (v : Core) (a i : Nat) : Int := toSigned 16 (leNat (v.pad (a + 2 * i) 2))

/-- R242, R95: the larger of each row's own P and the one it is given. -/
def lxExp (c : CoreId) (w : Dword) (s : State) : State :=
  s.issueLx c w 0 (fun _ => false) (fun v rows =>
    (Iss.unless (!padFits (spinOf w) (2 * rows) || !padFits (spoutOf w) (2 * rows)) stOperandRange)
      (let given := expOf (v.pad (spinOf w) (2 * rows))
       let own := (List.range rows).map (fun r => (v.mx.row r).foldl (fun m g => maxP m g.p) none)
       .next (s.modCoreK c.key (·.padPut (spoutOf w)
         (expBytes ((List.range rows).map (fun r => maxP (own.getD r none) (given.getD r none))))))))
def execLxExp (c : CoreId) (w : Dword) (s : State) : Out State := .next (lxExp c w s)

/-- The arriving LEDGER96 block of row r on queue q. -/
def Core.arrivedBlock (v : Core) (q r : Nat) : Except Stop L96Block :=
  match arriveGet v.arrived q 401 (l96Offset r) 400 with
  | none => .error .wait
  | some bs => match L96Block.decode bs with
    | none => .error (.fail stTransport 0)
    | some b => .ok b

/-- R242, R93, R94: the rows as LEDGER96 blocks, combined with arriving ones. -/
def lxOut (c : CoreId) (w : Dword) (s : State) : State :=
  s.issueLx c w 1 (fun _ => false) (fun v rows =>
    (Iss.unless (!padFits (spinOf w) (2 * rows) || !padFits (spoutOf w) (l96Span rows)) stOperandRange)
      (let q := bitsOf w 52 49
       Iss.ofRead ((List.range rows).mapM (fun r => do
         let b := toBlock (pad16 v (spinOf w) r) (v.mx.row r)
         if flagOf w 48 then
           let a ← v.arrivedBlock q r
           return b.combine a
         else return b)) (fun bs =>
           let runs := (List.range rows).flatMap (fun r => l96Runs (spoutOf w) r (rows - 1) ((bs.getD r ⟨0, false, []⟩).bytes))
           .next ((s.modCoreK c.key (fun v => runs.foldl (fun v x => v.padPut x.1 x.2) v)).releaseQueues c.key [q]))))
def execLxOut (c : CoreId) (w : Dword) (s : State) : Out State := .next (lxOut c w s)

/-- R242, R85: spill images of the set, which stays held. -/
def lxSpill (c : CoreId) (w : Dword) (s : State) : State :=
  s.issueLx c w 2 (fun _ => false) (fun v rows =>
    (Iss.unless (!padFits (spoutOf w) (1024 * rows)) stOperandRange)
      (.next (s.modCoreK c.key (·.padPut (spoutOf w)
        ((List.range rows).flatMap (fun r => (v.mx.row r).flatMap Ledger.spill))))))
def execLxSpill (c : CoreId) (w : Dword) (s : State) : Out State := .next (lxSpill c w s)

/-- Rows of a RELOAD: those of the last held set, or with none of the whole set of the first image's mode (assumption 45). -/
def Core.reloadRows (v : Core) (a : Nat) : Nat :=
  if v.mx.shape.1 ≠ 0 then v.mx.shape.1 else if bit (leNat (v.pad (a + 26) 1)) 5 then 384 else 128

/-- R242, R86: a held set from its spill images; an invalid image fails the part. -/
def lxReload (c : CoreId) (w : Dword) (s : State) : State :=
  s.issueLx c w 3 (fun _ => false) (fun v _ =>
    let a := spinOf w
    let rows := v.reloadRows a
    (Iss.unless (!padFits a (1024 * rows)) stOperandRange)
      (match (List.range (32 * rows)).mapM (fun i => Ledger.reload (v.pad (a + 32 * i) 32)) with
       | none => .mem stSpillInvalid 0
       | some gs =>
         .next ((s.flagLedgers v (gs.map (fun g => (0, g)))).modCoreK c.key (fun x => { x with mx := { x.mx with
           ledgers := gs.zipIdx.foldl (fun m g => tset m g.2 g.1) [], held := some (rows, if x.mx.shape.2 = 0 then 32 else x.mx.shape.2),
           shape := (rows, if x.mx.shape.2 = 0 then 32 else x.mx.shape.2),
           acc := if (gs.headD {}).wide then 1 else 0, wbase := (gs.headD {}).wbase } }))))
def execLxReload (c : CoreId) (w : Dword) (s : State) : Out State := .next (lxReload c w s)

/-- The set is no longer held. -/
def Mx.unheld (m : Mx) : Mx := { m with ledgers := [], held := none }

/-- The product of a RELEASE: its operands are not used but for their master scales (R242). -/
def State.releaseProd (s : State) (w : Dword) (v : Core) : Except Half Prod :=
  let md : PMode := { acc := b2n (decide (v.mx.acc = 1)), spat := 0, stat := 0, stage := false }
  let d := withoutOperands (v.slots (bitsOf w 15 8) 6)
  if maskUneven d then .error stRsvdField else Prod.read .mm false md (fun _ => none) (s.coreEval v) d

/-- R242: the set drains through the epilogue of a descriptor. -/
def lxRelease (c : CoreId) (w : Dword) (s : State) : State :=
  s.issueLx c w 4 (fun v => match s.releaseProd w v with | .error st => instrStatus st = stRsvdField | .ok _ => false) (fun v rows =>
    let cols := (v.mx.held.getD (0, 0)).2
    match s.releaseProd w v with
    | .error st => .fault (instrStatus st)
    | .ok p =>
      let j : ProdJob := { job := { p := { p with m := rows, n := cols }, conv := none, comp := none }, scat := false, mode := 0, seq := 0 }
      let rd := s.coreReader v []
      let t : Tile := { s0 := 0, sn := rows, c0 := 0, cn := cols }
      let r : TileRes :=
        { cells := (List.range rows).flatMap (fun m => (List.range cols).map (fun n => (m, n, some (Acc.led (v.mx.ledger m n))))),
          recs := [], counts := { epElems := rows * cols }, wbase := v.mx.wbase }
      Iss.ofRead (do
        let bias ← j.job.p.readBias rd
        j.finish rd bias t r) (fun x =>
          s.commitInstr v c.key ((j.outcome 1 [(t, .ok x)]).headD {}) (fun u =>
            .next (u.modCoreK c.key (fun y => { y with mx := y.mx.unheld })))))
def execLxRelease (c : CoreId) (w : Dword) (s : State) : Out State := .next (lxRelease c w s)

/-- R242, R96: LEDGER96 blocks, one per row, enter the set; an invalid block fails the part (R92). -/
def lxAdd (c : CoreId) (w : Dword) (s : State) : State :=
  s.issueLx c w 5 (fun _ => false) (fun v rows =>
    (Iss.unless (!padFits (spinOf w) (l96Span rows)) stOperandRange)
      (match (List.range rows).mapM (fun r => L96Block.decode (v.pad (spinOf w + l96Offset r) 400)) with
       | none => .mem stTransport 0
       | some bs =>
         let led := (List.range (32 * rows)).foldl (fun m i =>
           let b := bs.getD (i / 32) ⟨0, false, []⟩
           tset m i ((v.mx.ledger (i / 32) (i % 32)).addL96 (b.elems.getD (i % 32) .empty) b.bexp b.wloss)) v.mx.ledgers
         .next ((s.flagLedgers v led).modCoreK c.key (fun x => { x with mx := { x.mx with ledgers := led } }))))
def execLxAdd (c : CoreId) (w : Dword) (s : State) : Out State := .next (lxAdd c w s)

/-- R242: the set is cleared and no longer held. -/
def lxDiscard (c : CoreId) (w : Dword) (s : State) : State :=
  s.issueLx c w 6 (fun _ => false) (fun _ _ => .next (s.modCoreK c.key (fun y => { y with mx := y.mx.unheld })))
def execLxDiscard (c : CoreId) (w : Dword) (s : State) : Out State := .next (lxDiscard c w s)

/-! ## The token time limit -/

/-- An engine waits on tokens, or on room for them, in the instruction it is at (R174, R248, R250). -/
def State.waitsOnToken (s : State) (c : CoreId) (v : Core) (e : Issued) : Bool :=
  let w := e.iw
  let q := bitsOf w 55 52
  let n := bitsOf w 51 44
  let u := v.seenBy e
  let arr := flagOf w 31 || flagOf w 30 || flagOf w 29
  let noRoom := fun (tok tq : Nat) => e.started && bitsOf w tok tok = 1 && decide (255 ≤ v.count tq)
  match opOf w with
  | 0x50 => decide (255 < v.count q + n)
  | 0x51 => if 12 ≤ q then !(v.tokens q).contains n else decide (v.count q < n)
  | 0x00 => arr && s.matrixInstr c 0 w u e == .wait
  | 0x01 => arr && s.matrixInstr c 1 w u e == .wait
  | 0x02 => arr && s.matrixInstr c 2 w u e == .wait
  | 0x03 => bitsOf w 55 53 = 1 && flagOf w 48 &&
            (List.range (v.mx.held.getD (0, 0)).1).any (fun r => (arriveGet v.arrived (bitsOf w 52 49) 401 (l96Offset r) 400).isNone)
  | 0x40 | 0x41 => noRoom 31 (bitsOf w 30 27) && decide ((u.par (bitsOf w 51 48)).toNat ≤ e.pos)
  | 0x42 => noRoom 43 (bitsOf w 42 39) && decide ((u.par (bitsOf w 47 44)).toNat ≤ e.pos)
  | _ => false

/-- The instructions the engines are at. -/
def Core.heads (v : Core) : List Issued := (List.range 5).filterMap (fun n => (v.ofEngine n).head?)

/-- R250: an engine has waited longer than CORE_PG_WDOG allows: every engine stops, uncommitted tiles are discarded and the program
ends. -/
def tokenTimeout (c : CoreId) (s : State) : State :=
  let v := s.core c
  match v.heads.find? (s.waitsOnToken c v) with
  | some e =>
    if s.issues c && v.wdog != 0 then
      (s.modCoreK c.key (fun v => { v with mx := { v.mx with pendCheck := [], pendTile := [] } })).faultAt c.key stTokenTimeout e.pc
    else s
  | none => s
def execTokenTimeout (c : CoreId) (s : State) : Out State := .next (tokenTimeout c s)

end Sys2Proof.Machine
end

