-- ==== Sys2Proof/Machine/Ethernet.lean ====
section
/-!
DEFINITION. Ethernet ports (R371 to R373): MACsec, RoCEv2 packets, and the device's answers on its own addresses. A recorded
answer is the ARP packet, or source address, destination address and ICMP message; the published framing around it is not kept.
-/
namespace Sys2Proof.Machine

/-- The port is up and its frames are protected. -/
def EthPort.ready (e : EthPort) : Bool := e.up && e.secured
/-- MAC and IP address of a port record (Table 13-15). -/
def EthPort.mac (e : EthPort) : List Byte := bytesAt e.config 0 6
def EthPort.ip (e : EthPort) : List Byte := bytesAt e.config 8 16

/-- An IPv4 address in its IPv4-mapped form. -/
def mapped4 (ip : List Byte) : List Byte := zeros 10 ++ [0xFF#8, 0xFF#8] ++ ip

/-- The port answers on this address: its own, on a configured port. -/
def State.answers (s : State) (e : Fin 4) (target : List Byte) : Bool :=
  let p := s.eth e.val
  p.ready && s.links.edgBase ≠ 0 && (p.ip == (if target.length = 4 then mapped4 target else target))

/-- EtherType of a frame, past one VLAN tag. -/
def etherType (b : List Byte) : List Byte :=
  if bytesAt b 12 2 = [0x81#8, 0x00#8] then bytesAt b 16 2 else bytesAt b 12 2

/-- R372: an unprotected frame other than EAPOL is dropped and counted. -/
def ethernetFrame (e : Fin 4) (macsec : Bool) (bytes : List Byte) (s : State) : State :=
  if !macsec && (s.eth e.val).up && etherType bytes ≠ [0x88#8, 0x8E#8] then
    s.modEth e.val (fun p => { p with drops := satInc p.drops })
  else s
def execEthernetFrame (e : Fin 4) (macsec : Bool) (bytes : List Byte) (s : State) : Out State :=
  .next (ethernetFrame e macsec bytes s)

/-- R373: a SEND with the PSN its queue pair expects is passed on as if it had arrived on a Burou port. -/
def roceSend (e : Fin 4) (src : Half) (psn : Nat) (p : Packet) (s : State) : State :=
  let want := tget (fun _ => 0) s.links.psnRx src.toNat
  let usable := (tget (fun _ => 0) s.links.peers src.toNat).testBit e.val
  if (s.eth e.val).ready && usable && s.links.edgBase ≠ 0 && psn = want && s.clocks then
    let s := s.modLinks (fun l => { l with psnRx := tset l.psnRx src.toNat ((want + 1) % 2 ^ 24) })
    if packetBad p then s else s.modLinks (fun l => { l with inbox := l.inbox ++ [p] })
  else s
def execRoceSend (e : Fin 4) (src : Half) (psn : Nat) (p : Packet) (s : State) : Out State := .next (roceSend e src psn p s)

/-- R373, R392: the queue pair's packets fail, and collectives that need it abort. -/
def qpRetryExhausted (peer : Half) (s : State) : State :=
  (s.modLinks (fun l => { l with qpDead := if l.qpDead.contains peer.toNat then l.qpDead else l.qpDead ++ [peer.toNat] })).abortUnreachable
def execQpRetryExhausted (peer : Half) (s : State) : Out State := .next (qpRetryExhausted peer s)

/-- The ARP reply for an address of the port. -/
def arpReply (own mac ip target : List Byte) : List Byte :=
  [0x00#8, 0x01#8, 0x08#8, 0x00#8, 0x06#8, 0x04#8, 0x00#8, 0x02#8] ++ own ++ target ++ mac ++ ip

/-- R371. -/
def arp (e : Fin 4) (mac ip target : List Byte) (s : State) : State :=
  if target.length = 4 && s.answers e target then s.emit (.ethernet e (arpReply (s.eth e.val).mac mac ip target)) else s
def execArp (e : Fin 4) (mac ip target : List Byte) (s : State) : Out State := .next (arp e mac ip target s)

/-- Sum of big-endian 16-bit words. -/
def sum16 : List Byte → Nat
  | a :: b :: r => a.toNat * 256 + b.toNat + sum16 r
  | [a] => a.toNat * 256
  | [] => 0
/-- The internet checksum, big-endian. -/
def inetSum (bs : List Byte) : List Byte :=
  let x := sum16 bs
  let f := fun y => y / 65536 + y % 65536
  let c := 65535 - f (f (f x))
  [BitVec.ofNat 8 (c / 256), BitVec.ofNat 8 c]

/-- The checksum of an ICMPv6 message under its pseudo-header. -/
def icmp6Sum (src dst msg : List Byte) : List Byte :=
  inetSum (src ++ dst ++ (leBytes 4 msg.length).reverse ++ [0x00#8, 0x00#8, 0x00#8, 0x3A#8] ++ msg)

/-- R371: a neighbour advertisement, solicited and overriding, with the port's MAC. -/
def neighbourDiscovery (e : Fin 4) (_mac ip target : List Byte) (s : State) : State :=
  if target.length = 16 && s.answers e target then
    let rest := [0x60#8, 0x00#8, 0x00#8, 0x00#8] ++ target ++ [0x02#8, 0x01#8] ++ (s.eth e.val).mac
    let c := icmp6Sum target ip ([0x88#8, 0x00#8, 0x00#8, 0x00#8] ++ rest)
    s.emit (.ethernet e (target ++ ip ++ [0x88#8, 0x00#8] ++ c ++ rest))
  else s
def execNeighbourDiscovery (e : Fin 4) (mac ip target : List Byte) (s : State) : Out State :=
  .next (neighbourDiscovery e mac ip target s)

/-- R371: an echo reply; `data` is the request after its checksum. -/
def icmpEcho (e : Fin 4) (ip target data : List Byte) (s : State) : State :=
  if s.answers e target then
    let msg : List Byte :=
      if target.length = 4 then [0x00#8, 0x00#8] ++ inetSum ([0x00#8, 0x00#8, 0x00#8, 0x00#8] ++ data) ++ data
      else [0x81#8, 0x00#8] ++ icmp6Sum target ip ([0x81#8, 0x00#8, 0x00#8, 0x00#8] ++ data) ++ data
    s.emit (.ethernet e (target ++ ip ++ msg))
  else s
def execIcmpEcho (e : Fin 4) (ip target data : List Byte) (s : State) : Out State := .next (icmpEcho e ip target data s)

/-- R372: MKA with the pre-shared CAK of this CKN; `ok` is the outcome of the published key agreement. -/
def eapol (e : Fin 4) (ckn : List Byte) (ok : Bool) (s : State) : State :=
  match (s.eth e.val).cak with
  | some (k, _) => if k = ckn && ok && (s.eth e.val).up then s.modEth e.val (fun p => { p with secured := true }) else s
  | none => s
def execEapol (e : Fin 4) (ckn : List Byte) (ok : Bool) (s : State) : Out State := .next (eapol e ckn ok s)

/-- R371: pause or resume the one priority that the port record enables; packets that waited go once none is paused. -/
def priorityFlowControl (e : Fin 4) (prio : Fin 8) (quanta : Half) (s : State) : State :=
  let c := leAt (s.eth e.val).config 27 1
  if bit c 4 && c % 16 = prio.val then
    let one : Byte := 1#8 <<< prio.val
    let s := s.modEth e.val (fun p => { p with paused := if quanta = 0 then p.paused &&& ~~~one else p.paused ||| one })
    if quanta = 0 then
      s.links.ethWait.foldl State.send (s.modLinks (fun l => { l with ethWait := [] }))
    else s
  else s
def execPriorityFlowControl (e : Fin 4) (prio : Fin 8) (quanta : Half) (s : State) : Out State :=
  .next (priorityFlowControl e prio quanta s)

end Sys2Proof.Machine
end

