-- ==== Sys2Proof/Machine/Vector.lean ====
section
/-!
DEFINITION. The vector instructions (R176 to R178, R215, R244 to R246): tile registers, row accumulators, tile loads and stores,
random draws, element masks, routing top-k and block scales.
-/
namespace Sys2Proof.Machine

/-- A tile register (R176). -/
def Core.tile (v : Core) (i : Nat) : List Word := tget (fun _ => List.replicate 1024 0) v.tl i
def Core.setTile (v : Core) (i : Nat) (t : List Word) : Core := { v with tl := tset v.tl i t }

/-- Element i of a tile. -/
def el (t : List Word) (i : Nat) : Word := t.getD i 0
/-- A tile from its elements by index. -/
def tileOf (f : Nat → Word) : List Word := (List.range 1024).map f

/-! ## The vector word (Table 9-8) -/

/-- Reserved values of a vector word whose operation uses the sources `used` (1 TA, 2 TB, 3 TC): a source the organ replaces, or one
the operation does not use, is 0. -/
def vecWordBad (w : Dword) (used : List Nat) (td tfd : Bool) : Bool :=
  let osrc := bitsOf w 23 22
  let reg := fun (i : Nat) => match i with | 1 => bitsOf w 44 40 | 2 => bitsOf w 39 35 | _ => bitsOf w 34 30
  [1, 2, 3].any (fun i => (osrc = i || !used.contains i) && reg i ≠ 0) ||
  (if osrc = 0 then decide (bitsOf w 29 24 ≠ 0) else !used.contains osrc) ||
  (!td && bitsOf w 49 45 ≠ 0) || bitsOf w 21 16 ≠ 0 || (!tfd && bitsOf w 15 0 ≠ 0)

/-- The organ source of a vector instruction, when it names one: a read of an EMPTY slot is a precise fault, one of a FILLING slot
waits (R180). -/
def Core.withOrgan (v : Core) (w : Dword) (g : List Word → Iss) : Iss :=
  if bitsOf w 23 22 = 0 then g []
  else
    match v.slotAt (bitsOf w 29 24) with
    | none => .fault stOrganEmpty
    | some (.filling ..) => .wait
    | some (.valid img _ _ _ _ _) => g img

/-- Source i of a vector word, or the organ image in its place. -/
def Core.source (v : Core) (w : Dword) (img : List Word) (i : Nat) : List Word :=
  if bitsOf w 23 22 = i then img
  else v.tile (match i with | 1 => bitsOf w 44 40 | 2 => bitsOf w 39 35 | _ => bitsOf w 34 30)

/-- Write the destination tile TD of a vector word. -/
def State.writeTile (s : State) (c : CoreId) (i : Nat) (t : List Word) : Iss := .next (s.modCoreK c.key (·.setTile i t))

/-- Sources of a VOP (Table 9-9). -/
def vopSources (fn : Nat) : List Nat :=
  if fn = 0x03 || fn = 0x08 then [1, 2, 3]
  else if fn ≤ 0x07 || fn = 0x0B then [1, 2] else [1]

/-- Cycles of a VOP on a tile (Table 6-9). -/
def vopCost (fn : Nat) : Nat :=
  if fn = 0x0B || fn = 0x0C || (0x11 ≤ fn && fn ≤ 0x18) then 32 else if 0x0D ≤ fn && fn ≤ 0x10 then 16 else 8

/-- R177, R244, Table 9-9. -/
def vop (c : CoreId) (w : Dword) (agree : Bool) (s : State) : State :=
  let fn := bitsOf w 55 50
  s.issueVec c w 0x20 (vopCost fn) agree (fun v =>
    (Iss.unless (decide (0x19 < fn) || vecWordBad w (vopSources fn) true false) stRsvdField)
      (v.withOrgan w (fun img =>
        let a := v.source w img 1
        let b := v.source w img 2
        let t := v.source w img 3
        s.writeTile c (bitsOf w 49 45) (tileOf (fun i => vopElem fn (el a i) (el b i) (el t i))))))
def execVop (c : CoreId) (w : Dword) (agree : Bool) (s : State) : Out State := .next (vop c w agree s)

/-- R67, R244: a comparison writes 1.0 or +0. -/
def vcmp (c : CoreId) (w : Dword) (agree : Bool) (s : State) : State :=
  let fn := bitsOf w 55 50
  s.issueVec c w 0x21 8 agree (fun v =>
    (Iss.unless (decide (6 < fn) || vecWordBad w [1, 2] true false) stRsvdField)
      (v.withOrgan w (fun img =>
        let a := v.source w img 1
        let b := v.source w img 2
        s.writeTile c (bitsOf w 49 45) (tileOf (fun i => if f32Cmp fn (el a i) (el b i) then 0x3F800000 else 0)))))
def execVcmp (c : CoreId) (w : Dword) (agree : Bool) (s : State) : Out State := .next (vcmp c w agree s)

/-! ## Row accumulators (R178) -/

/-- One element into the exact row sum. -/
def RowAcc.addWord (a : RowAcc) (w : Word) : RowAcc :=
  match f32Num w with
  | .nan => { a with special := some none, any := true }
  | .inf n => { a with any := true, special := match a.special with
                  | none => some (some n)
                  | some none => some none
                  | some (some m) => if m = n then some (some n) else some none }
  | .negZero => { a with negZ := !a.any || a.negZ, any := true }
  | .fin n d => { a with sum := a.sum + BitVec.ofInt 320 (n * 2 ^ 149 / d), negZ := false, any := true }

/-- The row sum, rounded once. -/
def RowAcc.read (a : RowAcc) : Word :=
  match a.special with
  | some none => canonNan
  | some (some n) => toF32 (.inf n)
  | none => if a.sum = 0 then (if a.negZ then 0x80000000 else 0) else toF32 (dyadic a.sum.toInt (-149))

def Core.rowAcc (v : Core) (r : Nat) : RowAcc := tget (fun _ => ({} : RowAcc)) v.racc r
def Core.modRows (v : Core) (g : Nat → RowAcc → RowAcc) : Core :=
  { v with racc := (List.range 32).foldl (fun m r => tset m r (g r (v.rowAcc r))) v.racc }

/-- Row r of a tile. -/
def rowOf (t : List Word) (r : Nat) : List Word := (List.range 32).map (fun c => el t (32 * r + c))

/-- R178, R244: accumulate, clear or read the row accumulators. -/
def vrow (c : CoreId) (w : Dword) (agree : Bool) (s : State) : State :=
  let fn := bitsOf w 55 50
  s.issueVec c w 0x22 8 agree (fun v =>
    (Iss.unless (decide (6 < fn) || vecWordBad w (if fn ≤ 2 then [1] else []) (decide (4 ≤ fn)) false) stRsvdField)
      (v.withOrgan w (fun img =>
        let a := v.source w img 1
        let rows := fun (g : RowAcc → List Word → RowAcc) => .next (s.modCoreK c.key (·.modRows (fun r x => g x (rowOf a r))))
        let read := fun (g : RowAcc → Word) => s.writeTile c (bitsOf w 49 45) (tileOf (fun i => g (v.rowAcc (i / 32))))
        match fn with
        | 0 => rows (fun x row => row.foldl RowAcc.addWord x)
        | 1 => rows (fun x row => { x with maxv := row.foldl f32Max x.maxv })
        | 2 => rows (fun x row => { x with minv := row.foldl f32Min x.minv })
        | 3 => rows (fun _ _ => {})
        | 4 => read RowAcc.read
        | 5 => read (·.maxv)
        | _ => read (·.minv))))
def execVrow (c : CoreId) (w : Dword) (agree : Bool) (s : State) : Out State := .next (vrow c w agree s)

/-- R244: each element rounded to a value of a plain format (R60, R61, R63, R65). -/
def vcvt (c : CoreId) (w : Dword) (agree : Bool) (s : State) : State :=
  s.issueVec c w 0x23 8 agree (fun v =>
    match Tfd.parse (bitsOf w 15 0) with
    | none => .fault stRsvdField
    | some t =>
      (Iss.unless (bitsOf w 55 50 ≠ 0 || t.lay ≠ .plain || t.rnd || t.sill || vecWordBad w [1] true true) stRsvdField)
        (v.withOrgan w (fun img =>
          let a := v.source w img 1
          s.writeTile c (bitsOf w 49 45) (tileOf (fun i => toF32 (t.f.num false (t.f.conv false .rne (f32Num (el a i)))))))))
def execVcvt (c : CoreId) (w : Dword) (agree : Bool) (s : State) : Out State := .next (vcvt c w agree s)

/-! ## Tile loads and stores (R245, R246) -/

/-- R176, R245: a tile register from memory or the scratchpad. -/
def vld (c : CoreId) (w : Dword) (agree : Bool) (s : State) : State :=
  s.issueVec c w 0x24 8 agree (fun v =>
    let nr := bitsOf w 42 37
    let nc := bitsOf w 36 31
    match TileD.parse false (v.slots (bitsOf w 50 43) 1) with
    | none => .fault stRsvdField
    | some t =>
      (Iss.unless (extentBad nr || extentBad nc || bitsOf w 30 0 ≠ 0) stRsvdField)
        (Iss.unless (!t.padOk nr nc) stOperandRange
          (Iss.ofRead (t.image (s.coreReader v []) v nr nc) (s.writeTile c (bitsOf w 55 51)))))
def execVld (c : CoreId) (w : Dword) (agree : Bool) (s : State) : Out State := .next (vld c w agree s)

/-- The destination format of a tile store (R246). -/
def vstFmt (d : TileD) (eval : Bool) : DstFmt :=
  let f : DstFmt := { f := d.t.f, lay := d.t.lay, ocp := d.t.ocp, rnd := d.t.rnd, sill := d.t.sill, s := d.mscale, seed := d.seed,
                      stream := d.stream }
  if eval then f.quiet else f

/-- Row r of a tile store: its blocks. Element (r, c) draws at JBASE + r × JSTRIDE + c (R246). -/
def vstRow (d : TileD) (f : DstFmt) (t : List Word) (nc r : Nat) : List ConvBlock :=
  f.convRow ((List.range nc).map (fun c =>
    (({ v := f32Num (el t (32 * r + c)) } : Src), Keep.conv, d.jbase + r * d.jstride + c)))

/-- What a tile store writes to memory: elements unless they go to the scratchpad, scales, and its sillage merge (R176, Table 12-3). -/
def vstPart (d : TileD) (f : DstFmt) (t : List Word) (nr nc : Nat) : PartOut :=
  let rows := (List.range nr).map (vstRow d f t nc)
  let nb := ceilDiv nc d.t.lay.block
  let row := fun (r : Nat) => rows.getD r []
  let els := (List.range nr).map (fun r => (d.addr + r * d.ld, d.t.f.pack ((row r).flatMap (·.codes))))
  let scs := (List.range nr).map (fun r => (d.scale + r * nb, (row r).map (fun b => (BitVec.ofNat 8 b.scale : Byte))))
  let plain := decide (d.t.lay = .plain)
  { writes := (if d.spc then [] else [{ kind := kElem, fmt := BitVec.ofNat 4 d.t.f.code, tid := 0, runs := els, bits := [] }]) ++
      (if plain then [] else [{ kind := kScale, fmt := BitVec.ofNat 4 d.t.lay.scaleFmt, tid := 0, runs := scs, bits := [] }]),
    merges := if f.sill then [(d.sill, rows.flatten.foldl (fun g b => g.plus b.sill) {})] else [],
    touch := (if d.spc then [] else els.map (fun e => (e.1, e.2.length))) ++ (if plain then [] else [(d.scale, nr * nb)]) }

/-- Elements of a tile store that go to the scratchpad. -/
def Core.vstPad (v : Core) (d : TileD) (f : DstFmt) (t : List Word) (nr nc : Nat) : Core :=
  if d.spc then
    (List.range nr).foldl (fun v r => v.padPut (d.addr + r * d.ld) (d.t.f.pack ((vstRow d f t nc r).flatMap (·.codes)))) v
  else v

/-- R176, R245, R246: a tile register by its TFD; rows past NR and columns past NC stay unwritten. -/
def vst (c : CoreId) (w : Dword) (agree : Bool) (s : State) : State :=
  s.issueVec c w 0x25 8 agree (fun v =>
    let nr := bitsOf w 42 37
    let nc := bitsOf w 36 31
    let t := v.tile (bitsOf w 55 51)
    match TileD.parse true (v.slots (bitsOf w 50 43) 1) with
    | none => .fault stRsvdField
    | some d =>
      let f := vstFmt d (s.coreEval v)
      (Iss.unless (extentBad nr || extentBad nc || bitsOf w 30 0 ≠ 0) stRsvdField)
        -- a record address that is not 32-byte aligned has a class 0x02 status (R69)
        (Iss.unless (!d.padOk nr nc || (f.sill && d.sill % 32 ≠ 0)) stOperandRange
          (s.commitInstr v c.key (vstPart d f t nr nc) (fun u => .next (u.modCoreK c.key (·.vstPad d f t nr nc))))))
def execVst (c : CoreId) (w : Dword) (agree : Bool) (s : State) : Out State := .next (vst c w agree s)

/-! ## Draws, masks, top-k, block scales -/

/-- R215, R245: draw × 2^-16 for each element. -/
def vrand (c : CoreId) (w : Dword) (agree : Bool) (s : State) : State :=
  s.issueVec c w 0x26 8 agree (fun v =>
    let base := (v.par (bitsOf w 50 47)).toNat
    let stride := (v.par (bitsOf w 46 43)).toNat
    let seed := v.par (bitsOf w 42 39)
    let strm := v.par (bitsOf w 38 35)
    (Iss.unless (bitsOf w 34 0 ≠ 0) stRsvdField)
      (s.writeTile c (bitsOf w 55 51)
        (tileOf (fun i => toF32 (.fin (draw seed strm (base + i / 32 * stride + i % 32)) 65536)))))
def execVrand (c : CoreId) (w : Dword) (agree : Bool) (s : State) : Out State := .next (vrand c w agree s)

/-- Element (i, j) is present under MODE, OFF and W of a VMASK (Table 5-3, in elements). -/
def maskPresent (window : Bool) (off : Int) (wd i j : Nat) : Bool :=
  decide ((j : Int) ≤ i + off) && (!window || decide ((i : Int) - wd < j))

/-- R245: absent elements become −infinity or +0. -/
def vmask (c : CoreId) (w : Dword) (agree : Bool) (s : State) : State :=
  s.issueVec c w 0x27 8 agree (fun v =>
    let mode := bitsOf w 50 48
    let wd := bitsOf w 22 7
    let td := bitsOf w 55 51
    let i0 := (v.par (bitsOf w 46 43)).toNat
    let j0 := (v.par (bitsOf w 42 39)).toNat
    let fill : Word := if flagOf w 47 then 0 else 0xFF800000
    (Iss.unless (!(mode = 2 || mode = 3) || (decide (mode = 3) == decide (wd = 0)) || bitsOf w 6 0 ≠ 0) stRsvdField)
      (s.writeTile c td (tileOf (fun i =>
        if maskPresent (decide (mode = 3)) (signedOf w 38 23) wd (i0 + i / 32) (j0 + i % 32) then el (v.tile td) i else fill))))
def execVmask (c : CoreId) (w : Dword) (agree : Bool) (s : State) : Out State := .next (vmask c w agree s)

/-- A row's top-k state (R245). -/
def Core.top (v : Core) (r : Nat) : List (Nat × Word) := tget (fun _ => ([] : List (Nat × Word))) v.topk r

/-- Merge a row of 32 logits into its state (R140). With a NaN in the row the state is a free value (assumption 46). -/
def topMerge (k cbase : Nat) (old : List (Nat × Word)) (row : List Word) (free : Nat → Dword) : List (Nat × Word) :=
  if row.any (fun x => (f32Num x).isNan) then
    (List.range k).map (fun i => ((free (2 * i)).toNat % 1024, (free (2 * i + 1)).setWidth 32))
  else topOf k (old ++ row.zipIdx.map (fun x => (cbase + x.2, x.1)))

/-- R245, R140: routing top-k, merged or read. -/
def vtopk (c : CoreId) (w : Dword) (agree : Bool) (s : State) : State :=
  let k := bitsOf w 50 47
  s.issueVec c w 0x28 (8 * k) agree (fun v =>
    let first := flagOf w 46
    let ta := bitsOf w 55 51
    let td := bitsOf w 44 40
    let tv := bitsOf w 39 35
    let cb := bitsOf w 34 19
    (Iss.unless (decide (k = 0) || decide (8 < k) || bitsOf w 18 0 ≠ 0 || cb % 32 ≠ 0 || decide (992 < cb) ||
        (if flagOf w 45 then ta ≠ 0 || first || cb ≠ 0 else td ≠ 0 || tv ≠ 0)) stRsvdField)
      (if flagOf w 45 then
        let at_ := fun (i : Nat) => if i % 32 < k then (v.top (i / 32))[i % 32]? else none
        .next (s.modCoreK c.key (fun v =>
          (v.setTile td (tileOf (fun i => match at_ i with | some x => f32OfNat x.1 | none => 0))).setTile tv
            (tileOf (fun i => match at_ i with | some x => x.2 | none => 0))))
       else
        let new := fun (r : Nat) => topMerge k cb (if first then [] else v.top r) (rowOf (v.tile ta) r)
          (fun i => Config.free (s.fresh + 16 * r + i))
        .next ({ s with fresh := s.fresh + 512 }.modCoreK c.key (fun v =>
          { v with topk := (List.range 32).foldl (fun m r => tset m r (new r)) v.topk }))))
def execVtopk (c : CoreId) (w : Dword) (agree : Bool) (s : State) : Out State := .next (vtopk c w agree s)

/-- R62, R245: the scale bytes of each row's blocks, row after row. -/
def bscl (c : CoreId) (w : Dword) (agree : Bool) (s : State) : State :=
  s.issueVec c w 0x29 8 agree (fun v =>
    let a := bitsOf w 50 35 * 64
    let t := v.tile (bitsOf w 55 51)
    let ms : Word := (v.par (bitsOf w 18 15)).setWidth 32
    match Tfd.parseDst (bitsOf w 34 19) with
    | none => .fault stRsvdField
    | some d =>
      (Iss.unless (d.lay = .plain || unitBad (bitsOf w 50 35) || bitsOf w 14 0 ≠ 0 || !scaleOk ms) stRsvdField)
        (let f : DstFmt := { f := d.f, lay := d.lay, ocp := d.ocp, rnd := false, sill := false, s := ms, seed := 0, stream := 0 }
         let bs := (List.range 32).flatMap (fun r =>
           (f.convRow ((rowOf t r).map (fun x => (({ v := f32Num x } : Src), Keep.conv, 0)))).map (fun b => (BitVec.ofNat 8 b.scale : Byte)))
         .next (s.modCoreK c.key (·.padPut a bs))))
def execBscl (c : CoreId) (w : Dword) (agree : Bool) (s : State) : Out State := .next (bscl c w agree s)

end Sys2Proof.Machine
end

