-- ==== Sys2Proof/Machine/MatrixEvents.lean ====
section
/-!
DEFINITION. What happens inside a core as its arrays run a product: shadow load and swap (R105, R106, R116, R118), rows into
ledgers (R108, R112, R127, R135), the check, commit and retake of a tile (R87, R117, R323, R329 to R331), MIRROR (R327), slow tiles
(R337), the drain of a finished set (R110), arriving sums (R114) and the shares of split blocks (R510).
-/
namespace Sys2Proof.Machine

/-- The core's engines run: clocks, a die that runs, and neither fenced nor unmapped. -/
def State.coreRuns (s : State) (c : CoreId) : Bool :=
  s.clocks && s.dieRuns c.die.val && !s.pwr.thermTrip && (s.core c).role != 4 && (s.core c).role != 5

/-- End the part for a failed access of the arrays, or put back what an instruction's outcome says. -/
def State.settleIss (s : State) (k : Nat) (i : Iss) : State :=
  match i with
  | .wait => s
  | .fault st => s.faultCore k st
  | .mem st a => s.failAccess k st a
  | .stop u st => u.endPart k st 5
  | .hold u | .flight u | .next u | .part u _ | .to u _ => u

/-! ## Tiles -/

/-- A format alone, as an operand without addresses. -/
def opndOf (t : Tfd) : Opnd :=
  { addr := 0, scale := 0, aux := 0, sill := 0, mscale := 0x3F800000, t := t, rot := 0, pre := false, srec := false, auxk := 0, ld := 0,
    rotSeed := 0, rotStrm := 0, qSeed := 0, qStrm := 0, bnAddr := 0, bnCnt := 0, tr := none, rows := 0 }

/-- A 2:4 group of a tile whose indices are not strictly ascending (R129). -/
def tileIndexBad (t : StatTile) : Bool :=
  t.spat = 1 && t.index.any (fun col => (List.range (col.length / 2)).any (fun g =>
    decide ((col.getD (2 * g + 1) 0).toNat ≤ (col.getD (2 * g) 0).toNat)))

/-- Column n of a stationary tile as a row of the reduction: dense positions, pruned ones absent (R127). -/
def tileColumn (t : StatTile) (f : Tfd) (n : Nat) : Row :=
  let codes := (t.codes.getD n []).map BitVec.toNat
  let keep := keepCount t.spat.toNat
  let elem := fun (c : Nat) => f.f.elem (decide (f.lay = .coarse)) c
  let idx := (t.index.getD n []).map BitVec.toNat
  let vals :=
    if t.spat = 0 then codes.map (fun c => some (elem c))
    else (List.range (codes.length / keep * 4)).map (fun p =>
      ((List.range keep).find? (fun i => idx.getD (keep * (p / 4) + i) 4 == p % 4)).map (fun i =>
        elem (codes.getD (keep * (p / 4) + i) 0)))
  let sc := (t.scales.getD n []).map BitVec.toNat
  { vals := vals, scales := sc, bound := sc, pads := [], live := [], qrec := {}, qn := 0 }

/-- A streaming row: absent elements are no contributions (R135). -/
def streamRow (x : StreamRow) (f : Tfd) : Row :=
  let vals := x.codes.zipIdx.map (fun c =>
    if x.absent.contains c.2 then none else some (f.f.elem (decide (f.lay = .coarse)) c.1.toNat))
  let sc := x.scales.map BitVec.toNat
  { vals := vals, scales := sc, bound := sc, pads := [], live := [], qrec := {}, qn := 0 }

/-- Some stationary block of the tile has another generation than the one read since the committed state (R117, R133). -/
def State.tileStale (s : State) (m : Mx) (t : StatTile) : Bool :=
  m.readGens.any (fun g => t.gens.any (fun x => x.1 == g.1 && (x.2 != g.2 || (s.slate g.1).gen != g.2)))

/-- R105, R130: elements, scales and indices of the next tile are all in the shadow set; bad indices fail the tile (R129), and so does a
block that a retake loads again and finds changed (R117). -/
def shadowLoadComplete (c : CoreId) (t : StatTile) (s : State) : State :=
  let v := s.core c
  let m := v.mx
  if !s.coreRuns c || m.shadow.isSome then s
  else if tileIndexBad t then s.failAccess c.key 0x0307 0
  else if (decide (0 < m.mism) || decide (0 < v.votes)) && s.tileStale m t then
    (s.fault { status := 0x0306, kind := 6, outcome := 3, loc := locCore c.key, reel := v.whose.1, seq := v.whose.2 }).failAccess
      c.key 0x0306 0
  else s.modMx c (fun m => { m with shadow := some t, state := if m.state = 0 then 1 else m.state })
def execShadowLoadComplete (c : CoreId) (t : StatTile) (s : State) : Out State := .next (shadowLoadComplete c t s)

/-! ## Commit -/

/-- One pending contribution into the ledgers or running sums of a set (R78, R90, R96). -/
def enterSums (acc : BitVec 2) (wbase : Int) (st : Tab Ledger × Tab Word) (x : Pend) : Tab Ledger × Tab Word :=
  if acc = 2 then
    match x.add with
    | none => st
    | some a => (st.1, tset st.2 x.cell (toF32 ((f32Num (tget (fun _ => (0x80000000 : Word)) st.2 x.cell)).add a.exact)))
  else
    let g := tget (fun _ => Ledger.cleared (decide (acc = 1)) wbase) st.1 x.cell
    let g := match x.add with | some a => g.add a | none => g
    (tset st.1 x.cell (if x.wloss then { g with wloss := true } else g), st.2)

/-- Pending contributions into the committed sums in the cells. -/
def Mx.enterAll (m : Mx) (xs : List Pend) : Mx :=
  let r := xs.foldl (enterSums m.acc m.wbase) (m.ledgers, m.f32)
  { m with ledgers := r.1, f32 := r.2 }

/-- The same into a set that has left the cells' use while its last tile awaited its check. -/
def DrainSet.enterAll (o : DrainSet) (xs : List Pend) : DrainSet :=
  let r := xs.foldl (enterSums o.acc o.wbase) (o.ledgers, o.f32)
  { o with ledgers := r.1, f32 := r.2, check := false }

/-- The oldest uncommitted tile commits: its pending sums enter the committed ledgers (R87, R329). -/
def Mx.commitTile (m : Mx) : Mx :=
  if m.back then
    let m' := match m.shadowSet with
      | some o => if o.check then { m with shadowSet := some (o.enterAll m.pendCheck) } else m.enterAll m.pendCheck
      | none => m.enterAll m.pendCheck
    { m' with pendCheck := [], back := false, mism := 0, readGens := (m.active.map (·.gens)).getD [] }
  else { m.enterAll m.pendTile with pendTile := [], cur := false, mism := 0, readGens := [] }

/-- Group of an output-tile row: WIDE drains by groups of 32 rows per array (R111), the other modes whole. -/
def rowGroup (acc : BitVec 2) (row : Nat) : Nat := if acc = 1 then row / 128 else 0
/-- The groups of an output tile. -/
def rowGroups (acc : BitVec 2) (rows : Nat) : List Nat := if acc = 1 then List.range (ceilDiv rows 128) else [0]

/-- Groups of the output tile in the cells whose sums are all in: the last stationary tile has been swapped in, its rows of the group have
landed and committed, and every arriving block is added (R110, R111, R174). -/
def Mx.finished (m : Mx) : List Nat :=
  if !m.busy || 0 < m.left || m.back || m.blocksAdded < m.blocksDue then []
  else
    let gs := (rowGroups m.acc m.rowsN).filter (fun g => match m.shadowSet with | some o => !o.mine || o.todo.contains g | none => true)
    if m.checked then (if m.cur then [] else gs) else gs.filter (fun g => !m.due.any (fun r => rowGroup m.acc r == g))

/-- A set for the output tile in the cells, without its sums. -/
def Mx.asSet (m : Mx) : DrainSet :=
  { acc := m.acc, stat := m.stat, wbase := m.wbase, sa := m.sa, sb := m.sb, desc := m.desc, row0 := m.row0, col0 := m.col0,
    rows := m.rowsN, cols := m.colsN }

/-- Sums of some groups, and of the others. -/
def splitGroups {α : Type} (acc : BitVec 2) (gs : List Nat) (t : Tab α) : Tab α × Tab α :=
  (t.filter (fun e => gs.contains (rowGroup acc (e.1 / 32))), t.filter (fun e => !gs.contains (rowGroup acc (e.1 / 32))))

/-- Finished groups leave the active set for the one that drains (R110, R111), unless another output tile still drains there. -/
def Mx.rotate (m : Mx) : Mx :=
  let gs := m.finished
  if gs.isEmpty || (match m.shadowSet with | some o => !o.mine | none => false) then m
  else
    let l := splitGroups m.acc gs m.ledgers
    let f := splitGroups m.acc gs m.f32
    let o := m.shadowSet.getD { m.asSet with todo := rowGroups m.acc m.rowsN }
    let todo := o.todo.filter (fun g => !gs.contains g)
    { m with ledgers := l.2, f32 := f.2, busy := !todo.isEmpty,
             shadowSet := some { o with ledgers := o.ledgers ++ l.1, f32 := o.f32 ++ f.1, ready := o.ready ++ gs, todo := todo, mine := !todo.isEmpty } }

/-- The rows of a tile have landed: without a check on it the tile has committed (R329), and finished groups drain. -/
def Mx.landed (m : Mx) : Mx :=
  (if !m.checked && m.due.isEmpty then { m with cur := false, readGens := [] } else m).rotate

/-- A retake (R118, R330): the committed state, and the stationary tile loads again. -/
def Mx.retake (m : Mx) : Mx := { m.restored with state := 5, retaken := true }

/-- Tile periods whose work a retake discards (Table 4-11). -/
def Mx.lostTiles (m : Mx) : Nat := b2n m.back + b2n m.cur

/-! ## Swap and slow tiles -/

/-- The median of the latest tile durations, doubled. -/
def median2 (xs : List Nat) : Nat :=
  let l := xs.mergeSort (fun a b => decide (a ≤ b))
  l.getD ((l.length - 1) / 2) 0 + l.getD (l.length / 2) 0

/-- Cores of the die that run tiles of the same shot as core k. -/
def State.shotCores (s : State) (k : Nat) : List Nat :=
  match (s.coreK k).part with
  | none => []
  | some (r, _) => (dieKeys (k / 34)).filter (fun j => (s.coreK j).role == 0 && ((s.coreK j).part.map (·.1)) == some r)

/-- The governor measures a tile (R337): slow beside the median, unless it holds a retake or a grant wait or its shot runs on fewer
than 8 cores of the die. -/
def State.measureTile (s : State) (k cycles : Nat) : State :=
  let d := k / 34
  let s := s.modDie d (fun v => { v with durations := tset v.durations k cycles })
  let cs := s.shotCores k
  let m := (s.coreK k).mx
  if cs.length < 8 || m.retaken || m.state = 3 then s
  else
    let md := median2 (cs.filterMap (fun j => (s.die d).durations.find? (fun e => e.1 == j) |>.map (·.2)))
    let slow := decide (md * (100 + (s.die d).lagThresh.toNat) < cycles * 200)
    s.modCoreK k (fun v =>
      { v with slowTile := if slow then satInc v.slowTile else v.slowTile,
               mx := { v.mx with slowRun := if slow then v.mx.slowRun + 1 else 0 } })

/-- A batch of the core's shot waits for its grant (R105, R449). -/
def State.waitsGrant (s : State) (k : Nat) : Bool :=
  match (s.coreK k).part with | some (r, _) => s.grantWaits r | none => false

/-- The checks of the shot cover an output tile: under SAMPLE one column range in 16, and every F32 tile (R324, R325). -/
def tileChecked (mode seq : Nat) (f : TileStart) : Bool :=
  match mode with
  | 0 => false
  | 1 => f.acc = 2 || f.range % 16 = seq % 16
  | _ => true

/-- The product whose epilogue drains a set: its operands are not used but for their master scales and the output's shape. -/
def drainProduct (acc : BitVec 2) (stat : Bool) (desc : List Byte) (eval : Bool) : Except Half Prod :=
  Prod.read .mm false { acc := acc.toNat, spat := 0, stat := b2n stat, stage := false } (fun _ => none) eval
    (putAt (withoutOperands desc) 96 (bytesAt desc 96 8))

/-- Initial values of an output tile's sums under BIAS 0b01 (R167), by cell. -/
def tileInitial (f : TileStart) (p : Prod) (bias : List Byte) (cols : Nat) : List Pend :=
  if p.bias ≠ 1 then []
  else (List.range f.rows).flatMap (fun r => (List.range cols).map (fun n =>
    { cell := r * 32 + n, add := some (f32Num (p.biasAt bias (if f.stat then f.row0 + r else f.col0 + n))).contrib }))

/-- The cells as a new output tile takes them: the one before it is finished, or has its last tile awaiting its check, and its sums stand
in the other set (R110, R111). -/
def Mx.begin (m : Mx) (f : TileStart) (t : StatTile) (checked : Bool) (init : List Pend) : Mx :=
  let prev := if m.busy then
      some { m.asSet with ledgers := m.ledgers, f32 := m.f32, ready := rowGroups m.acc m.rowsN, mine := false, check := true }
    else m.shadowSet.map (fun o => { o with mine := false })
  let m := { m with shadowSet := prev, ledgers := [], f32 := [], acc := f.acc, stat := f.stat, wbase := f.wbase, desc := f.desc,
                    sa := BitVec.ofNat 32 (leAt f.desc 32 4), sb := BitVec.ofNat 32 (leAt f.desc 80 4), row0 := f.row0, col0 := f.col0,
                    rowsN := f.rows, colsN := min 32 t.codes.length, busy := true, left := f.tiles - 1, checked := checked,
                    blocksAdded := 0, blocksDue := f.nblk }
  if f.acc = 2 then { m with f32 := init.foldl (fun l x => match x.add with | some a => tset l x.cell (toF32 a.exact) | none => l) [] }
  else m.enterAll init

/-- The swap itself (R105, R106): the tile whose rows have landed goes to its check, and the arrays take the new one. -/
def Mx.swap (m : Mx) (t : StatTile) (due : List Nat) (cur : Bool) : Mx :=
  { m with back := cur, pendCheck := if cur then m.pendTile else [], pendTile := if cur then [] else m.pendTile, cur := true,
           retaken := m.retaken && m.active.isNone, active := some t, shadow := none, due := due, latched := [], state := 2,
           rows := BitVec.ofNat 8 (((List.range 4).map (fun a => (due.filter (fun r => r % 4 == a)).length)).foldl max 0),
           sfmt := t.tfd.setWidth 4, readGens := m.readGens ++ t.gens }

/-- R105, R106, R110, R116, R118: the swap, in the first cycle in which the load, the rows, the grant and the ledger sets allow it. It is
the tile boundary at which an owed fence falls (R330). With `due.first` it begins an output tile; otherwise it goes on with the reduction. -/
def tileSwap (c : CoreId) (due : SwapIn) (cycles : Nat) (s : State) : State :=
  let k := c.key
  let v := s.core c
  let m := v.mx
  let stall := fun (st : BitVec 3) => s.modMx c (fun m => { m with state := st })
  let go := fun (s : State) (m : Mx) =>
    let s := if v.mx.active.isSome then s.measureTile k cycles else s
    let s := s.modCoreK k (fun v => { v with mxTiles := satInc v.mxTiles, mx := { m with slowRun := v.mx.slowRun } })
    match v.fenceNext with
    | some cause => s.standInStep k cause 6 0
    | none => s
  match m.shadow with
  | none => s
  | some t =>
    if !s.coreRuns c || !s.ebtor then s
    else if !m.due.isEmpty then stall 4
    else if s.waitsGrant k then stall 3
    else if m.back then s
    else match due.first with
      | none => if m.left = 0 || !m.busy then s else go s ({ m with left := m.left - 1 }.swap t due.rows (m.cur && m.checked))
      | some f =>
        if 0 < m.left || m.held.isSome then s
        else if m.blocksAdded < m.blocksDue || (m.busy && m.shadowSet.isSome) then stall 4
        else
          match drainProduct f.acc f.stat f.desc (s.coreEval v) with
          | .error _ => s
          | .ok p =>
            match p.readBias (s.coreReader v []) with
            | .error .wait => s
            | .error (.fail st a) => s.failAccess k st a
            | .ok bias =>
              let on := tileChecked (s.coreMode v) v.whose.2.toNat f
              let m' := (m.begin f t on (tileInitial f p bias (min 32 t.codes.length))).swap t due.rows (m.cur && m.checked)
              go s m'
def execTileSwap (c : CoreId) (due : SwapIn) (cycles : Nat) (s : State) : Out State :=
  .next (tileSwap c due cycles s)

/-- Contributions of one streaming row against the active tile, by column (R81, R82, R127, R135), and the pairs multiplied. -/
def rowContribs (m : Mx) (t : StatTile) (x : StreamRow) : Option (List Pend × Nat) :=
  match Tfd.parse t.tfd.toNat, Tfd.parse x.tfd.toNat with
  | some ft, some fx =>
    let single := m.acc = 2 || ft.f == .bf16 || fx.f == .bf16
    let r := streamRow x fx
    let per := (List.range (min 32 t.codes.length)).map (fun n =>
      let col := tileColumn t ft n
      let k := min r.vals.length col.vals.length
      ((contribs single (opndOf fx) (opndOf ft) k r col).map (fun a => ({ cell := x.row * 32 + n, add := some a } : Pend)),
       ((List.range k).filter (fun q => (r.vals.getD q none).isSome && (col.vals.getD q none).isSome)).length))
    some (per.flatMap (·.1), (per.map (·.2)).sum)
  | _, _ => none

/-- The most rows an array has latched of the current tile: the cycles in which at least one array latched (Table 4-11). -/
def Mx.rowCycles (l : List Nat) : Nat := ((List.range 4).map (fun a => (l.filter (fun r => r % 4 == a)).length)).foldl max 0

/-- An array may latch row r now: it is due, WIDE streams its groups in order, and a group is free of the output tile before (R109,
R111). -/
def Mx.takesRow (m : Mx) (r : Nat) : Bool :=
  m.due.contains r && !m.due.any (fun x => decide (rowGroup m.acc x < rowGroup m.acc r)) &&
  (match m.shadowSet with | some o => m.acc ≠ 1 || o.mine || !o.ready.contains (rowGroup m.acc r) | none => true)

/-- R108, R109, R111: array `arr` latches a streaming row of its share; its contributions enter the sums pending for the tile. With no
check on the tile they commit as they land, and a finished set or group starts to drain (R110, R329). -/
def rowLatch (c : CoreId) (arr : Fin 4) (x : StreamRow) (s : State) : State :=
  let v := s.core c
  let m := v.mx
  match m.active with
  | none => s
  | some t =>
    if !s.coreRuns c || x.row % 4 ≠ arr.val || !m.due.contains x.row then s
    else if !m.takesRow x.row then s.modMx c (fun m => { m with state := 4 })
    else
      match rowContribs m t x with
      | none => s
      | some (ps, n) =>
        let m' := { m with due := m.due.filter (· ≠ x.row), latched := x.row :: m.latched, state := 2 }
        let m' := if m.checked then { m' with pendTile := m'.pendTile ++ ps } else (m'.enterAll ps).landed
        s.modCore c (fun v => { v with
          mx := m', mxMacs := satAdd v.mxMacs n,
          mxRowcyc := if Mx.rowCycles m.latched < Mx.rowCycles (x.row :: m.latched) then satInc v.mxRowcyc else v.mxRowcyc })
def execRowLatch (c : CoreId) (arr : Fin 4) (x : StreamRow) (s : State) : Out State := .next (rowLatch c arr x s)

/-! ## Checks -/

/-- A tile awaits its check: the one before the swap, or the one in the cells once all its rows are latched (R323, R329). -/
def Mx.awaits (m : Mx) : Bool := m.back || (m.cur && m.checked && m.due.isEmpty)

/-- Every check has passed: the oldest uncommitted tile that is complete commits, and a set that is finished with it drains (R110, R329). -/
def Mx.pass (m : Mx) : Mx := if m.awaits then m.commitTile.rotate else m

/-- Core k retakes: it returns to its committed state, and the periods it loses count (R330, Table 4-11). -/
def State.retakeOn (s : State) (k : Nat) : State :=
  s.modCoreK k (fun v => { v with mxMism := satInc v.mxMism, retakes := satInc v.retakes, mxDiscard := satAdd v.mxDiscard v.mx.lostTiles,
                                  mx := v.mx.retake })

/-- R323, R329 to R331: the check of the oldest uncommitted tile. Agreement commits it; a first mismatch retakes on the core, a second
goes to a stand-in, and there a third fails the part. -/
def tileCheck (c : CoreId) (agree : Bool) (s : State) : State :=
  let k := c.key
  let v := s.core c
  if !s.coreRuns c || s.coreMode v = 0 || !v.mx.awaits then s
  else if agree then
    let s := s.modMx c Mx.pass
    if v.mx.mism = 1 then
      (s.fault { kind := 6, outcome := 0, loc := locCore k, reel := v.whose.1, seq := v.whose.2 }).transient k
    else s
  else
    match v.mx.mism with
    | 0 => (s.retakeOn k).modMx c (fun m => { m with mism := 1 })
    | 1 =>
      (s.modCoreK k (fun v => { v with mxMism := satInc v.mxMism, mxDiscard := satAdd v.mxDiscard v.mx.lostTiles,
                                       mx := { v.mx.retake with mism := 2 } })).standInStep k 1 6 0
    | _ => (s.modCoreK k (fun v => { v with mxMism := satInc v.mxMism })).checkFail k 6
def execTileCheck (c : CoreId) (agree : Bool) (s : State) : Out State := .next (tileCheck c agree s)

/-- A core that a vote finds wrong is fenced, and the third core takes its place in the pair (R327). -/
def State.replaceInPair (s : State) (bad good third : Nat) : State :=
  let v := s.coreK good
  let s := s.modCoreK third (fun c => { c with partner := some (keyCore good), role := if c.role = 1 then 2 else c.role })
  let s := s.modCoreK good (fun c => { c with partner := some (keyCore third), votes := 0 })
  s.fence bad 3 8 0 v.whose.1 v.whose.2

/-- R327: partner cores compare. Equal values commit; a first mismatch retakes on both, a second brings in a third core, and the one
that differs is fenced. Three values that differ fail the part, and all three run the blotter. -/
def mirrorVote (c : CoreId) (mine theirs : Dword) (third : Option (CoreId × Dword)) (s : State) : State :=
  let k := c.key
  let v := s.core c
  match v.partner, v.part with
  | some p, some (r, _) =>
    if !s.coreRuns c || s.coreMode v ≠ 4 then s
    else if mine = theirs then
      let s := s.modCore c (fun v => { v with mx := v.mx.pass, votes := 0 })
      if v.votes = 1 then s.fault { kind := 8, outcome := 0, loc := locCore k, reel := r.reel.val, seq := r.seq } else s
    else if v.votes = 0 then
      ((s.retakeOn k).retakeOn p.key).modCoreK k (fun v => { v with votes := 1 }) |>.modCoreK p.key (fun v => { v with votes := 1 })
    else
      match third, s.helper k [p.key] with
      | some (t, val), some h =>
        if t.key ≠ h then s
        else if val = mine then (s.modCore c (fun v => { v with mx := v.mx.pass })).replaceInPair p.key k h
        else if val = theirs then
          -- the partner's copy is the right one: the third core takes over the work in the pair
          let s := (s.modCore c (fun v => { v with mx := v.mx.pass, votes := 0 })).moveWork k h
          s.fence k 3 8 0 r.reel.val r.seq
        else
          let s := s.fault { status := stCheckFail, kind := 8, outcome := 3, loc := locCore k, reel := r.reel.val, seq := r.seq }
          let s := s.endPart k stCheckFail 5
          ((s.testCore k).testCore p.key).testCore h
      | _, _ => s
  | _, _ => s
def execMirrorVote (c : CoreId) (mine theirs : Dword) (third : Option (CoreId × Dword)) (s : State) : Out State :=
  .next (mirrorVote c mine theirs third s)

/-! ## Arriving sums -/

/-- R96, R114, R174: an arriving block of an output row enters the tile's ledgers; a block that R92 rejects fails the part. -/
def arrivingSumAdd (c : CoreId) (row : Nat) (block : List Byte) (agree : Bool) (s : State) : State :=
  let k := c.key
  let v := s.core c
  if !s.coreRuns c || (match v.mx.shadowSet with | some o => o.check | none => false) then s
  else if pairedMode (s.coreMode v) && !agree then s.pairMismatch k
  else
    match L96Block.decode (bytesAt block 0 400) with
    | none => s.failAccess k stTransport 0
    | some b =>
      let ps := (List.range 32).map (fun i =>
        ({ cell := row * 32 + i, add := (b.elems.getD i .empty).contrib b.bexp, wloss := b.wloss, arriving := true } : Pend))
      (s.pairPassed k).modCore c (fun v =>
        let m := { v.mx with blocksAdded := v.mx.blocksAdded + 1 }
        { v with mx := if m.cur && m.checked then { m with pendTile := m.pendTile ++ ps } else (m.enterAll ps).rotate })
def execArrivingSumAdd (c : CoreId) (row : Nat) (block : List Byte) (agree : Bool) (s : State) : Out State :=
  .next (arrivingSumAdd c row block agree s)

/-! ## Drain and shares -/

/-- The value of a cell of a set that drains. -/
def DrainSet.cell (o : DrainSet) (r n : Nat) : Acc :=
  if o.acc = 2 then .f32 (tget (fun _ => (0x80000000 : Word)) o.f32 (r * 32 + n))
  else .led (tget (fun _ => Ledger.cleared (decide (o.acc = 1)) o.wbase) o.ledgers (r * 32 + n))

/-- The rows of a group of a set. -/
def DrainSet.rowsOf (o : DrainSet) (g : Nat) : Nat × Nat := if o.acc = 1 then (g * 128, min 128 (o.rows - g * 128)) else (0, o.rows)

/-- The output tile that a group of a set is. -/
def DrainSet.tile (o : DrainSet) (g : Nat) : Tile := { s0 := o.row0 + (o.rowsOf g).1, sn := (o.rowsOf g).2, c0 := o.col0, cn := o.cols }

/-- The job whose epilogue drains a set. -/
def drainJob (p : Prod) : ProdJob := { job := { p := p, conv := none, comp := none }, scat := false, mode := 0, seq := 0 }

/-- The sums of a group, by output row and column. -/
def DrainSet.result (o : DrainSet) (g : Nat) : TileRes :=
  let t := o.tile g
  let at2 := fun (r n : Nat) => o.cell ((o.rowsOf g).1 + r) n
  { cells := if o.stat then (List.range t.cn).flatMap (fun m => (List.range t.sn).map (fun n => (t.c0 + m, t.s0 + n, some (at2 n m))))
             else (List.range t.sn).flatMap (fun m => (List.range t.cn).map (fun n => (t.s0 + m, t.c0 + n, some (at2 m n)))),
    recs := [], counts := { epElems := t.sn * t.cn }, wbase := o.wbase }

/-- Destination i of a product. -/
def destOf (p : Prod) (i : Nat) : Option Dst := if i = 0 then some p.d0 else p.d1

/-- Number of a block of destination i at row m, column n; i = 2 numbers the TERM regions (R510). -/
def shareKey (i per m j : Nat) : Nat := i * 2 ^ 40 + m * per + j

/-- Rows and columns of the output that a tile covers. -/
def outSpan (stat : Bool) (t : Tile) : (Nat × Nat) × (Nat × Nat) := if stat then ((t.c0, t.cn), (t.s0, t.sn)) else ((t.s0, t.sn), (t.c0, t.cn))

/-- The shares of split destination and presence blocks that a drained tile keeps in output staging (R510). -/
def blockShares (p : Prod) (rs cs : Nat × Nat) (cells : Nat → Nat → CellV) : List (Nat × List Share) :=
  [0, 1].flatMap (fun i =>
    match destOf p i with
    | none => []
    | some d =>
      (List.range rs.2).flatMap (fun a =>
        let m := rs.1 + a
        ((List.range cs.2).map (fun b => (cs.1 + b) / d.chunk)).eraseDups.filterMap (fun g =>
          let lo := g * d.chunk
          let hi := min p.n (lo + d.chunk)
          if cs.1 ≤ lo && hi ≤ cs.1 + cs.2 then none
          else some (shareKey i (ceilDiv p.n d.chunk) m g, (List.range (hi - lo)).filterMap (fun x =>
            match cells m (lo + x) with
            | .val src g => some { col := lo + x, v := src.v, wloss := src.wloss, sat := src.sat, g := g }
            | _ => none)))))

/-- The shares of split TERM regions: the exact products g × t of the region's elements that the tile holds, by row × 32 + column within
the region (R171, R510). -/
def termShares (p : Prod) (rs cs : Nat × Nat) (terms : List (Nat × Nat × List Word)) (cells : Nat → Nat → CellV) : List (Nat × List Share) :=
  let nc := ceilDiv p.n 32
  if p.term ≠ 2 then []
  else
    let ids := ((List.range rs.2).flatMap (fun a => (List.range cs.2).map (fun b => (rs.1 + a) / 32 * nc + (cs.1 + b) / 32))).eraseDups
    ids.filterMap (fun bi =>
      let r0 := bi / nc * 32
      let c0 := bi % nc * 32
      let rn := min 32 (p.m - r0)
      let cn := min 32 (p.n - c0)
      if rs.1 ≤ r0 && r0 + rn ≤ rs.1 + rs.2 && cs.1 ≤ c0 && c0 + cn ≤ cs.1 + cs.2 then none
      else some (shareKey 2 0 0 bi, (List.range rn).flatMap (fun a => (List.range cn).filterMap (fun b =>
        match cells (r0 + a) (c0 + b) with
        | .val _ g =>
          let t := ((terms.find? (fun x => x.1 == r0 + a)).map (fun x => x.2.2.getD (c0 + b - x.2.1) 0)).getD 0
          some { col := a * 32 + b, v := (f32Num g).mul (f32Num t), wloss := false, sat := false, g := g }
        | _ => none))))

/-- The shares a drained tile keeps. -/
def tileShares (p : Prod) (stat : Bool) (t : Tile) (terms : List (Nat × Nat × List Word)) (cells : Nat → Nat → CellV) :
    List (Nat × List Share) :=
  let sp := outSpan stat t
  blockShares p sp.1 sp.2 cells ++ termShares p sp.1 sp.2 terms cells

/-- A whole TERM region from its shares (R171, R510). -/
def regionOf (p : Prod) (bi : Nat) (xs : List Share) : Option PartOut :=
  let nc := max 1 (ceilDiv p.n 32)
  let rn := min 32 (p.m - bi / nc * 32)
  let cn := min 32 (p.n - bi % nc * 32)
  let at2 := fun (i : Nat) => (xs.find? (fun y => y.col == i)).map (·.v)
  if (List.range rn).any (fun a => (List.range cn).any (fun b => (at2 (a * 32 + b)).isNone)) then none
  else
    let bs := termBlock ((List.range cn).map (fun b => (List.range rn).filterMap (fun a => at2 (a * 32 + b))))
    some { writes := [{ kind := kLedger, fmt := 0xA, tid := 0, bits := [], runs := l96Runs p.termO bi (ceilDiv p.m 32 * nc - 1) bs }] }

/-- A whole block from its shares, as its tile writes it (R510, R60, R62): one rounding, one scale choice, one sillage merge. -/
def blockOf (p : Prod) (key : Nat) (xs : List Share) : Option PartOut :=
  let i := key / 2 ^ 40
  if i = 2 then regionOf p (key % 2 ^ 40) xs
  else match destOf p i with
  | none => none
  | some d =>
    let per := max 1 (ceilDiv p.n d.chunk)
    let m := key % 2 ^ 40 / per
    let lo := key % 2 ^ 40 % per * d.chunk
    let hi := min p.n (lo + d.chunk)
    let cells := (List.range (hi - lo)).map (fun x =>
      match xs.find? (fun y => y.col == lo + x) with
      | some y => ({ part := 0, v := .val { v := y.v, wloss := y.wloss, sat := y.sat } y.g } : OutCell)
      | none => { part := 0, v := .failed })
    if cells.any (fun c => c.v == .failed) then none
    else
      let ch := d.chunkOut (if p.term = 1 && i = 0 then some p.termA else none) p.fill p.n m lo (fun _ => false) cells
      some (d.part [ch] 0)

/-- Write every split block whose shares a core now holds whole. -/
def State.formBlocks (s : State) (k : Nat) (p : Prod) : Iss :=
  let v := s.coreK k
  let done := v.mx.shares.filterMap (fun x =>
    (blockOf p x.1 ((v.mx.shares.filter (fun y => y.1 == x.1)).flatMap (·.2))).map (fun b => (x.1, b)))
  let keys := (done.map (·.1)).eraseDups
  let part := keys.foldl (fun (a : PartOut) key => a.plus (((done.find? (fun d => d.1 == key)).map (·.2)).getD {})) {}
  s.commitInstr v k part (fun u =>
    .next (u.modCoreK k (fun v => { v with mx := { v.mx with shares := v.mx.shares.filter (fun x => !keys.contains x.1) } })))

/-- A group has drained: it leaves the set, the output tile that waited for the set may follow, and with nothing left in progress the
unit is idle (R110, R124). -/
def Mx.drained (m : Mx) (o : DrainSet) (g : Nat) : Mx :=
  let l := splitGroups o.acc [g] o.ledgers
  let f := splitGroups o.acc [g] o.f32
  let o := { o with ledgers := l.2, f32 := f.2, ready := o.ready.filter (· ≠ g) }
  let m := { m with shadowSet := if o.ready.isEmpty && o.todo.isEmpty then none else some o }.rotate
  { m with state := if m.busy || m.shadowSet.isSome then m.state else if m.shadow.isSome then 1 else 0 }

/-- R110, R111, R166: the set or the next group that is finished drains through the epilogue of its product. While its arriving blocks
are not all added no set is finished, and STATE shows the wait (R174). -/
def ledgerDrain (c : CoreId) (agree : Bool) (s : State) : State :=
  let k := c.key
  let v := s.core c
  let m := v.mx
  if !s.coreRuns c || m.held.isSome then s
  else match m.shadowSet with
  | none => if m.busy && m.left = 0 && m.due.isEmpty && m.blocksAdded < m.blocksDue then s.modMx c (fun m => { m with state := 4 }) else s
  | some o =>
    match (if o.check then none else o.ready.head?), drainProduct o.acc o.stat o.desc (s.coreEval v) with
    | some g, .ok p =>
      if pairedMode (s.coreMode v) && !agree then s.pairMismatch k
      else
        let t := o.tile g
        let j := drainJob p
        let rd := s.coreReader v []
        s.settleIss k (Iss.ofRead (do
          let bias ← p.readBias rd
          j.finish rd bias t (o.result g)) (fun x =>
            let ws := [(t, (.ok x : Tried))]
            s.commitInstr v k ((j.outcome 1 ws).headD {}) (fun u =>
              ((u.pairPassed k).modCoreK k (fun v => { v with mx := { v.mx.drained o g with
                shares := v.mx.shares ++ tileShares p o.stat t x.terms (fun a b => (cellAt o.stat ws a b).2) } })).formBlocks k p)))
    | _, _ => s
def execLedgerDrain (c : CoreId) (agree : Bool) (s : State) : Out State := .next (ledgerDrain c agree s)

/-- R510: a committed tile passes its share of a split block to the tile of its last column, which writes the block once it holds
both. Its product is the one in the cells, or the one that drains. -/
def sharePass (src dst : CoreId) (blk : Nat) (s : State) : State :=
  let mine := (s.core src).mx.shares.filter (fun x => x.1 == blk)
  let v := s.core dst
  let prod := match v.mx.shadowSet with
    | some o => drainProduct o.acc o.stat o.desc (s.coreEval v)
    | none => drainProduct v.mx.acc v.mx.stat v.mx.desc (s.coreEval v)
  if !s.coreRuns src || !s.coreRuns dst || mine.isEmpty then s
  else
    match prod with
    | .error _ => s
    | .ok p =>
      let s := s.modMx src (fun m => { m with shares := m.shares.filter (fun x => x.1 ≠ blk) })
      let s := s.modMx dst (fun m => { m with shares := m.shares ++ mine })
      s.settleIss dst.key (s.formBlocks dst.key p)
def execSharePass (src dst : CoreId) (blk : Nat) (s : State) : Out State := .next (sharePass src dst blk s)

end Sys2Proof.Machine
end

