-- ==== Sys2Proof/Machine/Dispatch.lean ====
section
/-!
DEFINITION. The dispatch of a command to its meaning: one arm per constructor of `Instr`.
-/
namespace Sys2Proof.Machine

def exec (i : Instr) (s : State) : Host.Outcome State Fault Refusal :=
  match i with
  | .doorbell a => Sys2Proof.Machine.execDoorbell a s
  | .dispatch => Sys2Proof.Machine.execDispatch s
  | .shotComplete r => Sys2Proof.Machine.execShotComplete r s
  | .nop r => Sys2Proof.Machine.execNop r s
  | .program r => Sys2Proof.Machine.execProgram r s
  | .matmul r => Sys2Proof.Machine.execMatmul r s
  | .conv r => Sys2Proof.Machine.execConv r s
  | .scatter r => Sys2Proof.Machine.execScatter r s
  | .convert r => Sys2Proof.Machine.execConvert r s
  | .route r => Sys2Proof.Machine.execRoute r s
  | .lscheck r => Sys2Proof.Machine.execLscheck r s
  | .copy r => Sys2Proof.Machine.execCopy r s
  | .fill r => Sys2Proof.Machine.execFill r s
  | .clearRecord r => Sys2Proof.Machine.execClearRecord r s
  | .flagWrite r => Sys2Proof.Machine.execFlagWrite r s
  | .broadcast r => Sys2Proof.Machine.execBroadcast r s
  | .reduce r => Sys2Proof.Machine.execReduce r s
  | .allreduce r => Sys2Proof.Machine.execAllreduce r s
  | .tokenExchange r => Sys2Proof.Machine.execTokenExchange r s
  | .barrier r => Sys2Proof.Machine.execBarrier r s
  | .stepEnd r => Sys2Proof.Machine.execStepEnd r s
  | .waitFlag r => Sys2Proof.Machine.execWaitFlag r s
  | .waitFlagPoll r => Sys2Proof.Machine.execWaitFlagPoll r s
  | .launchAt r => Sys2Proof.Machine.execLaunchAt r s
  | .launchTarget r => Sys2Proof.Machine.execLaunchTarget r s
  | .event r => Sys2Proof.Machine.execEvent r s
  | .recipeBind r => Sys2Proof.Machine.execRecipeBind r s
  | .recipeWrite r => Sys2Proof.Machine.execRecipeWrite r s
  | .evalSnapshot r => Sys2Proof.Machine.execEvalSnapshot r s
  | .checkpoint r => Sys2Proof.Machine.execCheckpoint r s
  | .restore r => Sys2Proof.Machine.execRestore r s
  | .castWrite r => Sys2Proof.Machine.execCastWrite r s
  | .stepBoundary job => Sys2Proof.Machine.execStepBoundary job s
  | .checkpointShadowCopy blk => Sys2Proof.Machine.execCheckpointShadowCopy blk s
  | .checkpointBlockSend blk => Sys2Proof.Machine.execCheckpointBlockSend blk s
  | .checkpointManifestWrite => Sys2Proof.Machine.execCheckpointManifestWrite s
  | .flush reel => Sys2Proof.Machine.execFlush reel s
  | .release reel => Sys2Proof.Machine.execRelease reel s
  | .reelEnable reel v => Sys2Proof.Machine.execReelEnable reel v s
  | .reelDisable reel v => Sys2Proof.Machine.execReelDisable reel v s
  | .mailboxWrite src m size w => Sys2Proof.Machine.execMailboxWrite src m size w s
  | .mailboxReceiverRead m => Sys2Proof.Machine.execMailboxReceiverRead m s
  | .eventQueueDeliver m => Sys2Proof.Machine.execEventQueueDeliver m s
  | .registerWrite a => Sys2Proof.Machine.execRegisterWrite a s
  | .glbDeviceIdWrite v => Sys2Proof.Machine.execGlbDeviceIdWrite v s
  | .glbMemCfgWrite v => Sys2Proof.Machine.execGlbMemCfgWrite v s
  | .slateReinitComplete => Sys2Proof.Machine.execSlateReinitComplete s
  | .clear => Sys2Proof.Machine.execClear s
  | .glbClapCfgWrite v => Sys2Proof.Machine.execGlbClapCfgWrite v s
  | .edgTablesWrite v => Sys2Proof.Machine.execEdgTablesWrite v s
  | .pwrPlanWrite v => Sys2Proof.Machine.execPwrPlanWrite v s
  | .retrain p => Sys2Proof.Machine.execRetrain p s
  | .mma c w => Sys2Proof.Machine.execMma c w s
  | .convInstruction c w => Sys2Proof.Machine.execConvInstruction c w s
  | .scat c w => Sys2Proof.Machine.execScat c w s
  | .lxExp c w => Sys2Proof.Machine.execLxExp c w s
  | .lxOut c w => Sys2Proof.Machine.execLxOut c w s
  | .lxSpill c w => Sys2Proof.Machine.execLxSpill c w s
  | .lxReload c w => Sys2Proof.Machine.execLxReload c w s
  | .lxRelease c w => Sys2Proof.Machine.execLxRelease c w s
  | .lxAdd c w => Sys2Proof.Machine.execLxAdd c w s
  | .lxDiscard c w => Sys2Proof.Machine.execLxDiscard c w s
  | .vop c w agree => Sys2Proof.Machine.execVop c w agree s
  | .vcmp c w agree => Sys2Proof.Machine.execVcmp c w agree s
  | .vrow c w agree => Sys2Proof.Machine.execVrow c w agree s
  | .vcvt c w agree => Sys2Proof.Machine.execVcvt c w agree s
  | .vld c w agree => Sys2Proof.Machine.execVld c w agree s
  | .vst c w agree => Sys2Proof.Machine.execVst c w agree s
  | .vrand c w agree => Sys2Proof.Machine.execVrand c w agree s
  | .vmask c w agree => Sys2Proof.Machine.execVmask c w agree s
  | .vtopk c w agree => Sys2Proof.Machine.execVtopk c w agree s
  | .bscl c w agree => Sys2Proof.Machine.execBscl c w agree s
  | .load c w => Sys2Proof.Machine.execLoad c w s
  | .store c w => Sys2Proof.Machine.execStore c w s
  | .copyInstruction c w => Sys2Proof.Machine.execCopyInstruction c w s
  | .ofill c w => Sys2Proof.Machine.execOfill c w s
  | .organFillComplete c slot => Sys2Proof.Machine.execOrganFillComplete c slot s
  | .oevict c w => Sys2Proof.Machine.execOevict c w s
  | .dload c w => Sys2Proof.Machine.execDload c w s
  | .pload c w => Sys2Proof.Machine.execPload c w s
  | .pstore c w => Sys2Proof.Machine.execPstore c w s
  | .tput c w => Sys2Proof.Machine.execTput c w s
  | .twait c w => Sys2Proof.Machine.execTwait c w s
  | .fence c w => Sys2Proof.Machine.execFence c w s
  | .cchk c w => Sys2Proof.Machine.execCchk c w s
  | .sclr c w => Sys2Proof.Machine.execSclr c w s
  | .nopInstruction c w => Sys2Proof.Machine.execNopInstruction c w s
  | .endProgram c w => Sys2Proof.Machine.execEndProgram c w s
  | .pset c w => Sys2Proof.Machine.execPset c w s
  | .padd c w => Sys2Proof.Machine.execPadd c w s
  | .loop c w => Sys2Proof.Machine.execLoop c w s
  | .br c w => Sys2Proof.Machine.execBr c w s
  | .tokenTimeout c => Sys2Proof.Machine.execTokenTimeout c s
  | .shadowLoadComplete c t => Sys2Proof.Machine.execShadowLoadComplete c t s
  | .tileSwap c due cycles => Sys2Proof.Machine.execTileSwap c due cycles s
  | .rowLatch c arr x => Sys2Proof.Machine.execRowLatch c arr x s
  | .tileCheck c agree => Sys2Proof.Machine.execTileCheck c agree s
  | .mirrorVote c mine theirs third => Sys2Proof.Machine.execMirrorVote c mine theirs third s
  | .ledgerDrain c agree => Sys2Proof.Machine.execLedgerDrain c agree s
  | .arrivingSumAdd c row block agree => Sys2Proof.Machine.execArrivingSumAdd c row block agree s
  | .sharePass src dst blk => Sys2Proof.Machine.execSharePass src dst blk s
  | .cutRequest c why => Sys2Proof.Machine.execCutRequest c why s
  | .cutComplete c => Sys2Proof.Machine.execCutComplete c s
  | .resume c ctx => Sys2Proof.Machine.execResume c ctx s
  | .handover c => Sys2Proof.Machine.execHandover c s
  | .dailiesDue c => Sys2Proof.Machine.execDailiesDue c s
  | .testDeferMax c => Sys2Proof.Machine.execTestDeferMax c s
  | .blotterResult c pass => Sys2Proof.Machine.execBlotterResult c pass s
  | .canaryTrip d => Sys2Proof.Machine.execCanaryTrip d s
  | .marginReplan d slack vofs after => Sys2Proof.Machine.execMarginReplan d slack vofs after s
  | .hubRead h addr len cls tenant ecc crcBad => Sys2Proof.Machine.execHubRead h addr len cls tenant ecc crcBad s
  | .hubWrite h addr bytes kind fmt tidf tenant crc => Sys2Proof.Machine.execHubWrite h addr bytes kind fmt tidf tenant crc s
  | .sillageMerge addr rec => Sys2Proof.Machine.execSillageMerge addr rec s
  | .routingRecordMerge addr rec => Sys2Proof.Machine.execRoutingRecordMerge addr rec s
  | .patrolScrub h blk ecc last => Sys2Proof.Machine.execPatrolScrub h blk ecc last s
  | .refresh h postponed hot => Sys2Proof.Machine.execRefresh h postponed hot s
  | .sppr h => Sys2Proof.Machine.execSppr h s
  | .hppr h => Sys2Proof.Machine.execHppr h s
  | .spprUndo h => Sys2Proof.Machine.execSpprUndo h s
  | .map h => Sys2Proof.Machine.execMap h s
  | .repairDone h geometryOk spare ok map => Sys2Proof.Machine.execRepairDone h geometryOk spare ok map s
  | .flitReceive p bytes fecBytes fecOk => Sys2Proof.Machine.execFlitReceive p bytes fecBytes fecOk s
  | .nak p fseq => Sys2Proof.Machine.execNak p fseq s
  | .ctrlSend p => Sys2Proof.Machine.execCtrlSend p s
  | .portRxTimeout p => Sys2Proof.Machine.execPortRxTimeout p s
  | .widthChangeTimeout p => Sys2Proof.Machine.execWidthChangeTimeout p s
  | .portRetrain p => Sys2Proof.Machine.execPortRetrain p s
  | .portTrained p peer peerPort lanes => Sys2Proof.Machine.execPortTrained p peer peerPort lanes s
  | .laneDrop p lane => Sys2Proof.Machine.execLaneDrop p lane s
  | .width p mask => Sys2Proof.Machine.execWidth p mask s
  | .widthAck p => Sys2Proof.Machine.execWidthAck p s
  | .laneRetrain p lane => Sys2Proof.Machine.execLaneRetrain p lane s
  | .laneRestore p lane => Sys2Proof.Machine.execLaneRestore p lane s
  | .linkLaggard p retried sent => Sys2Proof.Machine.execLinkLaggard p retried sent s
  | .routeRestore n => Sys2Proof.Machine.execRouteRestore n s
  | .packetForward inPort p => Sys2Proof.Machine.execPacketForward inPort p s
  | .openPkt p => Sys2Proof.Machine.execOpenPkt p s
  | .openAck p => Sys2Proof.Machine.execOpenAck p s
  | .confirm p => Sys2Proof.Machine.execConfirm p s
  | .exp p => Sys2Proof.Machine.execExp p s
  | .sum p => Sys2Proof.Machine.execSum p s
  | .data p => Sys2Proof.Machine.execData p s
  | .back p => Sys2Proof.Machine.execBack p s
  | .abort p => Sys2Proof.Machine.execAbort p s
  | .mailbox p => Sys2Proof.Machine.execMailbox p s
  | .doorbellPacket viaBurou p => Sys2Proof.Machine.execDoorbellPacket viaBurou p s
  | .reject p => Sys2Proof.Machine.execReject p s
  | .mgmt p => Sys2Proof.Machine.execMgmt p s
  | .chunkCommit cast chunk => Sys2Proof.Machine.execChunkCommit cast chunk s
  | .blockAckTimeout cast blk dst => Sys2Proof.Machine.execBlockAckTimeout cast blk dst s
  | .collectiveTimeout cast => Sys2Proof.Machine.execCollectiveTimeout cast s
  | .ethernetFrame e macsec bytes => Sys2Proof.Machine.execEthernetFrame e macsec bytes s
  | .roceSend e src psn p => Sys2Proof.Machine.execRoceSend e src psn p s
  | .qpRetryExhausted peer => Sys2Proof.Machine.execQpRetryExhausted peer s
  | .arp e mac ip target => Sys2Proof.Machine.execArp e mac ip target s
  | .neighbourDiscovery e mac ip target => Sys2Proof.Machine.execNeighbourDiscovery e mac ip target s
  | .icmpEcho e ip target data => Sys2Proof.Machine.execIcmpEcho e ip target data s
  | .eapol e ckn ok => Sys2Proof.Machine.execEapol e ckn ok s
  | .sync p tTx tRxLast tTxLast locked depth t4 => Sys2Proof.Machine.execSync p tTx tRxLast tTxLast locked depth t4 s
  | .syncSend p => Sys2Proof.Machine.execSyncSend p s
  | .ptpMessage dom src offset => Sys2Proof.Machine.execPtpMessage dom src offset s
  | .sync1pps => Sys2Proof.Machine.execSync1pps s
  | .sync10mLoss => Sys2Proof.Machine.execSync10mLoss s
  | .holdover => Sys2Proof.Machine.execHoldover s
  | .unlocked => Sys2Proof.Machine.execUnlocked s
  | .en d v => Sys2Proof.Machine.execEn d v s
  | .arm d v => Sys2Proof.Machine.execArm d v s
  | .armComplete d => Sys2Proof.Machine.execArmComplete d s
  | .dieCueDb d v => Sys2Proof.Machine.execDieCueDb d v s
  | .cueProductComplete d mism => Sys2Proof.Machine.execCueProductComplete d mism s
  | .dieCueMbRead d => Sys2Proof.Machine.execDieCueMbRead d s
  | .dieCueXWrite d off size v cycle => Sys2Proof.Machine.execDieCueXWrite d off size v cycle s
  | .getVersion ch => Sys2Proof.Machine.execGetVersion ch s
  | .getCapabilities ch => Sys2Proof.Machine.execGetCapabilities ch s
  | .negotiateAlgorithms ch => Sys2Proof.Machine.execNegotiateAlgorithms ch s
  | .getDigests ch => Sys2Proof.Machine.execGetDigests ch s
  | .getCertificate ch slot off len => Sys2Proof.Machine.execGetCertificate ch slot off len s
  | .challenge ch nonce => Sys2Proof.Machine.execChallenge ch nonce s
  | .getMeasurements ch index nonce => Sys2Proof.Machine.execGetMeasurements ch index nonce s
  | .keyExchange ch exch => Sys2Proof.Machine.execKeyExchange ch exch s
  | .finish session ok chain operator => Sys2Proof.Machine.execFinish session ok chain operator s
  | .heartbeat session => Sys2Proof.Machine.execHeartbeat session s
  | .keyUpdate session => Sys2Proof.Machine.execKeyUpdate session s
  | .endSession session => Sys2Proof.Machine.execEndSession session s
  | .sessionHeartbeatLoss session => Sys2Proof.Machine.execSessionHeartbeatLoss session s
  | .unsupportedRequest ch code => Sys2Proof.Machine.execUnsupportedRequest ch code s
  | .tenantOpen session slot key flags => Sys2Proof.Machine.execTenantOpen session slot key flags s
  | .tenantClose session slot => Sys2Proof.Machine.execTenantClose session slot s
  | .regionClaim session entry g => Sys2Proof.Machine.execRegionClaim session entry g s
  | .regionRelease session entry => Sys2Proof.Machine.execRegionRelease session entry s
  | .reelBind session reel tenant => Sys2Proof.Machine.execReelBind session reel tenant s
  | .sealInstall session slot key => Sys2Proof.Machine.execSealInstall session slot key s
  | .sealRemove session slot => Sys2Proof.Machine.execSealRemove session slot s
  | .cakInstall session mask ckn cak => Sys2Proof.Machine.execCakInstall session mask ckn cak s
  | .operatorRoot session root => Sys2Proof.Machine.execOperatorRoot session root s
  | .secStatus m body tag => Sys2Proof.Machine.execSecStatus m body tag s
  | .bindLoad m body tag => Sys2Proof.Machine.execBindLoad m body tag s
  | .bindDrop m body tag => Sys2Proof.Machine.execBindDrop m body tag s
  | .ideKm session stream key => Sys2Proof.Machine.execIdeKm session stream key s
  | .ideIntegrityFailure port stream => Sys2Proof.Machine.execIdeIntegrityFailure port stream s
  | .mctpMessage bytes => Sys2Proof.Machine.execMctpMessage bytes s
  | .entropyRequest bits => Sys2Proof.Machine.execEntropyRequest bits s
  | .entropyReady cd => Sys2Proof.Machine.execEntropyReady cd s
  | .healthTestFailure cd => Sys2Proof.Machine.execHealthTestFailure cd s
  | .takeover => Sys2Proof.Machine.execTakeover s
  | .grantIssue => Sys2Proof.Machine.execGrantIssue s
  | .batchComplete d r overran => Sys2Proof.Machine.execBatchComplete d r overran s
  | .powerSample watts elapsedUs => Sys2Proof.Machine.execPowerSample watts elapsedUs s
  | .forecast watts lead acked => Sys2Proof.Machine.execForecast watts lead acked s
  | .throttleAssert => Sys2Proof.Machine.execThrottleAssert s
  | .throttleRelease => Sys2Proof.Machine.execThrottleRelease s
  | .plantSensorRead tin tout flow duty => Sys2Proof.Machine.execPlantSensorRead tin tout flow duty s
  | .dieOverdraw d => Sys2Proof.Machine.execDieOverdraw d s
  | .dieHot d => Sys2Proof.Machine.execDieHot d s
  | .thermalTrip => Sys2Proof.Machine.execThermalTrip s
  | .plantFault row => Sys2Proof.Machine.execPlantFault row s
  | .powerFault dies => Sys2Proof.Machine.execPowerFault dies s
  | .excursionClear row die => Sys2Proof.Machine.execExcursionClear row die s
  | .catTrip => Sys2Proof.Machine.execCatTrip s
  | .coldReset vauxLost => Sys2Proof.Machine.execColdReset vauxLost s
  | .bootStage err cd0 cd1 badDies badCores => Sys2Proof.Machine.execBootStage err cd0 cd1 badDies badCores s
  | .warmReset => Sys2Proof.Machine.execWarmReset s
  | .functionReset port perst => Sys2Proof.Machine.execFunctionReset port perst s
  | .rstOpCold v => Sys2Proof.Machine.execRstOpCold v s
  | .rstOpDie v => Sys2Proof.Machine.execRstOpDie v s
  | .rstOpHub v => Sys2Proof.Machine.execRstOpHub v s
  | .rstOpHubForced v => Sys2Proof.Machine.execRstOpHubForced v s
  | .rstOpCore v => Sys2Proof.Machine.execRstOpCore v s
  | .resetComplete failed => Sys2Proof.Machine.execResetComplete failed s
  | .fwuStage img => Sys2Proof.Machine.execFwuStage img s
  | .fwuActivate => Sys2Proof.Machine.execFwuActivate s
  | .fwuConfirm => Sys2Proof.Machine.execFwuConfirm s
  | .fwuRevert => Sys2Proof.Machine.execFwuRevert s
  | .fwuCancel => Sys2Proof.Machine.execFwuCancel s
  | .fwuOpComplete flashOk => Sys2Proof.Machine.execFwuOpComplete flashOk s
  | .quiesce => Sys2Proof.Machine.execQuiesce s
  | .activationSwitch => Sys2Proof.Machine.execActivationSwitch s
  | .actFail => Sys2Proof.Machine.execActFail s
  | .activationWindowClose => Sys2Proof.Machine.execActivationWindowClose s
  | .sync10mPresent => Sys2Proof.Machine.execSync10mPresent s
  | .standbyAdmission cd key => Sys2Proof.Machine.execStandbyAdmission cd key s
  | .perstRelease port => Sys2Proof.Machine.execPerstRelease port s
  | .vauxInRange => Sys2Proof.Machine.execVauxInRange s
  | .msiXUnmask port vector => Sys2Proof.Machine.execMsiXUnmask port vector s
  | .nvmeCompletion ok data => Sys2Proof.Machine.execNvmeCompletion ok data s
  | .poolRefill cd bits => Sys2Proof.Machine.execPoolRefill cd bits s
  | .linkLaggardClear p retried sent => Sys2Proof.Machine.execLinkLaggardClear p retried sent s
  | .stagehandFault c => Sys2Proof.Machine.execStagehandFault c s
  | .jtagInstruction ir data balls => Sys2Proof.Machine.execJtagInstruction ir data balls s
  | .priorityFlowControl e prio quanta => Sys2Proof.Machine.execPriorityFlowControl e prio quanta s

end Sys2Proof.Machine
end

