-- ==== Sys2Proof/Safety.lean ====
section
/-!
DEFINITION. What the claims hold the machine to and the terms they use: the canonical form of its stores, a run in which no step
stops, a shot that runs or waits, an instruction that is due on a core, a packet of an open collective.
-/
namespace Sys2Proof.Machine

/-- HBM bytes, slates and host bytes stand in the one canonical form, so that equal memories are equal data. -/
def StoresCanonical (s : State) : Prop :=
  TabWf zeroByte s.hbm.mem ∧ TabWf slate0 s.hbm.slates ∧ TabWf zeroByte s.host

/-- A step ends in a next state. -/
def Runs (s : State) : Prop := ∃ t, step s = .next t

/-- Shot r has been dispatched with opcode op, has not landed, and Ebtor and the clocks run; core work also needs that no thermal trip
is in force. -/
def ShotRuns (s : State) (r : ShotRef) (op : Nat) (t : Tracked) : Prop :=
  s.trackedOf r = some t ∧ (t.phase = .dispatched ∨ t.phase = .running) ∧ t.shot.opcode.toNat = op ∧ s.clocks = true ∧
  s.ebtor = true ∧ (isCoreWork op && s.pwr.thermTrip) = false

/-- Shot r waits (for a flag, a count or a step boundary). -/
def ShotWaits (s : State) (r : ShotRef) (op : Nat) (t : Tracked) : Prop :=
  s.trackedOf r = some t ∧ t.phase = .waiting ∧ t.shot.opcode.toNat = op ∧ s.clocks = true ∧ s.ebtor = true

/-- The state in which shot r, of one part, has landed with a status and nothing else has changed. -/
def State.landed (s : State) (r : ShotRef) (st : Half) : State := s.modTracked r (fun t => t.landOne st)

/-- Everything outside a core stays as it is. -/
def OnlyCore (s t : State) (c : CoreId) : Prop := t = { s with cores := tset s.cores c.key (t.core c) }

/-- The fields that R273 fixes on the admin reels. -/
def AdminFixed (s : State) : Prop :=
  (s.reel 0).owner = 0 ∧ (s.reel 1).owner = 1 ∧ (∀ n : Nat, (s.reel n).admin = decide (n < 2)) ∧
  ∀ n : Nat, n < 2 → (s.reel n).prio = 0 ∧ (s.reel n).eval = false

/-- The collective of entry i has ended at this member: it is closed, and its shot has landed with a status. -/
def State.collEnded (t : State) (i : Nat) (k : Coll) (st : Half) : Prop :=
  t.openAt i = none ∧ ∃ y, t.trackedOf k.ref = some y ∧ y.phase = .landed ∧ y.status = st

/-- Packet p of type ty belongs to the open collective k of entry i, comes from chain position q and matches k; every member is
reachable, and k's shot is tracked. -/
def CollPacket (s : State) (p : Packet) (ty i : Nat) (k : Coll) (q : Nat) : Prop :=
  s.ebtor = true ∧ s.clocks = true ∧ packetBad p = false ∧ p.ptype.toNat = ty ∧ p.dst = s.glb.devId ∧ s.collOf p = some (i, k) ∧
  (∃ r, (s.cast i).rankOf p.src = some r ∧ q = k.posOf r) ∧ (∀ r : Nat, s.reachable ((s.cast i).dev r) = true) ∧
  (∃ x, s.trackedOf k.ref = some x) ∧ k.cchk = [] ∧ k.feed = false ∧ s.links.castNext = []

/-- Core c takes instructions, its PC holds word w, whose opcode is op, and another instruction follows; v is the core's state. -/
def CoreAt (s : State) (c : CoreId) (w : Dword) (op : Nat) (v : Core) : Prop :=
  s.issues c = true ∧ s.core c = v ∧ v.pc + 1 < v.prog.length ∧ v.prog.getD v.pc 0 = w ∧ opOf w = op

/-- The same, and every instruction issued before has completed. -/
def CoreDue (s : State) (c : CoreId) (w : Dword) (op : Nat) (v : Core) : Prop := CoreAt s c w op v ∧ v.queue = []

/-- The one instruction that core c has issued and not completed is e, of opcode op, which is no collective chunk that is over, and no
precise fault waits for it; v is the core's state. -/
def CoreWaits (s : State) (c : CoreId) (e : Issued) (op : Nat) (v : Core) : Prop :=
  s.issues c = true ∧ s.core c = v ∧ v.queue = [e] ∧ opOf e.iw = op ∧ s.chunkEnds e = false ∧ v.faultWait = none

/-- An instruction of core c has completed: it counts as issued, and issue goes on at a PC. -/
def State.pcTo (s : State) (c : CoreId) (pc : Nat) : State :=
  s.modCore c (fun v => { v with pgIssued := satInc v.pgIssued, vxTry := 0, pc := pc })

/-- The word at the PC of core c enters its engine's queue, and issue goes on behind it. -/
def State.queuedTo (s : State) (c : CoreId) (w : Dword) : State :=
  (s.modCore c (fun v => { v with queue := v.queue ++ [v.issuing w] })).pcTo c ((s.core c).pc + 1)

/-- The one instruction core c had issued has completed, and what it did to the core. -/
def State.doneOn (s : State) (c : CoreId) (g : Core → Core) : State := s.modCore c (fun v => { g v with queue := [], vxTry := 0 })

/-- A precise fault of the instruction of core c at a PC: the part has ended, and CORE_PG_STATUS and CORE_PG_FAULTIW record it. -/
def FaultsAt (o : Instr) (s : State) (c : CoreId) (st : Half) (pc : Nat) : Prop :=
  ∃ t, exec o s = .next t ∧ (t.core c).pstate = 5 ∧ (t.core c).part = none ∧ (t.core c).fstat = st ∧
    (t.core c).fpc = BitVec.ofNat 13 pc ∧ (t.core c).faultIw = (s.core c).prog.getD pc 0 ∧ t.hbm.mem = s.hbm.mem

/-- The same at the instruction that is due. -/
def FaultsWith (o : Instr) (s : State) (c : CoreId) (st : Half) : Prop := FaultsAt o s c st (s.core c).pc

/-- No part of any program waits for a core. -/
def NoQueuedParts (s : State) : Prop := ∀ y ∈ s.tracked, y.queued = []

end Sys2Proof.Machine
end

