-- ==== Sys2Proof/WellFormed.lean ====
section
/-!
DEFINITION. What the outside world can deliver as a command: the lengths and ranges that the wire, the bus or the unit itself
bounds. A meaning is total on every command; nothing in the machine rests on these checks.
-/
namespace Sys2Proof

/-- A BAR access carries at least one byte, and a value of no more bits than its size (R488). -/
def BarAccess.wf (a : BarAccess) : Bool := decide (0 < a.size) && (decide (8 ≤ a.size) || decide (a.val.toNat < 2 ^ (8 * a.size)))

/-- A packet fills at most 22 flits of 192 bytes with its 32-byte header (R364). -/
def Packet.wf (p : Packet) : Bool := decide (32 + p.payload.length ≤ 22 * 192)

/-- A stationary tile has at most 32 columns (R102), each with the same count of elements. -/
def StatTile.wf (t : StatTile) : Bool :=
  decide (t.codes.length ≤ 32) && t.codes.all (fun c => c.length == (t.codes.headD []).length)

/-- The absent elements of a streaming row are elements of it (R135). -/
def StreamRow.wf (x : StreamRow) : Bool := x.absent.all (fun i => decide (i < x.codes.length))

/-- An output tile has at least one row, one stationary tile and a descriptor of 384 bytes (R109, R238); ACC 0b11 is reserved. -/
def TileStart.wf (f : TileStart) : Bool :=
  decide (f.acc ≠ 3) && decide (0 < f.rows) && decide (0 < f.tiles) && decide (f.desc.length = 384) &&
  (f.acc = 2 || decide (f.rows ≤ if f.acc = 1 then 384 else 128))

/-- The command is one that its sender can deliver. -/
def Instr.wellFormed : Instr → Bool
  | .doorbell a => a.wf
  | .registerWrite a => a.wf
  | .mailboxWrite _ _ size _ => decide (0 < size)
  | .shadowLoadComplete _ t => t.wf
  | .tileSwap _ due _ => (match due.first with | some f => f.wf | none => true) && decide due.rows.Nodup
  | .rowLatch _ arr x => x.wf && decide (x.row % 4 = arr.val)
  | .arrivingSumAdd _ row block _ => decide (row < 384) && decide (block.length = 400)
  | .hubWrite _ _ _ kind _ _ _ _ => decide (1 ≤ kind.toNat) && decide (kind.toNat ≤ 7)
  | .sillageMerge _ rec => decide (rec.length = 32)
  | .routingRecordMerge _ rec => decide (rec.length = 32)
  | .flitReceive _ bytes _ _ => decide (bytes.length = 200)
  | .linkLaggard _ retried sent => decide (retried ≤ sent)
  | .linkLaggardClear _ retried sent => decide (retried ≤ sent)
  | .packetForward _ p => p.wf
  | .openPkt p => p.wf
  | .openAck p => p.wf
  | .confirm p => p.wf
  | .exp p => p.wf
  | .sum p => p.wf
  | .data p => p.wf
  | .back p => p.wf
  | .abort p => p.wf
  | .mailbox p => p.wf
  | .doorbellPacket _ p => p.wf
  | .reject p => p.wf
  | .mgmt p => p.wf
  | .roceSend _ _ psn p => p.wf && decide (psn < 2 ^ 24)
  | .arp _ mac ip target => decide (mac.length = 6) && decide (ip.length = 4) && decide (target.length = 4)
  | .neighbourDiscovery _ mac ip target => decide (mac.length = 6) && decide (ip.length = 16) && decide (target.length = 16)
  | .dieCueXWrite _ off size _ _ => decide (0 < size) && decide (off.val + size ≤ 256)
  | .challenge _ nonce => decide (nonce.length = 32)
  | .getMeasurements _ index nonce => decide (index < 256) && decide (nonce.length = 32)
  | .keyExchange _ exch => decide (exch.length = 96)
  | .cakInstall _ _ ckn _ => decide (ckn.length ≤ 32)
  | .fwuStage img => decide (img.digests.length = 4)
  | .bootStage _ _ _ _ cores => decide (cores.length ≤ 544)
  | .resetComplete cores => decide (cores.length ≤ 544)
  | .excursionClear _ die => decide (die ≤ 16)
  | .poolRefill _ bits => decide (bits ≤ 512)
  | _ => true

end Sys2Proof
end

