-- ==== Sys2Proof/Certificates/Slice0/Obligations.lean ====
section
/-!
DEFINITION. The statements about the machine: each is a proposition under `Obligations`, listed in OBLIGATIONS.json.
-/
open Sys2Proof Sys2Proof.Machine

/-- A step runs the command at the front of the queue. For every state whose queue starts with command c, a step is exec
of c on the state with the queue's rest. (INDEX.md) -/
def Obligations.StepRunsFrontCommand : Prop :=
  ∀ (c : Instr) (rest : List Instr) (s : State), s.pending = c :: rest → step s = exec c { s with pending := rest }

/-- With no command waiting a step is one nanosecond of the clapper clock. On an empty queue a step changes the clapper
alone (the model's choice, log entry 24): the count advances by 1 while no offset is slewed away, and never by more than
2 otherwise. (14 R397, 14 R398) -/
def Obligations.EmptyQueueStepTicksClapper : Prop :=
  ∀ s : State, s.pending = [] →
    ∃ c : Clapper, step s = .next { s with clap := c } ∧ (s.clap.slew = 0 → c.count = s.clap.count + 1) ∧
      (c.count = s.clap.count ∨ c.count = s.clap.count + 1 ∨ c.count = s.clap.count + 2) ∧
      c.role = s.clap.role ∧ c.state = s.clap.state ∧ c.offset = s.clap.offset ∧ c.depth = s.clap.depth

/-- No command stops the machine, and none changes the queue of waiting commands. For every command and every state,
exec answers a next state, with the queue as it was: the sender alone adds commands and step alone removes them. Where
the spec is silent the clauses follow the model's choices of log entry 1. (INDEX.md, 10 R274) -/
def Obligations.EveryCommandCompletesAndKeepsQueue : Prop :=
  ∀ (c : Instr) (s : State), ∃ t, exec c s = .next t ∧ t.pending = s.pending

/-- Reset leaves each register at the value its table gives. After reset no command waits, every reel is disabled with
HEAD, TAIL, EPOCH and NEXTSEQ 0 (reels 0 and 1 fixed as Table 10-10 has them), the clapper is FREE at count 0 with DEPTH
7 and AUTO 1, the budget registers, hub, link, laggard, dailies and core registers hold their Reset values, memory lists
nothing, and no shot, session, region or collective exists.
(10 R272, 10 R273, 11 R292, 13 R362, 14 R399, 14 R403, 16 R463, 11 R306, 12 R335, 12 R340, 12 R343, 09 R259) -/
def Obligations.ResetLeavesTheSpecsValues : Prop :=
  let s := State.reset
  s.pending = [] ∧ s.tracked = [] ∧ s.hbm.mem = [] ∧ s.hbm.slates = [] ∧ s.sec.regions = [] ∧ s.sec.sessions = [] ∧
  s.links.open_ = [] ∧
  (∀ n : Nat, (s.reel n).en = false ∧ (s.reel n).head = 0 ∧ (s.reel n).tail = 0 ∧ (s.reel n).epoch = 0 ∧ (s.reel n).nextSeq = 0 ∧
    (s.reel n).notifyMb = 0x20 ∧ (s.reel n).held = false ∧ (s.reel n).owner = (if n = 1 then 1 else 0) ∧
    (s.reel n).prio = (if n < 2 then 0 else 3) ∧ (s.reel n).admin = decide (n < 2)) ∧
  s.glb.devId = 0 ∧ s.glb.idLock = false ∧ s.glb.pin64 = 0 ∧ s.glb.memBusy = false ∧ s.glb.rsvWrites = 0 ∧ s.glb.contKey = 0 ∧
  s.glb.flogBase = 0 ∧ s.glb.flogHead = 0 ∧ s.glb.flogLost = 0 ∧ s.glb.period = 6 ∧ s.glb.deferMax = 0x0C ∧ s.glb.dailyEn = true ∧
  s.clap.count = 0 ∧ s.clap.role = 0 ∧ s.clap.auto = true ∧ s.clap.state = 0 ∧ s.clap.depth = 7 ∧ s.clap.offset = 0 ∧
  s.pwr.cap = 0x0E10 ∧ s.pwr.thr = 0x05DC ∧ s.pwr.dstep = 0x96 ∧ s.pwr.rampUp = 0xC8 ∧ s.pwr.rampDn = 0xC8 ∧ s.pwr.valve = 0x64 ∧
  s.links.retryExp = 0x14 ∧ s.links.reroute = true ∧
  (∀ h : Nat, (s.hub h).scrubH = 0x18 ∧ (s.hub h).age = 0x10 ∧ (s.hub h).cap0 = 1 ∧ (s.hub h).hot = false) ∧
  (∀ p : Nat, (s.port p).en = true ∧ (s.port p).state = 0 ∧ (s.port p).credits = [512, 128, 64, 64]) ∧
  (∀ i : Nat, (s.route i).valid = false ∧ (s.route i).alt = 0x1F) ∧
  (∀ d : Nat, (s.die d).lagSwap = true ∧ (s.die d).lagThresh = 0x0F ∧ (s.die d).lagCount = 0x40 ∧ (s.die d).cue.en = false) ∧
  (∀ c : CoreId, (s.core c).role = 5 ∧ (s.core c).logical = 0x3FF ∧ (s.core c).wdog = 0x10000000 ∧ (s.core c).pstate = 0)

/-- Every step keeps memory, slates and host memory in their one canonical form. Whatever the state, if HBM bytes,
slates and host bytes are listed with rising addresses and no default entries, they are so after a step, so equal
memories stay equal data. (11 R287, 12 R317, 11 R295) -/
def Obligations.StoresKeepTheirCanonicalForm : Prop :=
  ∀ s t : State, StoresCanonical s → step s = .next t → StoresCanonical t

/-- The reset state's stores have the canonical form. (12 R317) -/
def Obligations.ResetStoresAreCanonical : Prop := StoresCanonical State.reset

/-- No step ever changes the fixed fields of the admin reels or makes another reel one. Reel 0 keeps OWNER 0b00 and reel
1 OWNER 0b01, both keep ADMIN 1, PRIO 0b00 and EVAL 0, and no other reel has ADMIN 1. (10 R272, 10 R273) -/
def Obligations.AdminReelsStayFixed : Prop :=
  ∀ s t : State, AdminFixed s → step s = .next t → AdminFixed t

/-- The admin reels have their fixed fields at reset. (10 R272, 10 R273) -/
def Obligations.ResetAdminReelsAreFixed : Prop := AdminFixed State.reset

/-- A doorbell that meets every condition sets TAIL, any other only counts in DBREJ. For a write into the BAR2 page of a
reel that is not poisoned: when it is one aligned 64-bit write of the reel's owner (in a Secure stream where the tenant
asks for one), EN is 1, bits [63:48] are 0, EPOCH agrees, TAIL does not go back and does not exceed the capacity, TAIL
becomes the word's TAIL, DBREJ stays and no other reel changes; otherwise nothing changes but DBREJ, one higher up to
saturation. (R275) -/
def Obligations.DoorbellAcceptedOrCounted : Prop :=
  ∀ (a : BarAccess) (s : State), a.off / 0x1000 < 1024 → a.poison = false →
    let n := a.off / 0x1000
    let r := s.reel n
    let tail : Word := a.val.setWidth 32
    let good : Prop := a.off % 0x1000 = 0 ∧ a.size = 8 ∧ r.owner.toNat = a.port.val ∧
      (a.ide = true ∨ (s.tenant r.tenant.toNat).reqIde = false) ∧ r.en = true ∧ a.val.toNat / 2 ^ 48 = 0 ∧
      a.val.toNat / 2 ^ 32 % 2 ^ 16 = r.epoch.toNat ∧ 0 ≤ (tail - r.tail).toInt ∧ (tail - r.head).toNat ≤ 2 ^ (r.size.toNat + 10)
    (good → ∃ t, exec (.doorbell a) s = .next t ∧ (t.reel n).tail = tail ∧ (t.reel n).dbRej = r.dbRej ∧ ∀ m : Nat, m ≠ n → t.reel m = s.reel m) ∧
    (¬ good → exec (.doorbell a) s = .next (s.setReel n { r with dbRej := satInc r.dbRej }))

/-- A flush sets HEAD to TAIL, advances EPOCH and notes NEXTSEQ, and changes only its reel. FLUSH discards the
undispatched shots of its reel, whatever its EN: HEAD becomes the last accepted TAIL, EPOCH advances by 1 modulo 2^16,
FLSEQ is NEXTSEQ, any predicate span ends; TAIL, NEXTSEQ, EN, HELD, the tracked shots and every other reel and unit
stay. FLDROP counts the discarded shots: with lens the LEN16 of the published headers in order, each 1 to 16, it is
their number when they fill the published units, the last perhaps partly published; and one more when the header behind
them cannot be read and units are left. Where the spec is silent the clauses follow the model's choices of log entry 56.
(10 R276, 10 R272) -/
def Obligations.FlushDiscardsWhatIsPublished : Prop :=
  ∀ (reel : Fin 1024) (s : State),
    let n := reel.val
    let r := s.reel n
    let pub := (r.tail - r.head).toNat
    ∃ d : Word,
      exec (.flush reel) s = .next (s.setReel n { r with
        head := r.tail, epoch := r.epoch + 1, flSeq := r.nextSeq, flDrop := d, ready := none, part := false, span := 0 }) ∧
      (∀ lens : List Nat, (∀ l ∈ lens, 1 ≤ l ∧ l ≤ 16) →
        (∀ k : Nat, k < lens.length →
          ∃ h, s.readUnit n (r.head.toNat + (lens.take k).sum) = .ok h ∧ leAt h 2 1 = lens.getD k 0) →
        (lens.dropLast.sum < pub → pub ≤ lens.sum → d = BitVec.ofNat 32 lens.length) ∧
        (∀ e, lens.sum < pub → s.readUnit n (r.head.toNat + lens.sum) = .error e → d = BitVec.ofNat 32 (lens.length + 1))) ∧
      (pub = 0 → d = 0)

/-- RELEASE clears HELD of a held reel, and leaves a reel that is not held as it is. On a reel that is not held nothing
at all changes. On a held reel with nothing published the hold ends, and a WAIT_FLAG or LAUNCH_AT of the reel that waits
lands with SUCCESS; no other reel changes. Where the spec is silent the clauses follow the model's choices of log entry
56. (10 R272, 10 R285) -/
def Obligations.ReleaseEndsTheHold : Prop :=
  ∀ (reel : Fin 1024) (s : State),
    ((s.reel reel.val).held = false → exec (.release reel) s = .next s) ∧
    ((s.reel reel.val).held = true → (s.reel reel.val).head = (s.reel reel.val).tail →
      ∃ t, exec (.release reel) s = .next t ∧ (t.reel reel.val).held = false ∧ (∀ m : Nat, m ≠ reel.val → t.reel m = s.reel m) ∧
        ∀ x ∈ t.tracked, x.reel = reel → (x.shot.opcode = 0x301 ∨ x.shot.opcode = 0x302) → x.phase = .landed)

/-- GLB_REEL_CFG writes follow R273: reserved values ignore the whole write, EN gates the fields, admin reels keep
theirs. A write with a reserved value of NOTIFY_MB, CHECK, OWNER or SIZE, or one that would give a reel with LOC = 1 to
peers, changes GLB_RSV_WRITES alone. Any other write to a reel whose EN is 0 that leaves EN 0 takes NOTIFY_MB, CHECK,
SIZE, PREEMPT and, on an ordinary reel, OWNER, EVAL and PRIO, and makes no flush. One that sets EN on a reel with
nothing published sets EN. One that clears EN flushes the reel once. (10 R272, 10 R273, 00 R12) -/
def Obligations.ReelConfigurationWrites : Prop :=
  ∀ (reel : Fin 1024) (v : Word) (s : State),
    let r := s.reel reel.val
    let own : BitVec 2 := if r.en || r.admin then r.owner else v.extractLsb' 9 2
    let bad : Prop := (v.extractLsb' 24 6).toNat < 32 ∨ 4 < (v.extractLsb' 12 3).toNat ∨ v.extractLsb' 9 2 = 3 ∨ 10 < (v.extractLsb' 0 4).toNat ∨
      (own = 2 ∧ r.loc = true)
    (bad → exec (.reelEnable reel v) s = .next s.rsv ∧ exec (.reelDisable reel v) s = .next s.rsv) ∧
    (¬ bad → r.en = false → ∃ t, exec (.reelDisable reel v) s = .next t ∧ t.reel reel.val = { r with
      notifyMb := v.extractLsb' 24 6, check := v.extractLsb' 12 3, checkNext := none, size := v.extractLsb' 0 4, preempt := v.getLsbD 6,
      owner := own, eval := if r.admin then r.eval else v.getLsbD 7, prio := if r.admin then r.prio else v.extractLsb' 4 2 } ∧
      ∀ m : Nat, m ≠ reel.val → t.reel m = s.reel m) ∧
    (¬ bad → r.en = false → r.head = r.tail → ∃ t, exec (.reelEnable reel v) s = .next t ∧ (t.reel reel.val).en = true ∧
      (t.reel reel.val).size = v.extractLsb' 0 4 ∧ (t.reel reel.val).owner = own ∧ (t.reel reel.val).head = r.head ∧
      (t.reel reel.val).epoch = r.epoch ∧ (t.reel reel.val).nextSeq = r.nextSeq) ∧
    (¬ bad → r.en = true → ∃ t, exec (.reelDisable reel v) s = .next t ∧ (t.reel reel.val).en = false ∧ (t.reel reel.val).head = r.tail ∧
      (t.reel reel.val).epoch = r.epoch + 1 ∧ (t.reel reel.val).nextSeq = r.nextSeq ∧ (t.reel reel.val).size = r.size ∧
      (t.reel reel.val).owner = r.owner)

/-- Dispatch journals and tracks the ready head shot of the reel that is served. When Ebtor dispatches, its turn falls
to reel n, and the head shot of n has no predicate, stands in no false span and has no recipe reference that waits or
fails, then that shot is journalled before any shot behind it, without a predicate's result, and is tracked as the latest
shot, dispatched, under its check mode and with NPARTS still open. Where the spec is silent the clauses follow the model's choices of log entry 36.
(10 R274, 01 R38, 07 R189) -/
def Obligations.DispatchTracksTheHeadShot : Prop :=
  ∀ (s : State) (n : Nat) (sh : Shot) (rs : List Resolved), n < 1024 → s.dispatching = true → s.lookAll.pick = some n →
    (s.lookAll.reel n).ready = some sh → (s.lookAll.reel n).span = 0 → sh.pred = none → isCoreWork sh.opcode.toNat = false →
    s.lookAll.resolveShot (s.lookAll.reel n) sh = some (.ok rs) →
    ∃ t x js, exec .dispatch s = .next t ∧ t.journal = js ++ (⟨Fin.ofNat 1024 n, sh.seq⟩, none) :: s.lookAll.journal ∧
      t.tracked = s.lookAll.tracked ++ [x] ∧ x.reel = Fin.ofNat 1024 n ∧ x.shot = sh ∧ x.phase = .dispatched ∧
      x.mode = sh.chk.getD (s.lookAll.reel n).check ∧ x.resolved = rs

/-- A landed shot completes: it is tracked no longer, and a status that holds its reel holds it. For a landed shot,
SHOT_COMPLETE removes it from the tracked shots and no other shot, once its completion record can be written (a shot of
a reel that has been reset writes none); when its status holds its reel the reel is held, and otherwise no reel changes.
While the record waits for its hub the shot stays tracked and nothing changes. Where the spec is silent the clauses follow the model's choices of log entries 35, 56.
(10 R266, 10 R274, 12 R318) -/
def Obligations.CompletionEndsTracking : Prop :=
  ∀ (s : State) (r : ShotRef) (x : Tracked), s.trackedOf r = some x → x.phase = .landed → s.ebtor = true →
    (x.recs = [] ∨ x.partFlag = false) →
    let record := s.writeRecord (s.reel r.reel.val).owner x.tenant x.shot.sref x.record
    ((x.mute = true ∨ record ≠ none) → ∃ t, exec (.shotComplete r) s = .next t ∧
      t.tracked = s.tracked.filter (fun y => !(y.reel == r.reel && y.shot.seq == r.seq)) ∧
      (x.holdFor.isSome → (t.reel r.reel.val).held = true) ∧ (x.holdFor = none → t.reels = s.reels)) ∧
    (x.mute = false → record = none → exec (.shotComplete r) s = .next s)

/-- NOP lands with no effect, EVENT posts its word with type 0x04, STEP_END waits for its boundary. NOP changes nothing
but its own landing with SUCCESS. EVENT adds bits [57:0] of its word under type 0x04 to the queue of the mailbox it
names (a full queue drops and counts it) and lands; after a reset of its reel's function it posts none. STEP_END waits. (10 R269, 10 R273, 10 R284) -/
def Obligations.NopEventAndStepEndShots : Prop :=
  ∀ (s : State) (r : ShotRef) (x : Tracked),
    (ShotRuns s r 0x000 x → exec (.nop r) s = .next (s.landed r 0)) ∧
    (ShotRuns s r 0x303 x → x.mute = true → exec (.event r) s = .next (s.landed r 0)) ∧
    (ShotRuns s r 0x303 x → x.mute = false → ∃ t : State, exec (.event r) s = .next (t.landed r 0) ∧ t = s.modMb (leAt x.shot.body 0 1) (fun b =>
      if b.queue.length < 64 then
        { b with queue := b.queue ++ [0#1 ++ (4#5 ++ BitVec.ofNat 58 (leAt x.shot.body 8 8))] }
      else { b with dropped := satInc b.dropped })) ∧
    (ShotRuns s r 0x300 x → exec (.stepEnd r) s = .next (s.modTracked r (fun t => { t with phase := .waiting })))

/-- WAIT_FLAG lands with SUCCESS when its condition holds and waits while it does not. Given the eight bytes that the
flag word's address reads as for the reel's tenant: a WAIT_FLAG at dispatch, and one that polls, lands with SUCCESS
exactly when the masked comparison of Table 5-10 holds, and otherwise waits; a read that fails ends it with that status.
(10 R271, 05 R149) -/
def Obligations.WaitFlagHoldsUntilItsConditionHolds : Prop :=
  ∀ (s : State) (r : ShotRef) (x : Tracked) (b : List Byte),
    let p := (predOf x.shot.body).1
    s.read x.req acceptRecord p.flagAddr.toNat 8 = .ok b →
    let holds := Pred.holds p (BitVec.ofNat 64 (leNat b))
    (ShotRuns s r 0x301 x → exec (.waitFlag r) s = .next (if holds then s.landed r 0 else s.modTracked r (fun t => { t with phase := .waiting }))) ∧
    (ShotWaits s r 0x301 x → exec (.waitFlagPoll r) s = .next (if holds then s.landed r 0 else s.modTracked r (fun t => { t with phase := .waiting })))

/-- LAUNCH_AT waits for a target far enough ahead, by the signed difference of the counts, and fails late, unlocked or
missed launches. At dispatch: under ACQUIRING or UNLOCKED it lands with 0x0730; at least 20 µs (50 µs under CLEAN)
before TARGET it waits, all vaults emptied first under CLEAN; else it lands with SUCCESS under LATE and with 0x0731
otherwise. At count TARGET + 250 with nothing published behind it, it lands with SUCCESS under LATE and with 0x0732
otherwise. With the shot behind it ready, passing the checks on its operands, and free to dispatch, it lands with
SUCCESS and that shot is journalled. Where the spec is silent the clauses follow the model's choices of log entries 36,
56. (14 R404, 14 R405, 14 R406, 14 R407, 19 R507) -/
def Obligations.LaunchAtJudgesItsTarget : Prop :=
  ∀ (s : State) (r : ShotRef) (x : Tracked),
    let target : Dword := BitVec.ofNat 64 (leAt x.shot.body 0 8)
    let ctl := leAt x.shot.body 8 1
    let late := bit ctl 0
    let ahead : Int := if bit ctl 1 then 50000 else 20000
    let lost := s.clap.state = 1 ∨ s.clap.state = 4
    let waiting := s.modTracked r (fun t => { t with phase := .waiting })
    (ShotRuns s r 0x302 x → lost → exec (.launchAt r) s = .next (s.landed r 0x0730)) ∧
    (ShotRuns s r 0x302 x → ¬ lost → ahead ≤ (target - s.clap.count).toInt → bit ctl 1 = false → exec (.launchAt r) s = .next waiting) ∧
    (ShotRuns s r 0x302 x → ¬ lost → ahead ≤ (target - s.clap.count).toInt → bit ctl 1 = true →
      ∃ t, exec (.launchAt r) s = .next t ∧ t.tracked = waiting.tracked ∧ ∀ h : Nat, h < 8 → (t.hub h).vault = []) ∧
    (ShotRuns s r 0x302 x → ¬ lost → (target - s.clap.count).toInt < ahead →
      exec (.launchAt r) s = .next (s.landed r (if late then 0 else 0x0731))) ∧
    (ShotWaits s r 0x302 x → ¬ lost → 250 ≤ (s.clap.count - target).toInt → (s.reel r.reel.val).en = true →
      (s.reel r.reel.val).held = false → (s.reel r.reel.val).ready = none → (s.reel r.reel.val).head = (s.reel r.reel.val).tail →
      ∃ t : State, exec (.launchTarget r) s = .next (t.landed r (if late then 0 else 0x0732)) ∧ t.tracked = s.tracked) ∧
    (∀ (sh : Shot) (rs : List Resolved), ShotWaits s r 0x302 x → ¬ lost → 250 ≤ (s.clap.count - target).toInt →
      (s.reel r.reel.val).ready = some sh → s.isReady r.reel.val sh = true → (s.reel r.reel.val).span = 0 → sh.pred = none →
      (s.landed r 0).dispatching = true → (s.landed r 0).castBusy sh = false → (s.landed r 0).tenantReleasing (s.reel r.reel.val).tenant = false →
      (s.landed r 0).mirrorReady (s.reel r.reel.val) sh = true → (s.landed r 0).resolveShot (s.reel r.reel.val) sh = some (.ok rs) →
      (s.landed r 0).descBad (s.reel r.reel.val) sh rs = none → ∃ t js, exec (.launchTarget r) s = .next t ∧ t.journal = js ++ (⟨r.reel, sh.seq⟩, none) :: s.journal)

/-- FLAG_WRITE writes (word AND NOT MASK) OR (VALUE AND MASK) and lands with SUCCESS. When the flag word is 8-byte
aligned in an ordinary region and reads as `old` for the shot's tenant, and no checkpoint is being taken, the shot lands
with SUCCESS, the word then reads as the update of Table 10-8, and every other byte of HBM, all of host memory, every
reel and every core stay as they were. (10 R269, 11 R295, 12 R313) -/
def Obligations.FlagWriteUpdatesUnderItsMask : Prop :=
  ∀ (s : State) (r : ShotRef) (x : Tracked) (old : List Byte),
    let a := leAt x.shot.body 0 5
    let value : Dword := BitVec.ofNat 64 (leAt x.shot.body 8 8)
    let mask : Dword := BitVec.ofNat 64 (leAt x.shot.body 16 8)
    ShotRuns s r 0x103 x → a % 8 = 0 → s.read x.req acceptRecord a 8 = .ok old → (∀ g, s.region (a / 4096 * 4096) = some g → g.kind = 0) →
    s.ckpt = none →
    ∃ t, exec (.flagWrite r) s = .next t ∧ t.trackedOf r = some (x.landOne 0) ∧
      t.read x.req acceptRecord a 8 = .ok (leBytes 8 ((BitVec.ofNat 64 (leNat old) &&& ~~~mask) ||| (value &&& mask)).toNat) ∧
      (∀ y : Nat, y < a ∨ a + 8 ≤ y → tget zeroByte t.hbm.mem y = tget zeroByte s.hbm.mem y) ∧
      t.host = s.host ∧ t.reels = s.reels ∧ t.cores = s.cores

/-- A FILL within one block writes its pattern over and over, as RAW. For a FILL of `len` bytes (a multiple of 64, not
0) that lies in one mapped block the tenant owns, served by its hub, in an ordinary region, readable and with a good
slate unless it is overwritten whole, and no checkpoint: the shot lands with SUCCESS in one part, byte i of the
destination is byte i mod 8 of the pattern, every other byte stays, but for those of an UNWRITTEN block, which are 0x00,
and the slate's GEN is one higher.
(10 R269, 12 R312, 12 R313, 10 R267) -/
def Obligations.FillWritesItsPattern : Prop :=
  ∀ (s : State) (r : ShotRef) (x : Tracked),
    let dst := leAt x.shot.body 0 5
    let len := leAt x.shot.body 8 8
    let blk := dst / 4096
    ShotRuns s r 0x101 x → x.lost = [] → 0 < len → dst % 4096 + len ≤ 4096 → s.mapped (blk * 4096) = true → s.hubServes blk = true →
    s.ownerOf (blk * 4096) = x.tenant → (∀ g, s.region (blk * 4096) = some g → g.kind = 0) →
    (len = 4096 ∨ (s.poisoned blk = false ∧ s.unlisted blk = false)) → (len = 4096 ∨ (s.slate blk).kind = 0 ∨ s.slateOk blk (s.block blk) = true) → s.ckpt = none →
    ∃ t, exec (.fill r) s = .next t ∧ (∃ y, t.trackedOf r = some y ∧ y.phase = .landed ∧ y.status = 0 ∧ y.nparts = 1 ∧ y.failmask = 0) ∧
      (∀ i : Nat, i < len → tget zeroByte t.hbm.mem (dst + i) = (bytesAt x.shot.body 16 8).getD (i % 8) 0) ∧
      (∀ y : Nat, y < dst ∨ dst + len ≤ y →
        tget zeroByte t.hbm.mem y = if (s.slate blk).kind = 0 ∧ y / 4096 = blk then 0 else tget zeroByte s.hbm.mem y) ∧
      (t.slate blk).gen = (s.slate blk).gen + 1 ∧ (t.slate blk).kind ≠ 0 ∧ t.slateOk blk (t.block blk) = true

/-- COPY, FILL and CLEAR_RECORD of length zero land with SUCCESS and change nothing else. (10 R277) -/
def Obligations.ZeroLengthMovesLandAtOnce : Prop :=
  ∀ (s : State) (r : ShotRef) (x : Tracked),
    (∀ bad, ShotRuns s r 0x100 x → leAt x.shot.body 16 8 = 0 → exec (.copy ⟨r, bad⟩) s = .next (s.landed r 0)) ∧
    (ShotRuns s r 0x101 x → leAt x.shot.body 8 8 = 0 → exec (.fill r) s = .next (s.landed r 0)) ∧
    (ShotRuns s r 0x102 x → leAt x.shot.body 8 4 = 0 → exec (.clearRecord r) s = .next (s.landed r 0))

/-- COPY, FILL and CLEAR_RECORD whose accesses do not wait land with NPARTS by R267. A COPY within device memory and a
FILL, of a length that is not zero, land with NPARTS = min(64, destination blocks) when every read and write is
answered; CLEAR_RECORD lands in one part. Each landed shot keeps its opcode, and FAILMASK names only parts below NPARTS.
(10 R266, 10 R267, 11 R294) -/
def Obligations.MovesLandInTheirParts : Prop :=
  ∀ (s : State) (r : ShotRef) (x : Tracked),
    (∀ ps u, ShotRuns s r 0x101 x → 0 < leAt x.shot.body 8 8 →
      moveParts (leAt x.shot.body 0 5) (leAt x.shot.body 8 8) (fun a n => .ok (fillPiece x a n)) = some ps →
      s.runParts x.req [] r.reel.val r.seq (x.withLost ps) = some u →
      ∃ t y, exec (.fill r) s = .next t ∧ t.trackedOf r = some y ∧ y.phase = .landed ∧
        y.nparts = min 64 (destBlocks (leAt x.shot.body 0 5) (leAt x.shot.body 8 8))) ∧
    (∀ ps u bad, ShotRuns s r 0x100 x → 0 < leAt x.shot.body 16 8 → hostPort (leAt x.shot.body 8 5) = none →
      moveParts (leAt x.shot.body 8 5) (leAt x.shot.body 16 8) (s.copyMade x bad) = some ps →
      s.runParts x.req [] r.reel.val r.seq (x.withLost ps) = some u →
      ∃ t y, exec (.copy ⟨r, bad⟩) s = .next t ∧ t.trackedOf r = some y ∧ y.phase = .landed ∧
        y.nparts = min 64 (destBlocks (leAt x.shot.body 8 5) (leAt x.shot.body 16 8))) ∧
    (∀ u, ShotRuns s r 0x102 x → x.lost = [] → 0 < leAt x.shot.body 8 4 →
      s.writeRuns x.req [] kRecord 0 0 [(leAt x.shot.body 0 5, zeros (32 * leAt x.shot.body 8 4))] = .ok u →
      ∃ t y, exec (.clearRecord r) s = .next t ∧ t.trackedOf r = some y ∧ y.phase = .landed ∧ y.status = 0 ∧ y.nparts = 1 ∧
        t.hbm = u.hbm)

/-- A mailbox write is accepted only when empty, from a permitted sender and well formed; a refusal changes only
REJECTS. Hosts and peers write mailboxes 0 to 15, control dies 16 to 63, stagehands none. An accepted 8-byte write sets
the word, FULL and SENDER and no other mailbox. A refused one leaves word, FULL and SENDER, counts in REJECTS up to
saturation, and is reported: a completer abort over AER for PCIe, a bus error on the die. A poisoned write of PCIe is
dropped and logged. (10 R281, 10 R283, 18 R490, 18 R491) -/
def Obligations.MailboxWritesAreAcceptedOrRefused : Prop :=
  ∀ (src : Sender) (m : Fin 64) (size : Nat) (w : Dword) (s : State),
    let b := s.mb m.val
    let allowed : Prop := match src with
      | .pcie .. => m.val < 16 | .peer _ => m.val < 16 | .controlDie _ => 16 ≤ m.val | .stagehand _ => False
    let good : Prop := size = 8 ∧ b.full = false ∧ allowed ∧ (w.getLsbD 63 = true → w.toNat % 64 = 0)
    let poisoned : Prop := ∃ p f i, src = .pcie p f i true
    (∀ p f i, src = .pcie p f i true → exec (.mailboxWrite src m size w) s = .next (s.emit (.aerPoisoned p))) ∧
    (¬ poisoned → good → ∃ t, exec (.mailboxWrite src m size w) s = .next t ∧
      t.mb m.val = { b with data := w, full := true, kind := senderKind src, id := senderId src } ∧ ∀ k : Nat, k ≠ m.val → t.mb k = s.mb k) ∧
    (¬ poisoned → ¬ good → ∃ t, exec (.mailboxWrite src m size w) s = .next t ∧ t.mb m.val = { b with rejects := satInc b.rejects } ∧
      (∀ p f i, src = .pcie p f i false → OutMsg.aerCompleterAbort p (m.val * 0x40) ∈ t.out) ∧
      (∀ c, src = .stagehand c → OutMsg.busError c ∈ t.out) ∧ (∀ c, src = .controlDie c → OutMsg.busErrorCd c ∈ t.out))

/-- A read by the receiver clears FULL and keeps the word's SENDER and REJECTS. The host's read of an outbound mailbox
clears its FULL, and Ebtor's read of an immediate word in an inbound one does; a read of an empty mailbox changes
nothing. An 8-byte BAR4 read of the word returns it while FULL = 1 and 0 otherwise. (10 R281, 10 R282) -/
def Obligations.ReceiversEmptyTheirMailboxes : Prop :=
  ∀ (m : Fin 64) (s : State),
    (∀ port, s.bar4Read port (m.val * 0x40) 8 = if (s.mb m.val).full then (s.mb m.val).data else 0) ∧
    ((s.mb m.val).full = false → exec (.mailboxReceiverRead m) s = .next s) ∧
    ((s.mb m.val).full = true → 16 ≤ m.val → exec (.mailboxReceiverRead m) s = .next (s.modMb m.val (fun b => { b with full := false }))) ∧
    ((s.mb m.val).full = true → m.val < 16 → s.ebtor = true → (s.mb m.val).data.getLsbD 63 = false →
      ∃ t, exec (.mailboxReceiverRead m) s = .next t ∧ t.mb m.val = { s.mb m.val with full := false })

/-- The head of an outbound queue moves into its empty mailbox, and a LOST word takes the space that opens. With the
queue's head w an immediate word, the mailbox outbound and empty and a control die active, the mailbox holds w from that
control die; when words had been dropped, a LOST word with their count (type 0x03, or 0x05 on mailboxes 16 to 31) joins
the queue and the count restarts from 0. (10 R284, 15 R440) -/
def Obligations.EventQueuesFillTheirMailboxes : Prop :=
  ∀ (m : Fin 64) (s : State) (w : Dword) (rest : List Dword), (s.mb m.val).queue = w :: rest → 16 ≤ m.val → (s.mb m.val).full = false →
    s.ebtor = true → w.getLsbD 63 = false →
    ∃ t, exec (.eventQueueDeliver m) s = .next t ∧ (t.mb m.val).data = w ∧ (t.mb m.val).full = true ∧ (t.mb m.val).kind = 2 ∧
      (t.mb m.val).id = BitVec.ofNat 17 s.activeCd ∧ (t.mb m.val).dropped = 0 ∧
      (t.mb m.val).queue = (if (s.mb m.val).dropped = 0 then rest else
        rest ++ [0#1 ++ ((if m.val < 32 then 5#5 else 3#5) ++ ((s.mb m.val).dropped.setWidth 58 : BitVec 58))])

/-- MAILBOX, DOORBELL, REJECT and MGMT packets for this device reach their mailbox, reel and Ebtor. A MAILBOX packet is
a write under R283 of its 8-byte payload with SENDER KIND 0x4 and the packet's SRC; a refused one changes no mailbox but
for a count in its REJECTS. A DOORBELL packet from a Burou port for a reel of peers is judged by R275: one that meets
its conditions sets TAIL; one with a wrong length only counts in DBREJ, and so does one that no Burou port brought or
one for a reel that peers do not own. REJECT notes the refusing device and mailbox, MGMT hands the packet to Ebtor. Each leaves the list of
packets that wait. (13 R365, 13 R370, 10 R275, 10 R283) -/
def Obligations.PacketsReachMailboxesReelsAndEbtor : Prop :=
  ∀ (p : Packet) (s : State), s.ebtor = true → s.clocks = true → packetBad p = false → p.dst = s.glb.devId →
    let s1 := s.modLinks (fun l => { l with inbox := l.inbox.erase p })
    (p.ptype = 0x09 → p.payload.length = 8 → p.arg.toNat % 64 < 16 → (s.mb (p.arg.toNat % 64)).full = false →
      ((BitVec.ofNat 64 (leNat p.payload) : Dword).getLsbD 63 = true → leNat p.payload % 64 = 0) →
      exec (.mailbox p) s = .next (s1.modMb (p.arg.toNat % 64) (fun b =>
        { b with data := BitVec.ofNat 64 (leNat p.payload), full := true, kind := 4, id := p.src.setWidth 17 }))) ∧
    (p.ptype = 0x09 → p.payload.length ≠ 8 ∨ 16 ≤ p.arg.toNat % 64 ∨ (s.mb (p.arg.toNat % 64)).full = true ∨
        ((BitVec.ofNat 64 (leNat p.payload) : Dword).getLsbD 63 = true ∧ leNat p.payload % 64 ≠ 0) →
      ∃ t, exec (.mailbox p) s = .next t ∧
        t.mb (p.arg.toNat % 64) = { s.mb (p.arg.toNat % 64) with rejects := satInc (s.mb (p.arg.toNat % 64)).rejects } ∧
        ∀ m : Nat, m ≠ p.arg.toNat % 64 → t.mb m = s.mb m) ∧
    (∀ burou, p.ptype = 0x0A → burou = false ∨ (s.reel (p.arg.toNat % 1024)).owner ≠ 2 ∨ p.payload.length ≠ 8 →
      exec (.doorbellPacket burou p) s =
        .next (s1.modReel (p.arg.toNat % 1024) (fun r => { r with dbRej := satInc r.dbRej }))) ∧
    (let n := p.arg.toNat % 1024
     let r := s.reel n
     let v := leNat p.payload
     let tail : Word := BitVec.ofNat 32 v
     p.ptype = 0x0A → r.owner = 2 → p.payload.length = 8 → r.en = true → (s.tenant r.tenant.toNat).reqIde = false → v / 2 ^ 48 = 0 →
     v / 2 ^ 32 % 2 ^ 16 = r.epoch.toNat → 0 ≤ (tail - r.tail).toInt → (tail - r.head).toNat ≤ 2 ^ (r.size.toNat + 10) →
     ∃ t, exec (.doorbellPacket true p) s = .next t ∧ (t.reel n).tail = tail ∧ (t.reel n).dbRej = r.dbRej ∧ ∀ m : Nat, m ≠ n → t.reel m = s.reel m) ∧
    (p.ptype = 0x0B → exec (.reject p) s = .next (s1.modLinks (fun l => { l with refused := l.refused ++ [(p.src, p.arg.toNat % 64)] }))) ∧
    (p.ptype = 0x0C → exec (.mgmt p) s = .next (s1.modLinks (fun l => { l with mgmt := l.mgmt ++ [p] })))

/-- Unmasking a vector with its pending bit set fires it and clears the bit. On a function whose MSI-X is enabled and
whose function mask is clear, unmasking a vector that is pending clears mask and pending bit and sends the message;
unmasking one that is not pending clears its mask bit alone. (18 R491) -/
def Obligations.MsiVectorsFireOnceUnmasked : Prop :=
  ∀ (port : Fin 2) (v : Fin 64) (s : State),
    ((s.pf port.val).vecPend.getLsbD v.val = false →
      exec (.msiXUnmask port v) s = .next (s.modPf port.val (fun f => { f with vecMask := f.vecMask &&& ~~~(1#64 <<< v.val) }))) ∧
    ((s.pf port.val).vecPend.getLsbD v.val = true → (s.pf port.val).msixEn = true → (s.pf port.val).funcMask = false →
      ∃ t, exec (.msiXUnmask port v) s = .next t ∧ t.out = OutMsg.msix port v.val :: s.out ∧ (t.pf port.val).vecMask.getLsbD v.val = false ∧
        (t.pf port.val).vecPend = (s.pf port.val).vecPend &&& ~~~(1#64 <<< v.val) ∧ t.mbox = s.mbox)

/-- A hub read counts its vault hit or miss and what the memory code reports, and an uncorrectable block enters the
poison list. For a read of 256 B to 4 KiB, 256 B aligned, of one block that the hub homes and serves, by the tenant that
owns it and of a block not listed: with a good slate that is neither UNWRITTEN nor STALE and no error, only the hub's
vault counters and lines change, one hit or miss for each 256 B; an on-die correction also counts in HUB_ECC_ODCE, one
symbol in error in HUB_ECC_CE; two symbols on the fetch and on its reread are uncorrectable, count in HUB_ECC_UE and
list the block while the list holds fewer than 16,384 entries. A read for Ebtor of a listed block changes nothing, and
of a shot's part it fails that part with 0x0311. Where the spec is silent the clauses follow the model's choices of log entries 5, 17.
(11 R296, 11 R299, 11 R301, 11 R302, 11 R307, 12 R314) -/
def Obligations.HubReadsCountAndJudge : Prop :=
  ∀ (h : Fin 8) (addr len : Nat) (kind : ReadKind) (by_ : Asker) (s : State),
    let blk := addr / 4096
    addr % 256 = 0 → len % 256 = 0 → 256 ≤ len → addr % 4096 + len ≤ 4096 → s.serves h blk = true → s.ownerOf addr = by_.tenant →
    let hit := (s.hub h.val).vault.any (fun l => l.blk == blk)
    (s.poisoned blk = true → ∀ e n, (by_.who = .ebtor → exec (.hubRead h addr len kind by_ e n) s = .next s) ∧
      ∀ r p, by_.who = .part r p → exec (.hubRead h addr len kind by_ e n) s =
        .next (s.modTracked r (fun t => { t with lost := t.lost ++ [(p, 0x0311, blk * 4096)] }))) ∧
    (s.poisoned blk = false → s.unlisted blk = false → (s.slate blk).kind ≠ 0 → s.slateOk blk (s.block blk) = true → (s.slate blk).stale = false →
      (∃ t, exec (.hubRead h addr len kind by_ {} 0) s = .next t ∧ t.hbm = s.hbm ∧ t.glb = s.glb ∧
        (t.hub h.val).vltHit = (if hit then satAdd (s.hub h.val).vltHit (len / 256) else (s.hub h.val).vltHit) ∧
        (t.hub h.val).vltMiss = (if hit then (s.hub h.val).vltMiss else satAdd (s.hub h.val).vltMiss (len / 256)) ∧
        (t.hub h.val).poison = (s.hub h.val).poison ∧ ∀ k : Nat, k ≠ h.val → t.hub k = s.hub k) ∧
      (∃ t, exec (.hubRead h addr len kind by_ { onDie := true } 0) s = .next t ∧ t.hbm = s.hbm ∧
        (t.hub h.val).odce = satInc (s.hub h.val).odce) ∧
      (s.glb.flogBase = 0 → ∃ t, exec (.hubRead h addr len kind by_ { first := 1 } 0) s = .next t ∧ t.hbm = s.hbm ∧
        (t.hub h.val).ce = satInc (s.hub h.val).ce)) ∧
    (s.poisoned blk = false → s.unlisted blk = false → by_.who = .ebtor → s.glb.flogBase = 0 →
      ∃ t, exec (.hubRead h addr len kind by_ { first := 2, again := [2] } 0) s = .next t ∧ t.hbm = s.hbm ∧ (t.hub h.val).ue = satInc (s.hub h.val).ue ∧
        t.glb.flogHead = s.glb.flogHead + 1 ∧
        (t.poisoned blk = true ↔ (s.hub h.val).poison.length + (s.hub h.val).lost.length < 16384) ∧
        (t.unlisted blk = true ↔ 16384 ≤ (s.hub h.val).poison.length + (s.hub h.val).lost.length))

/-- A hub write of a whole block places its data under a new slate, unless its CRC is wrong. A whole block of 4,096
bytes, of a kind that Table 12-2 lets a writer give, sent for the tenant that owns the block to the hub that homes and
serves it, with no checkpoint pending on it: with the right CRC, or with the right one when the hub has asked for the
block once more, the block holds the data, its slate has GEN one higher, the KIND, FMT and TIDF given, no STALE and a
CRC that agrees, and the block is no longer poisoned; with a wrong CRC and no right one after it no byte of memory and no
slate changes and one fault record is counted (fault log unplaced). A reserved KIND is not written. Where the spec is silent the clauses follow the
model's choices of log entries 2, 55. (12 R312, 12 R313, 11 R302, 12 R310) -/
def Obligations.HubWritesPlaceBlocksWithSlates : Prop :=
  ∀ (h : Fin 8) (blk : Nat) (bytes : List Byte) (kind fmt : BitVec 4) (tid : Word) (by_ : Asker) (crc : SendCrc) (s : State),
    s.serves h blk = true → bytes.length = 4096 → s.ownerOf (blk * 4096) = by_.tenant → s.ckpt = none → s.glb.flogBase = 0 →
    (kind = 0 ∨ 8 ≤ kind.toNat → exec (.hubWrite h (blk * 4096) bytes kind fmt tid by_ crc) s = .next s) ∧
    (∀ d, kind ≠ 0 → kind.toNat < 8 →
      (crc64 bytes = crc.crc ∧ d = bytes) ∨ (crc64 bytes ≠ crc.crc ∧ d.length = 4096 ∧ crc.again = some (d, crc64 d)) →
      ∃ t, exec (.hubWrite h (blk * 4096) bytes kind fmt tid by_ crc) s = .next t ∧ t.block blk = d ∧
      t.slateOk blk d = true ∧ (t.slate blk).gen = (s.slate blk).gen + 1 ∧ (t.slate blk).kind = kind ∧ (t.slate blk).fmt = fmt ∧
      (t.slate blk).tidf = tid ∧ (t.slate blk).stale = false ∧ t.poisoned blk = false ∧ t.unlisted blk = false ∧
      (∀ b : Nat, b ≠ blk → t.slate b = s.slate b) ∧ ∀ y : Nat, y < blk * 4096 ∨ blk * 4096 + 4096 ≤ y → tget zeroByte t.hbm.mem y = tget zeroByte s.hbm.mem y) ∧
    (kind ≠ 0 → kind.toNat < 8 → by_.who = .ebtor → crc64 bytes ≠ crc.crc → (∀ d c, crc.again = some (d, c) → crc64 d ≠ c) →
      ∃ t, exec (.hubWrite h (blk * 4096) bytes kind fmt tid by_ crc) s = .next t ∧ t.hbm = s.hbm ∧ t.hubs = s.hubs ∧
      t.glb.flogHead = s.glb.flogHead + 1)

/-- A sillage merge sets each field as R71 says, commutes and associates, and is one atomic update of its 32 bytes; so
is a routing merge. Merging P into Q takes the larger AMAX, the saturating sums of ELEMS, CLIPS, NANS and INFS, and the
OR of the FLAGS with CNT_SAT set when one of the four sums saturates; it commutes and associates. For a 32-byte aligned
record in an ordinary region whose 32 bytes read as `old` for the tenant that owns them, with no checkpoint, the hub's
merge leaves exactly the merged record there under a new slate of its block and every other byte as it was. A routing
merge does the same with the merge of its own fields. (R71) -/
def Obligations.HubMergesAreAtomicUpdates : Prop :=
  (∀ p q r : List Byte,
    let m := mergeSillage p q
    let tops (w a n : Nat) : Bool := decide (2 ^ w ≤ leAt p a n + leAt q a n)
    leAt m 0 4 = max (leAt p 0 4) (leAt q 0 4) ∧ leAt m 8 8 = min (2 ^ 64 - 1) (leAt p 8 8 + leAt q 8 8) ∧
    leAt m 16 4 = min (2 ^ 32 - 1) (leAt p 16 4 + leAt q 16 4) ∧ leAt m 20 4 = min (2 ^ 32 - 1) (leAt p 20 4 + leAt q 20 4) ∧
    leAt m 24 4 = min (2 ^ 32 - 1) (leAt p 24 4 + leAt q 24 4) ∧
    leAt m 4 4 = (leAt p 4 4 ||| leAt q 4 4) ||| (if tops 64 8 8 || tops 32 16 4 || tops 32 20 4 || tops 32 24 4 then 4 else 0) ∧
    mergeSillage q p = m ∧ mergeSillage m r = mergeSillage p (mergeSillage q r)) ∧
  ∀ (addr : BitVec 40) (rec old : List Byte) (s : State),
    let q : Req := { tenant := s.ownerOf addr.toNat, use := .other, range := 0x0201 }
    let blk := addr.toNat / 4096
    addr.toNat % 32 = 0 → rec.length = 32 → s.read q acceptRecord addr.toNat 32 = .ok old → s.ckpt = none →
    (∀ g, s.region (addr.toNat / 4096 * 4096) = some g → g.kind = 0) →
    (∃ t, exec (.sillageMerge addr rec) s = .next t ∧ t.read q acceptRecord addr.toNat 32 = .ok (mergeSillage rec old) ∧
      (t.slate blk).gen = (s.slate blk).gen + 1 ∧ t.slateOk blk (t.block blk) = true ∧
      ∀ y : Nat, y < addr.toNat ∨ addr.toNat + 32 ≤ y → tget zeroByte t.hbm.mem y = tget zeroByte s.hbm.mem y) ∧
    (∃ t, exec (.routingRecordMerge addr rec) s = .next t ∧ t.read q acceptRecord addr.toNat 32 = .ok (mergeRouting rec old) ∧
      (t.slate blk).gen = (s.slate blk).gen + 1 ∧ t.slateOk blk (t.block blk) = true ∧
      ∀ y : Nat, y < addr.toNat ∨ addr.toNat + 32 ≤ y → tget zeroByte t.hbm.mem y = tget zeroByte s.hbm.mem y)

/-- A scrub of a clean sector counts only the end of a pass, and refresh sets HOT and counts what it postpones.
(11 R303, 11 R304, 11 R307) -/
def Obligations.ScrubAndRefreshCount : Prop :=
  ∀ (h : Fin 8) (s : State),
    (∀ blk last, s.serves h blk = true → (s.hub h.val).scrubH ≠ 0 → exec (.patrolScrub h blk {} last) s =
      .next (if last then s.modHub h.val (fun v => { v with scrubPass := satInc v.scrubPass }) else s)) ∧
    (∀ blk e last, (s.hub h.val).scrubH = 0 → exec (.patrolScrub h blk e last) s = .next s) ∧
    (∀ post hot, exec (.refresh h post hot) s = .next (s.modHub h.val (fun v =>
      { v with hot := hot, refPost := if post then satInc v.refPost else v.refPost })))

/-- A repair command sets BUSY with its OP, and its end clears BUSY with the RESULT of Table 11-10. While BUSY is 0,
SPPR, SPPR_UNDO and MAP begin; HPPR begins when every reel is disabled and otherwise reports BUSY (0x3); while BUSY is 1
none changes anything. A soft repair that succeeds remaps the row and enters flash's list; one without a spare row
reports NO_SPARE; one beyond the geometry reports BADADDR. Where the spec is silent the clauses follow the model's
choices of log entry 55. (11 R305, 17 R473) -/
def Obligations.RepairCommandsRunToTheirResult : Prop :=
  ∀ (h : Fin 8) (s : State),
    let begun := fun (op : BitVec 4) => s.modHub h.val (fun v => { v with rprBusy := true, rprOp := op })
    ((s.hub h.val).rprBusy = true → exec (.sppr h) s = .next s ∧ exec (.hppr h) s = .next s ∧ exec (.spprUndo h) s = .next s ∧
      exec (.map h) s = .next s) ∧
    ((s.hub h.val).rprBusy = false → exec (.sppr h) s = .next (begun 1) ∧ exec (.spprUndo h) s = .next (begun 3) ∧
      exec (.map h) s = .next (begun 4) ∧
      exec (.hppr h) s = .next (if s.reels.any (fun r => r.2.en) then s.modHub h.val (fun v => { v with rprResult := 3 }) else begun 2)) ∧
    ((s.hub h.val).rprBusy = true → (s.hub h.val).rprOp = 1 → ∀ m,
      (∃ t, exec (.repairDone h true true true m) s = .next t ∧ (t.hub h.val).rprBusy = false ∧ (t.hub h.val).rprResult = 0 ∧
        (t.hub h.val).soft = (s.hub h.val).soft ++ [(s.hub h.val).rprAddr] ∧
        t.boot.repairs = s.boot.repairs ++ [(h.val, (s.hub h.val).rprAddr.setWidth 64)]) ∧
      (∀ ok, exec (.repairDone h true false ok m) s = .next (s.modHub h.val (fun v => { v with rprBusy := false, rprOp := 0, rprResult := 2 }))) ∧
      (∀ sp ok, exec (.repairDone h false sp ok m) s = .next (s.modHub h.val (fun v => { v with rprBusy := false, rprOp := 0, rprResult := 1 }))))

/-- Burou ports train, come UP with their peer recorded, and go DOWN on a time-out. A DOWN port with EN = 1 retrains
(STATE TRAINING, all lanes, retry buffer empty). When training ends the port stays DOWN if its peer is the device itself
or no lane works; otherwise it is UP with PEERID, PEERPORT, the widest width of its working lanes, fresh sequence
numbers and full credits. A time-out takes an UP port (no valid flit) or a DEGRADE port (width change) DOWN with its
retry buffer dropped, here with no collective open. Other ports keep their state. Where the spec is silent the clauses
follow the model's choices of log entry 21. (13 R350, 13 R357, 13 R361, 13 R362) -/
def Obligations.PortsTrainAndGoDown : Prop :=
  ∀ (p : Fin 20) (s : State),
    let n := p.val
    ((s.port n).state = 0 → (s.port n).en = true → s.clocks = true →
      ∃ t, exec (.portRetrain p) s = .next t ∧ (t.port n).state = 1 ∧ (t.port n).good = 0xF ∧ (t.port n).retry = []) ∧
    (∀ peer pp lanes, (s.port n).state = 1 → s.clocks = true → (peer = s.glb.devId ∨ lanes = 0) →
      exec (.portTrained p peer pp lanes) s = .next (s.modPort n (fun q => { q with state := 0, lanes := 0 }))) ∧
    (∀ peer pp lanes, (s.port n).state = 1 → s.clocks = true → peer ≠ s.glb.devId → lanes ≠ 0 →
      ∃ t, exec (.portTrained p peer pp lanes) s = .next t ∧ (t.port n).state = 2 ∧ (t.port n).peerId = peer ∧ (t.port n).peerPort = pp ∧
        (t.port n).good = lanes ∧ (t.port n).lanes = activeMask lanes ∧ (t.port n).credits = [512, 128, 64, 64] ∧
        (t.port n).txSeq = 0 ∧ (t.port n).rxSeq = 0 ∧ ∀ k : Nat, k ≠ n → t.port k = s.port k) ∧
    ((s.port n).state = 2 → s.links.open_ = [] →
      ∃ t, exec (.portRxTimeout p) s = .next t ∧ (t.port n).state = 0 ∧ (t.port n).lanes = 0 ∧ (t.port n).retry = []) ∧
    ((s.port n).state ≠ 2 → exec (.portRxTimeout p) s = .next s) ∧
    ((s.port n).state = 3 → s.links.open_ = [] →
      ∃ t, exec (.widthChangeTimeout p) s = .next t ∧ (t.port n).state = 0 ∧ (t.port n).lanes = 0 ∧ (t.port n).retry = []) ∧
    ((s.port n).en = true → s.links.open_ = [] →
      ∃ t, exec (.retrain p) s = .next t ∧ (t.port n).state = 1 ∧ (t.port n).good = 0xF ∧ (t.port n).en = true) ∧
    ((s.port n).en = false → ∃ t, exec (.retrain p) s = .next t ∧ (t.port n).state = (s.port n).state ∧ (t.port n).en = false)

/-- A dropped lane narrows its port by a width change, and a lane clean for 10 s widens it again. A working lane of a
port that is UP or in DEGRADE that drops leaves the working lanes, counts in LNK_LANE_DROPS and writes one fault record;
an UP port keeps running when its mask stays the same and otherwise proposes the new mask (DEGRADE). Retraining marks a
dropped lane; when it has run clean it works again. A WIDTH from the peer and a WIDTH_ACK for the own proposal put the
port UP with that mask. Where the spec is silent the clauses follow the model's choices of log entry 21.
(13 R358, 13 R363, 12 R347) -/
def Obligations.LanesDropAndComeBack : Prop :=
  ∀ (p : Fin 20) (lane : Fin 4) (s : State),
    let n := p.val
    let q := s.port n
    let one : BitVec 4 := 1#4 <<< lane.val
    (s.portUp n = true → q.good.getLsbD lane.val = true → s.clocks = true →
      ∃ t, exec (.laneDrop p lane) s = .next t ∧ (t.port n).good = q.good &&& ~~~one ∧ (t.port n).laneDrops = satInc q.laneDrops ∧
        t.glb.flogHead = s.glb.flogHead + 1 ∧
        (if q.state = 2 ∧ activeMask (q.good &&& ~~~one) = q.lanes then (t.port n).state = 2
         else (t.port n).state = 3 ∧ (t.port n).newMask = some (activeMask (q.good &&& ~~~one)))) ∧
    (s.portUp n = true → q.good.getLsbD lane.val = false →
      exec (.laneRetrain p lane) s = .next (s.modPort n (fun x => { x with clean := x.clean ||| one }))) ∧
    (s.portUp n = true → q.clean.getLsbD lane.val = true →
      ∃ t, exec (.laneRestore p lane) s = .next t ∧ (t.port n).good = q.good ||| one ∧ (t.port n).clean = q.clean &&& ~~~one ∧
        (if q.state = 2 ∧ activeMask (q.good ||| one) = q.lanes then (t.port n).state = 2
         else (t.port n).state = 3 ∧ (t.port n).newMask = some (activeMask (q.good ||| one)))) ∧
    (∀ mask, s.portUp n = true → mask ≠ 0 → s.clocks = true →
      ∃ t, exec (.width p mask) s = .next t ∧ (t.port n).state = 2 ∧ (t.port n).lanes = mask ∧ (t.port n).newMask = none) ∧
    (∀ mask, q.state = 3 → q.newMask = some mask → mask ≠ 0 →
      ∃ t, exec (.widthAck p) s = .next t ∧ (t.port n).state = 2 ∧ (t.port n).lanes = mask ∧ (t.port n).newMask = none)

/-- A port over its retry limit is a laggard until it falls back, and a route returns to a healthy primary. A port that
is UP or in DEGRADE whose retried flits exceed 2^-RETRYEXP of those sent reads LAG = 1; once they no longer do, LAG
follows its width alone. A route on its alternate returns to its primary when that port is UP at four lanes and no
laggard, and only that route changes. Where the spec is silent the clauses follow the model's choices of log entry 21.
(13 R359, 13 R367) -/
def Obligations.LinkLaggardsAndTheirRoutes : Prop :=
  ∀ (p : Fin 20) (retried sent : Nat) (s : State),
    (s.portUp p.val = true → sent < retried * 2 ^ s.links.retryExp.toNat →
      ∃ t, exec (.linkLaggard p retried sent) s = .next t ∧ (t.port p.val).lag = true ∧ (t.port p.val).state = (s.port p.val).state) ∧
    (retried * 2 ^ s.links.retryExp.toNat ≤ sent →
      ∃ t, exec (.linkLaggardClear p retried sent) s = .next t ∧ (t.port p.val).lagRetry = false ∧
        (t.port p.val).lag = (s.portUp p.val && (s.port p.val).lanes != 0xF)) ∧
    (∀ i : Fin 64, (s.route i.val).onAlt = true → (s.route i.val).pri.toNat < 20 → (s.port (s.route i.val).pri.toNat).state = 2 →
      (s.port (s.route i.val).pri.toNat).lanes = 0xF → (s.port (s.route i.val).pri.toNat).lag = false →
      exec (.routeRestore i) s = .next (s.modRoute i.val (fun r => { r with onAlt := false })))

/-- A port takes packet flits in sequence, and answers the first bad one with a NAK for the FSEQ it expects. On an UP
port: a packet flit with a good CRC and the FSEQ expected advances the expected FSEQ by one, counts in LNK_FLITS_RX and
the corrected bytes in LNK_FEC_CORR; a codeword that cannot be corrected counts in LNK_FEC_UNC and, when no NAK is
outstanding, is answered with one. A NAK from the peer counts in LNK_RETRIES. An IDLE CTRL flit returns the credits due.
Where the spec is silent the clauses follow the model's choices of log entries 2, 21.
(13 R352, 13 R353, 13 R354, 13 R355, 13 R356, 13 R363) -/
def Obligations.FlitsAreTakenInOrderOrRefused : Prop :=
  ∀ (p : Fin 20) (s : State), (s.port p.val).state = 2 → s.clocks = true →
    let q := s.port p.val
    (∀ bytes fec, (crc32c (bytesAt bytes 0 196)).toNat = leAt bytes 196 4 → fld (leAt bytes 0 4) 30 2 ≠ 0 →
      fld (leAt bytes 0 4) 5 11 = q.rxSeq.toNat →
      ∃ t, exec (.flitReceive p bytes fec true) s = .next t ∧ (t.port p.val).rxSeq = q.rxSeq + 1 ∧ (t.port p.val).flitsRx = satInc q.flitsRx ∧
        (t.port p.val).fecCorr = satAdd q.fecCorr fec ∧ (t.port p.val).nakSent = false ∧ t.hbm = s.hbm ∧ t.reels = s.reels) ∧
    (∀ bytes fec, q.nakSent = false → q.returns.length = 4 →
      ∃ t, exec (.flitReceive p bytes fec false) s = .next t ∧ (t.port p.val).fecUnc = satInc q.fecUnc ∧ (t.port p.val).rxSeq = q.rxSeq ∧
        (t.port p.val).nakSent = true ∧ ∃ c, t.out = OutMsg.ctrl p 1 c :: s.out ∧ leAt c 12 2 = q.rxSeq.toNat) ∧
    (∀ f, ∃ t, exec (.nak p f) s = .next t ∧ (t.port p.val).retries = satInc q.retries ∧ (t.port p.val).txSeq = q.txSeq ∧
      (t.port p.val).retry = q.retry) ∧
    (∃ t c, exec (.ctrlSend p) s = .next t ∧ t.out = OutMsg.ctrl p 0 c :: s.out ∧ (t.port p.val).returns = [0, 0, 0, 0] ∧
      (t.port p.val).sinceCtrl = 0)

/-- A packet for another device is forwarded once with HOP set; one that has hopped is dropped and counted.
(13 R365, 13 R367, 13 R368) -/
def Obligations.PacketsAreForwardedOnce : Prop :=
  ∀ (inPort : Fin 20) (p : Packet) (s : State), p.dst ≠ s.glb.devId → s.clocks = true → packetBad p = false →
    (p.pflags.getLsbD 0 = true → ∃ t, exec (.packetForward inPort p) s = .next t ∧
      (t.port inPort.val).dropped = satInc (s.port inPort.val).dropped ∧ t.out = s.out) ∧
    (∀ n, p.pflags.getLsbD 0 = false → s.burouPort p.dst = some n → ∃ t, exec (.packetForward inPort p) s = .next t ∧
      OutMsg.packet { p with pflags := p.pflags ||| 1 } ∈ t.out ∧ (t.port inPort.val).dropped = (s.port inPort.val).dropped)

/-- Ethernet ports drop unprotected frames, answer on their own addresses, agree keys, pause and pass on RoCEv2 packets.
Each clause gives the whole next state: an unprotected frame other than EAPOL on a port that is up only counts as
dropped and a protected or EAPOL frame is left to the commands for what it carries; ARP, neighbour discovery and ICMP echo for an address of a configured, protected port send one answer; an EAPOL
agreement under the installed CKN secures the port; a pause of the enabled priority pauses it; a SEND with the PSN
expected from a usable peer joins the packets that wait; a dead queue pair is noted (no collective open). Where the spec
is silent the clauses follow the model's choices of log entry 58. (13 R371, 13 R372, 13 R373, 13 R392) -/
def Obligations.EthernetPortsProtectAndAnswer : Prop :=
  ∀ (e : Fin 4) (s : State),
    (∀ b, (s.eth e.val).up = true → etherType b ≠ [0x88, 0x8E] →
      exec (.ethernetFrame e false b) s = .next (s.modEth e.val (fun q => { q with drops := satInc q.drops }))) ∧
    (∀ b macsec, macsec = true ∨ etherType b = [0x88, 0x8E] → exec (.ethernetFrame e macsec b) s = .next s) ∧
    (∀ mac ip target, target.length = 4 → s.answers e target = true →
      exec (.arp e mac ip target) s = .next (s.emit (.ethernet e (arpReply (s.eth e.val).mac mac ip target)))) ∧
    (∀ mac ip target, target.length = 16 → s.answers e target = true →
      ∃ b, exec (.neighbourDiscovery e mac ip target) s = .next (s.emit (.ethernet e (target ++ ip ++ [0x88#8, 0x00#8] ++ b))) ∧
        b.drop 2 = [0x60#8, 0x00#8, 0x00#8, 0x00#8] ++ target ++ [0x02#8, 0x01#8] ++ (s.eth e.val).mac) ∧
    (∀ ip target d, s.answers e target = true → ∃ b, exec (.icmpEcho e ip target d) s = .next (s.emit (.ethernet e (target ++ ip ++ b))) ∧
      b.drop 4 = d) ∧
    (∀ ckn k, (s.eth e.val).cak = some (ckn, k) → (s.eth e.val).up = true →
      exec (.eapol e ckn true) s = .next (s.modEth e.val (fun q => { q with secured := true }))) ∧
    (∀ prio quanta, bit (leAt (s.eth e.val).config 27 1) 4 = true → leAt (s.eth e.val).config 27 1 % 16 = prio.val → quanta ≠ 0 →
      exec (.priorityFlowControl e prio quanta) s = .next (s.modEth e.val (fun q => { q with paused := q.paused ||| (1#8 <<< prio.val) }))) ∧
    (∀ src psn p, (s.eth e.val).ready = true → (tget (fun _ => 0) s.links.peers src.toNat).testBit e.val = true → s.links.edgBase ≠ 0 →
      psn = tget (fun _ => 0) s.links.psnRx src.toNat → s.clocks = true → packetBad p = false →
      ∃ t, exec (.roceSend e src psn p) s = .next t ∧ t.links.inbox = s.links.inbox ++ [p] ∧
        tget (fun _ => 0) t.links.psnRx src.toNat = (psn + 1) % 2 ^ 24) ∧
    (∀ peer, s.links.open_ = [] → ∃ t, exec (.qpRetryExhausted peer) s = .next t ∧ peer.toNat ∈ t.links.qpDead ∧ s.links.qpDead ⊆ t.links.qpDead ∧
      t.links.peers = s.links.peers)

/-- Measured offsets step, slew and lock the clapper; loss of sync takes it to HOLDOVER and UNLOCKED. An offset within
the limit (2 ns for a MEMBER, 100 ns for a master) adds to the run of good ones, any other ends it; the 16th in a row
locks the clapper; the first one in ACQUIRING steps the count to the source, every other is slewed away; OFFSET
saturates at 32,767. A MEMBER measures by the exchange with its parent port (its halves rounded down, log entry 52), a
MASTER_PTP by messages of its domain on a protected port, a MASTER_PPS by the edge while SYNC_10M is present. A LOCKED
clapper that loses sync goes to HOLDOVER, and that to UNLOCKED. Writing a new ROLE starts over; a reserved PTPDOM or
PARENT is ignored and counted. The other commands of this family change only what their clauses name. Where the spec is
silent the clauses follow the model's choices of log entry 52.
(14 R397, 14 R398, 14 R399, 14 R400, 14 R402, 14 R403, 18 R499) -/
def Obligations.ClapperFollowsItsSource : Prop :=
  ∀ (s : State),
    (∀ (c : Clapper) (limit off : Int) (v : Dword),
      let m := c.measure limit off v
      let within := -limit ≤ off ∧ off ≤ limit
      m.offset = BitVec.ofInt 16 (max (-32767) (min 32767 off)) ∧ m.role = c.role ∧ m.depth = c.depth ∧
      (within → m.good = c.good + 1 ∧ (15 ≤ c.good → m.state = 2) ∧ (c.good < 15 → m.state = c.state)) ∧
      (¬ within → m.good = 0 ∧ m.state = c.state) ∧
      (m.state = 1 → c.stepped = false → m.count = v ∧ m.slew = 0 ∧ m.stepped = true) ∧
      (m.state ≠ 1 ∨ c.stepped = true → m.count = c.count ∧ m.slew = off)) ∧
    (∀ (p : Fin 20) (tTx tRx tTxLast t4 : Dword) (locked : Bool) (depth : BitVec 3), (s.port p.val).state = 2 → s.clocks = true →
      s.clap.role = 1 → (s.modPort p.val (fun q => { q with syncDepth := depth })).clapParent = some p.val → tRx ≠ 0 →
      let theta := ((t4 - tTx).toInt - (tRx - tTxLast).toInt) / 2
      let m := s.clap.measure 2 theta (s.clap.count - BitVec.ofInt 64 theta)
      ∃ t, exec (.sync p tTx tRx tTxLast locked depth t4) s = .next t ∧ (t.port p.val).rxLast = t4 ∧ (t.port p.val).txLast = tTx ∧
        t.clap = { m with delay := ((tRx - tTxLast).toInt + (t4 - tTx).toInt) / 2, depth := if depth = 7 then 7 else depth + 1 }) ∧
    (∀ (p : Fin 20) (tTx tRx tTxLast t4 : Dword) (locked : Bool) (depth : BitVec 3), (s.port p.val).state = 2 → s.clocks = true →
      s.clap.role ≠ 1 → exec (.sync p tTx tRx tTxLast locked depth t4) s = .next (s.modPort p.val (fun q =>
        { q with syncDepth := depth, syncLocked := locked, rxLast := t4, txLast := tTx }))) ∧
    (∀ p : Fin 20, (s.port p.val).state = 2 → s.clocks = true → (s.port p.val).returns.length = 4 →
      ∃ t c, exec (.syncSend p) s = .next t ∧ t.out = OutMsg.ctrl p 2 c :: s.out ∧ t.clap = s.clap ∧
        leAt c 12 8 = s.clap.count.toNat ∧ leAt c 20 8 = (s.port p.val).rxLast.toNat ∧ leAt c 28 8 = (s.port p.val).txLast.toNat ∧
        leAt c 36 1 = b2n (s.clap.state = 2) + 2 * s.clap.depth.toNat) ∧
    (∀ dom src off, exec (.ptpMessage dom src off) s = .next (if s.clap.role = 2 ∧ dom = s.clap.ptpDom ∧
        (∃ e : Fin 4, (s.eth e.val).up = true ∧ (s.eth e.val).secured = true)
      then { s with clap := s.clap.measure 100 off src } else s)) ∧
    (s.clap.role = 3 → s.clap.sync10m = true → s.clap.count.toNat % 1000000000 < 500000000 →
      exec .sync1pps s = .next { s with clap :=
        { s.clap.measure 100 (s.clap.count.toNat % 1000000000 : Nat) (BitVec.ofNat 64 (s.clap.count.toNat / 1000000000 * 1000000000))
          with ppsSeen := true } }) ∧
    exec .sync10mLoss s = .next { s with clap := { s.clap with sync10m := false } } ∧
    exec .sync10mPresent s = .next { s with clap := { s.clap with sync10m := true } } ∧
    (s.clap.role ≠ 0 → s.clap.state = 2 → exec .holdover s = .next { s with clap := { s.clap with state := 3, good := 0 } }) ∧
    (s.clap.state = 3 → exec .unlocked s = .next { s with clap := { s.clap with state := 4 } }) ∧
    (∀ v : Word, fld v.toNat 16 8 < 128 → v.toNat % 32 < 20 → fld v.toNat 24 6 = 0 → fld v.toNat 6 10 = 0 →
      ∃ t, exec (.glbClapCfgWrite v) s = .next t ∧ t.clap.role.toNat = v.toNat / 2 ^ 30 ∧ t.clap.parent.toNat = v.toNat % 32 ∧
        t.clap.auto = bit v.toNat 5 ∧ t.clap.ptpDom.toNat = fld v.toNat 16 8 ∧ t.clap.count = s.clap.count ∧
        (t.clap.role ≠ s.clap.role ∨ t.clap.parent ≠ s.clap.parent →
          t.clap.state = (if t.clap.role = 0 then 0 else 1) ∧ t.clap.depth = (if t.clap.role = 2 ∨ t.clap.role = 3 then 0 else 7)) ∧
        (t.clap.role = s.clap.role → t.clap.parent = s.clap.parent → t.clap.state = s.clap.state ∧ t.clap.depth = s.clap.depth)) ∧
    (∀ v : Word, 128 ≤ fld v.toNat 16 8 ∨ 20 ≤ v.toNat % 32 → exec (.glbClapCfgWrite v) s = .next s.rsv)

/-- Cue mode: EN and ARM, doorbells that run, wait or are rejected, and the mailbox word each product leaves. EN takes
and gives back the cue core at once on an idle die and waits otherwise. ARM starts a load or follows the product in
progress; the load ends with ARMED or with ARMERR. A doorbell is rejected and counted while a product runs, FULL = 1 or
an ARM loads, and otherwise begins, or waits for a trip or test to end. A product ends FULL with its SEQ, NARM and MISM
and its result slots; reading the mailbox clears it; DIE_CUE_X is locked during cycles 1 to 281 of an armed product. A
control die whose image yields the active die's key is admitted as standby. Where the spec is silent the clauses follow
the model's choices of log entries 4, 19. (14 R414, 14 R415, 14 R416, 14 R417, 14 R418, 14 R419, 14 R420, 17 R412) -/
def Obligations.CueDoorbellsAndProducts : Prop :=
  ∀ (d : Fin 16) (s : State),
    let q := (s.die d.val).cue
    (∀ v : Dword, bit v.toNat 60 = false → fld v.toNat 40 10 = 0 → bit v.toNat 62 = false → bit v.toNat 63 ≠ q.en →
      ∃ t, exec (.en d v) s = .next t ∧ (t.die d.val).cue.desc.toNat = v.toNat % 2 ^ 40 ∧
        (s.dieBusy d.val = true ∨ q.busy ≠ none → (t.die d.val).cue.enNext = some (bit v.toNat 63) ∧ (t.die d.val).cue.en = q.en) ∧
        (s.dieBusy d.val = false → q.busy = none → q.en = true → (t.die d.val).cue.en = false ∧ (t.die d.val).cue.armed = false) ∧
        (∀ k, s.dieBusy d.val = false → q.busy = none → q.en = false → s.cueCandidate d.val = some k →
          (t.die d.val).cue.en = true ∧ (t.coreK k).logical = 0x3FF ∧ (t.coreK k).home = (s.coreK k).logical)) ∧
    (∀ v : Dword, bit v.toNat 60 = false → fld v.toNat 40 10 = 0 → bit v.toNat 62 = true → bit v.toNat 63 = true → q.en = true →
      exec (.arm d v) s = .next (s.modCue d.val (fun q => if q.busy.isSome
        then { q with desc := BitVec.ofNat 40 v.toNat, enNext := none, armNext := true }
        else { q with desc := BitVec.ofNat 40 v.toNat, enNext := none, arming := true, armed := false, armErr := 0 }))) ∧
    (q.arming = true → s.ebtor = true →
      (∀ b m, s.cueLoad d.val = .ok (b, m) → exec (.armComplete d) s = .next (s.modCue d.val (fun q =>
        { q with arming := false, armed := true, armErr := 0, armedDesc := b, matrix := m }))) ∧
      (∀ e, s.cueLoad d.val = .error (some e) → exec (.armComplete d) s = .next (s.modCue d.val (fun q =>
        { q with arming := false, armed := false, armErr := e })))) ∧
    (q.desc.toNat % 64 ≠ 0 → s.cueLoad d.val = .error (some 1)) ∧
    (∀ v : Dword, v.toNat < 2 ^ 32 →
      (q.busy ≠ none ∨ q.waiting ≠ none ∨ q.full = true ∨ q.arming = true →
        exec (.dieCueDb d v) s = .next (s.modCue d.val (fun q => { q with rej := satInc q.rej }))) ∧
      (q.busy = none → q.waiting = none → q.full = false → q.arming = false →
        (s.cueServes d.val = true → exec (.dieCueDb d v) s = .next (s.modCue d.val (fun q =>
          { q with busy := some (BitVec.ofNat 32 v.toNat, q.armed, false), next := if q.armed then q.results else [] }))) ∧
        (s.cueServes d.val = false → exec (.dieCueDb d v) s = .next (s.modCue d.val (fun q =>
          { q with waiting := some (BitVec.ofNat 32 v.toNat) }))))) ∧
    (∀ seq armed late mism, q.busy = some (seq, armed, late) →
      ∃ t, exec (.cueProductComplete d mism) s = .next t ∧
        let u := (t.die d.val).cue
        u.full = true ∧ u.seq = seq ∧ u.busy = none ∧
        u.flags = BitVec.ofNat 3 (b2n (!armed) + 2 * b2n (armed && mism) + 4 * b2n late) ∧
        (armed = false → u.res = q.res) ∧ (armed = true → mism = false → u.res = (List.range 32).zip q.next)) ∧
    exec (.dieCueMbRead d) s = .next (s.modCue d.val (fun q => { q with full := false, flags := 0, seq := 0 })) ∧
    (∀ (off : Fin 256) (n : Nat) (v : Dword) (cycle : Nat), n = 4 ∨ n = 8 → off.val % n = 0 →
      ((∃ seq late, q.busy = some (seq, true, late)) → 1 ≤ cycle → cycle ≤ 281 → exec (.dieCueXWrite d off n v cycle) s = .next s.rsv) ∧
      (q.busy = none ∨ cycle = 0 ∨ 281 < cycle → ∃ t, exec (.dieCueXWrite d off n v cycle) s = .next t ∧
        (∀ i : Nat, i < n → tget (fun _ => 0) (t.die d.val).cue.x (off.val + i) = BitVec.ofNat 8 (v.toNat / 2 ^ (8 * i))) ∧
        ∀ i : Nat, i < off.val ∨ off.val + n ≤ i → tget (fun _ => 0) (t.die d.val).cue.x i = tget (fun _ => 0) q.x i)) ∧
    (∀ (cd : Fin 2) (key : Dword), s.ebtor = true → s.glb.active.toNat ≠ cd.val + 1 →
      (key = s.glb.contKey → exec (.standbyAdmission cd key) s = .next (s.modCd cd.val (fun c => { c with ok := true }))) ∧
      (key ≠ s.glb.contKey → s.boot.fwuActivating = false → exec (.standbyAdmission cd key) s = .next s))

/-- Recipe-bind, recipe-write, evaluation snapshot, loss-scale check and cast write: at once, or pending for the step
boundary. For shots whose reads are answered: a bind takes effect at once when the job has no enabled reel and else
waits; a table that breaks R188 is rejected with 0x0109 and nothing is bound; a recipe-write joins those pending for the
job's boundary and lands; EVAL_SNAPSHOT is noted; LSCHECK writes the overflow word, bit 0 set exactly when a record of an
entry with LSCHK = 1 overflowed, and on an evaluation reel writes nothing; CAST_WRITE installs its entry with serial 0, or waits when the entry is VALID and its
job runs, or fails with 0x0403. Where the spec is silent the clauses follow the model's choices of log entries 32, 57.
(07 R184, 07 R188, 07 R195, 07 R198, 07 R206, 10 R278, 13 R377, 13 R378, 13 R379, 01 R37) -/
def Obligations.RecipeShotsBindAndWrite : Prop :=
  ∀ (s : State) (r : ShotRef) (x : Tracked),
    let b := x.shot.body
    let j : Word := BitVec.ofNat 32 (leAt b 0 4)
    let a := leAt b 8 5
    let bound (u : State) := (u.adminDone r).landed r 0
    (∀ tb, ShotRuns s r 0x400 x → a = 0 ∨ (s.readAt x.req a = .ok tb ∧ tableBad true j tb.h tb.es = false) →
      (s.jobRuns j = false → exec (.recipeBind r) s = .next (bound (s.modJob j (fun y =>
        { y with table := BitVec.ofNat 40 a, tenant := x.tenant, bindNext := none })))) ∧
      (s.jobRuns j = true → exec (.recipeBind r) s = .next (bound (s.modJob j (fun y =>
        { y with bindNext := some (BitVec.ofNat 40 a, x.tenant) }))))) ∧
    (∀ tb, ShotRuns s r 0x400 x → a ≠ 0 → s.readAt x.req a = .ok tb → tableBad true j tb.h tb.es = true →
      exec (.recipeBind r) s = .next (s.modTracked r (fun t => t.reject 0x0109))) ∧
    (∀ tb new, ShotRuns s r 0x401 x →
      let f := (s.job j).future
      let q : Req := { tenant := f.2, use := .other, range := 0x0201 }
      let w := (leAt b 4 2, bytesAt b 16 128)
      f.1 ≠ 0 → (s.readAt q f.1.toNat).bind (s.applyWrites q f.1.toNat (s.job j).writes) = .ok tb →
      (w.1 = 0xFFFF ∨ w.1 < tb.es.length) → s.applyWrite q f.1.toNat tb w = .ok new →
      (tableBad false j new.h new.es = true → exec (.recipeWrite r) s = .next (s.modTracked r (fun t => t.reject 0x0109))) ∧
      (tableBad false j new.h new.es = false →
        exec (.recipeWrite r) s = .next (bound (s.modJob j (fun y => { y with writes := y.writes ++ [w] }))))) ∧
    (∀ (q : Req) (tb : RTable) (w : Nat × List Byte) (y : Nat), w.1 < tb.es.length → w.1 ≠ 0xFFFF →
      ∃ new, s.applyWrite q y tb w = .ok new ∧ new.h = tb.h ∧ new.es.length = tb.es.length ∧
        new.es.getD w.1 [] = bytesAt w.2 0 64 ++ zeros 64 ∧ ∀ i : Nat, i ≠ w.1 → new.es.getD i [] = tb.es.getD i []) ∧
    (ShotRuns s r 0x402 x → exec (.evalSnapshot r) s = .next (bound (s.modJob j (fun y => { y with snapNext := true })))) ∧
    (∀ tb recs, ShotRuns s r 0x015 x → (s.job j).table ≠ 0 → s.readAt (s.jobReq j) (s.job j).table.toNat = .ok tb →
      (tb.es.filter (fun e => bit (eState e) 2)).mapM (fun e => s.read x.req acceptRecord (eSill e) 32) = .ok recs → x.eval = true →
      exec (.lscheck r) s = .next (s.landed r 0)) ∧
    (∀ tb recs u, ShotRuns s r 0x015 x → (s.job j).table ≠ 0 → s.readAt (s.jobReq j) (s.job j).table.toNat = .ok tb →
      (tb.es.filter (fun e => bit (eState e) 2)).mapM (fun e => s.read x.req acceptRecord (eSill e) 32) = .ok recs → x.eval = false →
      s.rmw x.req (hOvf tb.h) 8 (fun _ => leBytes 8 (b2n (recs.any (fun c =>
        leAt c 20 4 ≠ 0 || leAt c 24 4 ≠ 0 || bit (leAt c 4 4) 1)))) = .ok u →
      exec (.lscheck r) s = .next (u.landed r 0)) ∧
    (∀ l c, ShotRuns s r 0x405 x →
      let i := leAt b 0 2
      let job : Word := BitVec.ofNat 32 (leAt b 28 4)
      let ms := (cut 8 l).map (fun m => BitVec.ofNat 64 (leNat m))
      (if bit (leAt b 2 1) 0 then s.read x.req .any (leAt b 16 5) (8 * leAt b 8 4) = .ok l ∧
          c = { valid := true, feedOk := bit (leAt b 2 1) 1, groupid := BitVec.ofNat 32 (leAt b 4 4), myrank := leAt b 12 4,
                members := ms, timeout := BitVec.ofNat 32 (leAt b 24 4), job := job : Cast } ∧ ∀ m ∈ ms, m.toNat < 2 ^ 56
        else c = { job := job : Cast }) →
      (c.valid = true → s.castInvalid c = true → exec (.castWrite r) s = .next (s.landed r 0x0403)) ∧
      (c.valid = false ∨ s.castInvalid c = false →
        (((s.cast i).valid = false ∨ (s.cast i).broken = true ∨ s.jobRuns job = false) → (∀ o ∈ s.links.open_, o.1 ≠ i) →
          exec (.castWrite r) s = .next (bound (s.modCast i (fun _ => { c with cser := 0 })))) ∧
        ((s.cast i).valid = true → (s.cast i).broken = false → s.jobRuns job = true →
          exec (.castWrite r) s = .next (bound (s.modLinks (fun k => { k with castNext := k.castNext ++ [(i, c, some job)] }))))))

/-- A step boundary waits for every reel of the job, then applies its work and releases the next step. Unless every
enabled reel of the job has reached its STEP_END with nothing before it in flight, nothing changes. When the work of R35
is done the pending bind and writes are gone, and with no deferred test the STEP_ENDs have landed with SUCCESS. The pure
rules: the loss scale halves, doubles or stays by R199; an entry with ELEMS = 0 raises only EMPTY and any other the bits
of Table 7-6; the running maximum takes the step's AMAX and moves MSCALE only when some slot is not +0. Where the spec
is silent the clauses follow the model's choices of log entries 39, 54, 57.
(01 R34, 01 R35, 10 R273, 07 R195, 07 R199, 07 R201, 12 R342) -/
def Obligations.StepBoundaryReleasesTheNextStep : Prop :=
  ∀ (s : State) (j : Word),
    (s.boundaryDue j = false → exec (.stepBoundary j) s = .next s) ∧
    (∀ u, s.boundaryDue j = true → s.runBoundary j = .ok u →
      exec (.stepBoundary j) s = .next u ∧ (u.job j).bindNext = none ∧ (u.job j).writes = [] ∧ (u.job j).snapNext = false) ∧
    (s.boundaryDue j = true → (s.job j).table = 0 → (s.job j).bindNext = none → (s.job j).writes = [] → s.links.castNext = [] →
      s.pwr.planNext = none → (∀ d : Nat, d < 16 → (s.die d).fmaxNext = none ∧ (s.die d).cue.enNext = none ∧ (s.die d).floorFence = false) →
      (∀ k ∈ s.cores, (s.coreK k.1).deferred = false) → (s.job j).holdWith = none →
      ∃ t, exec (.stepBoundary j) s = .next t ∧ t.tracked = s.tracked.map (fun x => if x.isStepEnd j then x.landOne 0 else x) ∧
        t.hbm = s.hbm ∧ ∀ n ∈ s.jobReels j, (t.reel n).stepSeq = (s.reel n).nextSeq) ∧
    (∀ (skipped : Bool) (e mn mx : Int) (clean growth : Nat), clean + 1 < 2 ^ 32 → 0 < growth → mn ≤ e → e ≤ mx →
      let x := lossStep skipped e mn mx clean growth
      mn ≤ x.exp ∧ x.exp ≤ mx ∧
      (skipped = true → x.clean = 0 ∧ x.doubled = false ∧
        (mn < e → x.exp = e - 1 ∧ x.halved = true ∧ x.floor = false) ∧ (e = mn → x.exp = e ∧ x.halved = false ∧ x.floor = true)) ∧
      (skipped = false → x.halved = false ∧ x.floor = false ∧
        (clean + 1 = growth → x.clean = 0 ∧ x.doubled = decide (e < mx) ∧ x.exp = if e < mx then e + 1 else e) ∧
        (clean + 1 ≠ growth → x.clean = clean + 1 ∧ x.doubled = false ∧ x.exp = e))) ∧
    (∀ e rec : List Byte, (leAt rec 8 8 = 0 → causesOf e rec = 0x80) ∧
      (leAt rec 8 8 ≠ 0 →
        bit (causesOf e rec) 0 = (decide (eClipT e ≠ 0) && decide (leAt rec 8 8 < leAt rec 16 4 * 2 ^ eClipT e)) ∧
        bit (causesOf e rec) 1 = bit (leAt rec 4 4) 0 ∧ bit (causesOf e rec) 2 = bit (leAt rec 4 4) 1 ∧
        bit (causesOf e rec) 3 = (decide (leAt rec 20 4 ≠ 0) || decide (leAt rec 24 4 ≠ 0)) ∧
        bit (causesOf e rec) 4 = bit (leAt rec 4 4) 2 ∧ bit (causesOf e rec) 5 = bit (leAt rec 4 4) 3 ∧ causesOf e rec < 64)) ∧
    (∀ (e rec : List Byte) (step : Nat), e.length = 128 → rec.length = 32 → 1 ≤ eHist e → eHist e ≤ 16 →
      let m := runningMax e (some rec) step
      bytesAt m (64 + 4 * (step % eHist e)) 4 = bytesAt rec 0 4 ∧
      ((∀ i : Nat, i < eHist e → leAt m (64 + 4 * i) 4 = 0) → eMscale m = eMscale e) ∧
      ∀ i : Nat, i < 128 → (i < 16 ∨ 20 ≤ i) → (i < 64 + 4 * (step % eHist e) ∨ 68 + 4 * (step % eHist e) ≤ i) → m.getD i 0 = e.getD i 0)

/-- Checkpoints are staged, captured, streamed block by block and closed by their manifest; a restore starts by reading
one. While a checkpoint is in progress another ends with 0x0230; an unknown target ends with 0x0231; a validated prepare
is staged with 0x0002 (at most 16, then 0x010C); a commit without its prepare is rejected with 0x010B and one with it
arms the capture. A write to a pending block copies it to the shadow area and clears its pending bit; a served block of
the tenant with a good slate is sent to its place and no longer pending; each completion answers its own command: with
the last write of a checkpoint all of whose blocks are sent the Flush goes out, after the Flush the manifest goes to L0,
and its completion lands the shot with SUCCESS; a failed command lands it with 0x0231, and a completion of no command in
flight changes nothing. A restore commit connects, unbinds the table and reads L0. Where the spec is silent the clauses follow the model's choices of log entries 26, 40, 56.
(07 R208, 07 R209, 07 R210, 07 R211, 07 R212, 07 R213, 10 R278, 13 R375) -/
def Obligations.CheckpointsStreamAndRestore : Prop :=
  ∀ (s : State) (r : ShotRef) (x : Tracked),
    let b := x.shot.body
    let staged := (s.reel r.reel.val).staged
    (ShotRuns s r 0x403 x → s.ckpt ≠ none → exec (.checkpoint r) s = .next (s.landed r 0x0230)) ∧
    (ShotRuns s r 0x403 x → s.ckpt = none → leAt b 4 1 = 0 → s.targetOk (leAt b 12 4) = false →
      exec (.checkpoint r) s = .next (s.landed r 0x0231)) ∧
    (∀ l, ShotRuns s r 0x403 x → s.ckpt = none → leAt b 4 1 = 0 → s.targetOk (leAt b 12 4) = true →
      s.read x.req .any (leAt b 16 5) (16 * leAt b 6 2) = .ok l → s.mapped (leAt b 24 5) = true →
      s.regionsBad ((List.range (leAt b 6 2)).map (regionEntry l)) = none →
      (staged.length < 16 → ∃ p t, p.shot = x.shot ∧ exec (.checkpoint r) s = .next (t.landed r 2) ∧
        t = s.modReel r.reel.val (fun y => { y with staged := y.staged ++ [p] })) ∧
      (16 ≤ staged.length → exec (.checkpoint r) s = .next (s.modTracked r (fun t => t.reject 0x010C)))) ∧
    (ShotRuns s r 0x403 x → s.ckpt = none → leAt b 4 1 = 1 → s.prepared r x 8 = none →
      exec (.checkpoint r) s = .next (s.modTracked r (fun t => t.reject 0x010B))) ∧
    (∀ p, ShotRuns s r 0x403 x → s.ckpt = none → leAt b 4 1 = 1 → s.prepared r x 8 = some p →
      s.targetOk (leAt p.shot.body 12 4) = true →
      ∃ t k, exec (.checkpoint r) s = .next t ∧ t.ckpt = some k ∧ k.captured = false ∧ k.regions = p.regions ∧
        k.job.toNat = leAt p.shot.body 0 4 ∧ k.ref = r ∧ p ∉ (t.reel r.reel.val).staged ∧ t.glb.lastDone = s.glb.lastDone.set r.reel.val (some r.seq)) ∧
    (∀ k blk sh, s.ckpt = some k → blk ∈ k.pend → s.hubServes blk = true → k.freeShadow = some sh →
      ∃ t k', exec (.checkpointShadowCopy blk) s = .next t ∧ t.ckpt = some k' ∧ blk ∉ k'.pend ∧
        k'.copies = k.copies ++ [(blk, sh, s.slate blk)] ∧ t.block sh = s.block blk) ∧
    (∀ k blk, s.ckpt = some k → blk ∉ k.pend → exec (.checkpointShadowCopy blk) s = .next s) ∧
    (∀ k blk, s.ckpt = some k → s.clocks = true → s.ebtor = true → (∀ c ∈ k.copies, c.1 ≠ blk) → blk ∈ k.pend →
      s.mapped (blk * 4096) = true → s.hubServes blk = true → s.ownerOf (blk * 4096) = (s.job k.job).tenant →
      s.poisoned blk = false → s.unlisted blk = false → slateStatus (s.slate blk) (s.slateOk blk (s.block blk)) .any = none →
      s.glb.flogWait = [] →
      ∃ t k', exec (.checkpointBlockSend blk) s = .next t ∧ t.ckpt = some k' ∧ blk ∉ k'.pend ∧ t.hbm = s.hbm ∧
        ∀ n : Nat, n < k.blocks.length → k.blocks.getD n 0 = blk →
          OutMsg.nvmeWrite k.target (s.targetL0 k.target + 1 + k.tableBlocks + k.slateBlocks + n) (s.block blk) ∈ t.out) ∧
    (∀ k, s.ckpt = some k → k.flushed = true → k.manifestSent = false → s.clocks = true → s.ebtor = true →
      ∃ t, exec .checkpointManifestWrite s = .next t ∧ t.out = OutMsg.nvmeWrite k.target (s.targetL0 k.target) k.manifest :: s.out ∧
        t.ckpt = some { k with manifestSent := true }) ∧
    (∀ k (d : NvmeRsp), s.ckpt = some k → s.ebtor = true → d.ref = k.ref → s.glb.flogWait = [] →
      (d.cmd = .write (s.targetL0 k.target) → k.manifestSent = true →
        exec (.nvmeCompletion true d) s = .next ({ s with ckpt := none }.landed k.ref 0)) ∧
      (d.cmd = .flush → k.flushSent = true → k.flushed = false →
        exec (.nvmeCompletion true d) s = .next { s with ckpt := some { k with flushed := true } }) ∧
      (∀ lba, d.cmd = .write lba → lba ∈ k.unacked → k.manifestSent = false → k.allSent = true → k.flushSent = false →
        ∃ t k', exec (.nvmeCompletion true d) s = .next t ∧ t.ckpt = some k' ∧ k'.unacked = k.unacked.filter (· ≠ lba) ∧
          ((∀ y ∈ k.unacked, y = lba) → t.out = OutMsg.nvmeFlush k.target :: s.out ∧ k'.flushSent = true) ∧
          ((∃ y ∈ k.unacked, y ≠ lba) → t.out = s.out ∧ k'.flushSent = false)) ∧
      ((∀ lba, d.cmd ≠ .read lba) → s.ckptOwes k d.cmd = true →
        exec (.nvmeCompletion false d) s = .next ({ s with ckpt := none }.landed k.ref 0x0231)) ∧
      ((∀ lba, d.cmd ≠ .read lba) → s.ckptOwes k d.cmd = false → ∀ ok, exec (.nvmeCompletion ok d) s = .next s)) ∧
    (∀ p, ShotRuns s r 0x404 x → s.restore = none → leAt b 4 1 = 1 → s.prepared r x 8 = some p →
      s.targetOk (leAt p.shot.body 12 4) = true →
      let j : Word := BitVec.ofNat 32 (leAt b 0 4)
      ∃ t k, exec (.restore r) s = .next t ∧ t.restore = some k ∧ k.job = j ∧ k.ref = r ∧ (t.job j).table = 0 ∧
        t.out = OutMsg.nvmeRead (leAt p.shot.body 12 4) (s.targetL0 (leAt p.shot.body 12 4)) :: (s.connect (leAt p.shot.body 12 4)).out) ∧
    (ShotRuns s r 0x404 x → leAt b 4 1 = 0 → s.targetOk (leAt b 12 4) = true → staged.length < 16 →
      exec (.restore r) s = .next ((s.modReel r.reel.val (fun y => { y with staged := y.staged ++ [{ shot := x.shot }] })).landed r 2)) ∧
    (∀ k (d : NvmeRsp) i, s.ebtor = true → s.restore = some k → d.ref = k.ref → d.cmd = .read (s.targetL0 k.target + i) → i ∈ k.out →
      (k.manifest = [] → manifestOk (bytesAt d.data 0 4096) s.glb.contKey = false →
        exec (.nvmeCompletion true d) s = .next ({ s with restore := none }.landed k.ref 0x030B)) ∧
      exec (.nvmeCompletion false d) s = .next ({ s with restore := none }.landed k.ref 0x0231))

/-- MATMUL, CONV and SCATTER land with the parts of their output tiles, or are rejected by their descriptors' checks.
Each waits while its batch waits for a grant. With descriptors that read and pass their checks, and accesses that are
all answered, the shot lands with NPARTS = the output tiles, at most 64 and at least 1; descriptors that break a check
reject it with the check's status, FAILMASK 0, and nothing else changes; a descriptor that cannot be read fails the shot
with that access. Where the spec is silent the clauses follow the model's choices of log entries 25, 28, 30, 31.
(04 R102, 04 R119, 05 R146, 09 R239, 09 R240, 10 R265, 10 R266, 10 R267, 16 R449) -/
def Obligations.ProductShotsLandInTheirParts : Prop :=
  ∀ (s : State) (r : ShotRef) (x : Tracked),
    let b := x.shot.body
    let fetch (i n : Nat) : Except Stop (List Byte) := s.read x.req .any (leAt b i 5) n
    let prod (k : PKind) (i : Nat) (d : List Byte) := Prod.read k true (PMode.ofByte (leAt d 307 1)) (x.refs i) x.eval d
    let job (p : Prod) (cv : Option ConvD) (cp : Option Prod) (sc : Bool) := prodJob p cv cp sc x.mode.toNat x.shot.seq.toNat
    let rd := s.reader x.tenant stRange
    let taint (j : ProdJob) := s.quantTaint j.job.p.a j.job.p.m j.job.p.k ++ s.quantTaint j.job.p.b j.job.p.n j.job.p.k
    let sl (j : ProdJob) := s.operandSlots j.job.p.a j.job.p.m j.job.p.k ++ s.operandSlots j.job.p.b j.job.p.n j.job.p.k
    let lands (u : State) (j : ProdJob) (fs : List (Option (Half × Nat))) := ∃ y, u.trackedOf r = some y ∧ y.phase = .landed ∧
      y.nparts = max 1 (min 64 j.tiles.length) ∧ y.failmask = failMask fs ∧ y.taint = taint j ∧ y.shot = x.shot
    let done (j : ProdJob) (ps : List PartOut) (v : State) (fs : List (Option (Half × Nat))) :=
      j.parts rd (partsOf j.tiles.length) = some ps ∧ (s.touch (s.batchDies x.shot) (sl j)).runParts x.req (taint j) r.reel.val r.seq
        (x.withLost ps) = some (v, fs)
    (∀ d j ps v fs, ShotRuns s r 0x010 x → s.canWork r = true → leAt b 8 5 = 0 → fetch 0 384 = .ok d →
      ((prod .mm 0 d).bind (fun p => job p none none false)) = .ok j → done j ps v fs →
      ∃ t, exec (.matmul r) s = .next t ∧ lands t j fs ∧ t.reels = v.reels ∧ t.hbm = v.hbm) ∧
    (∀ d c j ps v fs, ShotRuns s r 0x010 x → s.canWork r = true → leAt b 8 5 ≠ 0 → fetch 0 384 = .ok d → fetch 8 384 = .ok c →
      ((prod .mm 0 d).bind (fun p => (prod .comp 4 c).bind (fun q => job p none (some q) false))) = .ok j → done j ps v fs →
      ∃ t, exec (.matmul r) s = .next t ∧ lands t j fs ∧ t.hbm = v.hbm) ∧
    (∀ d c j ps v fs, ShotRuns s r 0x011 x → s.canWork r = true → fetch 0 384 = .ok d → fetch 8 64 = .ok c →
      ((prod .conv 0 d).bind (fun p => (ConvD.parse c).bind (fun q => job p (some q) none false))) = .ok j → done j ps v fs →
      ∃ t, exec (.conv r) s = .next t ∧ lands t j fs ∧ t.hbm = v.hbm) ∧
    (∀ d j ps v fs, ShotRuns s r 0x012 x → s.canWork r = true → fetch 0 384 = .ok d →
      ((prod .scat 0 d).bind (fun p => job p none none true)) = .ok j → done j ps v fs →
      ∃ t, exec (.scatter r) s = .next t ∧ lands t j fs ∧ t.hbm = v.hbm) ∧
    (∀ d st, ShotRuns s r 0x012 x → s.canWork r = true → fetch 0 384 = .ok d → prod .scat 0 d = .error st →
      exec (.scatter r) s = .next (s.modTracked r (fun t => t.reject st))) ∧
    (∀ d st, ShotRuns s r 0x010 x → s.canWork r = true → leAt b 8 5 = 0 → fetch 0 384 = .ok d → prod .mm 0 d = .error st →
      exec (.matmul r) s = .next (s.modTracked r (fun t => t.reject st))) ∧
    (∀ st a, ShotRuns s r 0x012 x → s.canWork r = true → fetch 0 384 = .error (.fail st a) →
      exec (.scatter r) s = .next ((s.slateFault st a r.reel.val r.seq).landed r st)) ∧
    (s.canWork r = false → exec (.matmul r) s = .next s ∧ exec (.conv r) s = .next s ∧ exec (.scatter r) s = .next s)

/-- CONVERT and ROUTE land in their parts; a ROUTE keeps the k largest logits and at most C tokens an expert. CONVERT
lands with NPARTS = D0's 4 KiB blocks and ROUTE with its token groups, each at most 64; a ROUTE of no tokens lands at
once; a base-note list out of order ends a CONVERT. The pure rules of routing: the selected experts are the k largest
logits, ties to the lower index, largest first; the kept list of an expert holds at most C tokens in ascending order,
all assigned to it; a list's free slots hold 0xFFFF_FFFF with gate +0. Where the spec is silent the clauses follow the
model's choices of log entries 26, 27, 38.
(02 R60, 05 R140, 05 R142, 05 R143, 05 R144, 06 R192, 10 R266, 10 R267, 10 R269) -/
def Obligations.ConversionsAndRoutingLand : Prop :=
  ∀ (s : State) (r : ShotRef) (x : Tracked),
    let b := x.shot.body
    let d := RouteD.parse b
    let rd := s.reader x.tenant stRange
    (∀ src dst j lb lc toks list0 list1 ps v fs, ShotRuns s r 0x013 x → s.canWork r = true →
      s.read x.req .any (leAt b 0 5) 48 = .ok src → s.read x.req .any (leAt b 8 5) 128 = .ok dst → convertJob x src dst = .ok j →
      let bn := match j.d1 with | some e => (e.bnAddr, e.bnCnt) | none => (0, 0)
      s.read x.req .any j.d0.bnAddr (4 * j.d0.bnCnt) = .ok lb → s.read x.req .any bn.1 (4 * bn.2) = .ok lc →
      j.src.tokens rd j.rows = .ok toks →
      (bnList lb j.d0.bnCnt j.cols = none ∨ bnList lc bn.2 j.cols = none → exec (.convert r) s = .next (s.landed r stBnList)) ∧
      (bnList lb j.d0.bnCnt j.cols = some list0 → bnList lc bn.2 j.cols = some list1 → j.parts rd toks list0 list1 = some ps →
        (s.touch (s.batchDies x.shot) (s.operandSlots j.src j.rows j.cols)).runParts x.req (s.operandSlots j.src j.rows j.cols) r.reel.val
          r.seq (x.withLost ps) = some (v, fs) →
        ∃ t y, exec (.convert r) s = .next t ∧ t.hbm = v.hbm ∧ t.trackedOf r = some y ∧ y.phase = .landed ∧
          y.nparts = max 1 (min 64 j.units) ∧ y.failmask = failMask fs)) ∧
    (∀ src dst st, ShotRuns s r 0x013 x → s.canWork r = true →
      s.read x.req .any (leAt b 0 5) 48 = .ok src → s.read x.req .any (leAt b 8 5) 128 = .ok dst → convertJob x src dst = .error st →
      exec (.convert r) s = .next (s.modTracked r (fun t => t.reject st))) ∧
    (ShotRuns s r 0x014 x → s.canWork r = true → d.tokens = 0 → exec (.route r) s = .next (s.landed r 0)) ∧
    (∀ u fs, ShotRuns s r 0x014 x → s.canWork r = true → 0 < d.tokens →
      let np := partsOf (d.tokens / d.gtok)
      State.routeParts x d (d.tokens / d.gtok) np (List.range np) s = some (u, fs) →
      ∃ t y, exec (.route r) s = .next t ∧ t.trackedOf r = some y ∧ y.phase = .landed ∧
        y.nparts = max 1 (min 64 (d.tokens / d.gtok)) ∧ y.failmask = failMask fs) ∧
    (∀ (k : Nat) (row : List Word), k ≤ row.length → (∀ w ∈ row, (f32Num w).isNan = false) →
      let sel := topK k row
      sel.length = k ∧ (sel.map (·.1)).Nodup ∧ (∀ p ∈ sel, row[p.1]? = some p.2) ∧ sel.Pairwise (fun p q => logitAbove p q = true) ∧
      ∀ (i : Nat) (w : Word), row[i]? = some w → i ∉ sel.map (·.1) → ∀ p ∈ sel, logitAbove p (i, w) = true) ∧
    (∀ (e : RouteD) (xs : List (Nat × Word)), xs.Pairwise (fun p q => p.1 < q.1) →
      let m := (e.keep xs).1
      let o := (e.keep xs).2
      m.length = min e.c xs.length ∧ m.Pairwise (fun p q => p.1 < q.1) ∧ (∀ p ∈ m, p ∈ xs) ∧
      (e.drop ≠ 1 → m = xs.take e.c) ∧ (e.drop < 2 → o = []) ∧ (2 ≤ e.drop → o = (xs.drop e.c).take e.ovf) ∧
      (e.drop = 1 → ∀ p ∈ xs, p ∉ m → ∀ q ∈ m, gateAbove q p = true)) ∧
    (∀ (n : Nat) (xs : List (Nat × Word)), xs.length ≤ n → (∀ p ∈ xs, p.1 < 2 ^ 32) →
      (slotBytes n xs).1.length = 4 * n ∧ (slotBytes n xs).2.length = 4 * n ∧
      ∀ i : Nat, i < n →
        leAt (slotBytes n xs).1 (4 * i) 4 = (match xs[i]? with | some p => p.1 | none => 0xFFFFFFFF) ∧
        leAt (slotBytes n xs).2 (4 * i) 4 = (match xs[i]? with | some p => p.2.toNat | none => 0))

/-- A collective shot waits for its entry, fails on a bad one, or opens: its serial is taken and OPEN goes to the
successor. For each of the five opcodes: an entry with an open collective makes the shot wait; a BROKEN entry ends it
with 0x0404, one that is not VALID with 0x0403; a root outside the list, or a feed at another position than 0, rejects
it. Else, with no early packet, it waits on memory, has ended, or is open and running with the entry's serial one
higher. With its members reachable it completes its opening: the shot runs, the entry's serial is one higher, memory is
as it was, and the collective stands open and unconfirmed at its position, OPEN sent from position 0 and by every member
of a token exchange. That holds of each opcode with no transport block, under MODE 1, and behind position 0; at position
0 of a BROADCAST whose source blocks are read, each then staged and queued once; at position 0 of a REDUCE or ALLREDUCE
whose ledgers are read, the exponent pass sent; and of a TOKEN_EXCHANGE whose lengths and slices are read. With one
member and no block it lands with SUCCESS. Chain positions invert: rankAt of posOf is the rank. Where the spec is silent
the clauses follow the model's choices of log entry 41. (13 R376, 13 R380, 13 R382, 13 R383, 13 R384, 13 R390, 13 R392, 13 R395) -/
def Obligations.CollectivesOpenAtTheirMembers : Prop :=
  ∀ (s : State) (r : ShotRef) (x : Tracked),
    let b := x.shot.body
    let i := leAt b 0 2
    let c := s.cast i
    let feed := bit (leAt b 2 1) 1
    let opens (op : Nat) (o : Instr) : Prop := ShotRuns s r op x →
      ((∃ e ∈ s.links.open_, e.1 = i) → exec o s = .next s) ∧
      (x.phase = .dispatched → (∀ e ∈ s.links.open_, e.1 ≠ i) →
        (c.broken = true → exec o s = .next (s.landed r 0x0404)) ∧
        (c.broken = false → c.valid = false → exec o s = .next (s.landed r 0x0403)) ∧
        (c.broken = false → c.valid = true → c.members.length ≤ leAt b 8 2 →
          exec o s = .next (s.modTracked r (fun t => t.reject 0x0104))) ∧
        (c.broken = false → c.valid = true → leAt b 8 2 < c.members.length → c.myrank < c.members.length → feed = true → c.myrank ≠ leAt b 8 2 →
          exec o s = .next (s.modTracked r (fun t => t.reject 0x0104))) ∧
        (c.broken = false → c.valid = true → leAt b 8 2 < c.members.length → s.links.early = [] → s.links.castNext = [] →
          feed = false ∨ c.myrank = leAt b 8 2 →
          ∃ t, exec o s = .next t ∧
            (t = s ∨
             (∃ y, t.trackedOf r = some y ∧ y.phase = .landed ∧ t.openAt i = none) ∨
             (∃ y k, t.trackedOf r = some y ∧ y.phase = .running ∧ t.openAt i = some k ∧ k.ref = r ∧ k.cser = c.cser ∧ k.opcode = op ∧
                k.body = b ∧ k.g = c.members.length ∧ (feed = false → (t.cast i).cser = c.cser + 1)))))
    let coll (op : Nat) : Coll :=
      let k : Coll := { ref := r, body := b, opcode := op, tenant := x.tenant, eval := x.eval, dhash := collHash op b, cser := c.cser,
                        pos := 0, g := c.members.length }
      { k with pos := k.posOf c.myrank }
    let due (op : Nat) : Prop := ShotRuns s r op x ∧ x.phase = .dispatched ∧ (∀ e ∈ s.links.open_, e.1 ≠ i) ∧ c.broken = false ∧
      c.valid = true ∧ feed = false ∧ leAt b 8 2 < c.members.length ∧ c.myrank < c.members.length ∧ s.links.early = [] ∧
      s.links.castNext = [] ∧ s.peerLost i (coll op) = false
    let opened (op : Nat) (o : Instr) (more : Coll → Prop) : Prop :=
      let k := coll op
      ∃ t k', exec o s = .next t ∧ t.trackedOf r = some { x with phase := .running } ∧ t.openAt i = some k' ∧ k'.ref = r ∧
        k'.opcode = op ∧ k'.body = b ∧ k'.cser = c.cser ∧ k'.pos = k.pos ∧ k'.g = k.g ∧ k'.confirmed = false ∧
        k'.openSent = (k.isToken || decide (k.pos = 0)) ∧ k'.run = (if k.mode1 then [] else List.range k.chunks) ∧
        (t.cast i).cser = c.cser + 1 ∧ t.hbm = s.hbm ∧ more k' ∧
        (k.isToken = false → k.pos = 0 → s.burouPort (c.dev (k.rankAt 1)) ≠ none →
          OutMsg.packet (s.collPacket i k 1 0 1 0 0 0 []) ∈ t.out)
    let enters (op : Nat) (o : Instr) : Prop :=
      let k := coll op
      due op →
      (1 < k.g → k.total = 0 ∨ (k.isToken = false ∧ (k.mode1 = true ∨ 0 < k.pos)) → opened op o (fun k' => k'.outq = [] ∧ k'.staged = [])) ∧
      (k.g = 1 → k.total = 0 → ∃ t y, exec o s = .next t ∧ t.trackedOf r = some y ∧ y.phase = .landed ∧ y.status = 0 ∧
        y.failmask = 0 ∧ (t.cast i).cser = c.cser + 1 ∧ t.openAt i = none ∧ t.hbm = s.hbm)
    let sums (op : Nat) (o : Instr) : Prop :=
      let k := coll op
      due op → 1 < k.g → k.pos = 0 → k.mode1 = false → (∀ n : Nat, n < k.total → ∃ ls, s.ownLedgers k n = .ok ls) →
        opened op o (fun k' => k'.expOut = List.range k.chunks ∧ k'.outq = [])
    (enters 0x200 (.broadcast r) ∧ enters 0x201 (.reduce r) ∧ enters 0x202 (.allreduce r) ∧ enters 0x203 (.tokenExchange r) ∧
      enters 0x204 (.barrier r)) ∧
    (due 0x200 → 1 < (coll 0x200).g → (coll 0x200).pos = 0 → (coll 0x200).mode1 = false →
      (∀ n : Nat, n < (coll 0x200).total →
        ∃ d, s.read (coll 0x200).req .any ((coll 0x200).src + 4096 * n) (min 4096 ((coll 0x200).count - 4096 * n)) = .ok d) →
      opened 0x200 (.broadcast r) (fun k' => k'.staged.map (·.2.1) = List.range (coll 0x200).total ∧
        k'.outq.map (·.blk) = List.range (coll 0x200).total)) ∧
    (sums 0x201 (.reduce r) ∧ sums 0x202 (.allreduce r)) ∧
    (∀ ls, due 0x203 → 1 < (coll 0x203).g → s.sendLengths (coll 0x203) = .ok ls →
      ((coll 0x203).mode1 = true ∨ ∀ j n : Nat, j < (coll 0x203).g → n < (coll 0x203).total → 4096 * n < ls.getD j 0 →
        ∃ d, s.read (coll 0x203).req .any ((coll 0x203).src + j * (coll 0x203).count + 4096 * n) (min 4096 (ls.getD j 0 - 4096 * n)) = .ok d) →
      opened 0x203 (.tokenExchange r) (fun k' => k'.sendLen = ls)) ∧
    (opens 0x200 (.broadcast r) ∧ opens 0x201 (.reduce r) ∧ opens 0x202 (.allreduce r) ∧ opens 0x203 (.tokenExchange r) ∧
      opens 0x204 (.barrier r)) ∧
    (∀ (k : Coll) (rank : Nat), rank < k.g → k.root < k.g → k.posOf rank < k.g ∧ k.rankAt (k.posOf rank) = rank ∧ k.posOf k.root = 0 ∧
      k.posOf rank = (rank + k.g - k.root) % k.g)

/-- Packets of an open collective grant credits, confirm, stage blocks and acknowledge them; a mismatch, bad slate or
timeout aborts. With every member reachable: an OPEN from the predecessor is noted, and ends a BARRIER at its last
member; OPEN_ACK adds chunk credits; CONFIRM confirms, and ends a BARRIER at position 0; EXP and SUM of a chunk not run
here wait for it; DATA of a BROADCAST is staged once; BACK clears its block; ABORT ends the shot with its cause. A DHASH
that differs ends it with 0x0401, a bad slate with the slate's status, an unacknowledged block with 0x0402 (the entry
BROKEN), no confirm within TIMEOUT with 0x0405. A chunk commits only when ready and confirmed. Where the spec is silent
the clauses follow the model's choices of log entry 41.
(13 R381, 13 R384, 13 R385, 13 R386, 13 R387, 13 R388, 13 R391, 13 R392, 13 R393, 12 R316) -/
def Obligations.CollectivePacketsCarryThePasses : Prop :=
  ∀ (s : State) (p : Packet) (i : Nat) (k : Coll) (q : Nat),
    let b := p.chunk.toNat * 2 ^ k.csz + p.blk.toNat
    let u := s.modLinks (fun l => { l with inbox := l.inbox.erase p })
    (CollPacket s p 1 i k q → p.dhash = k.dhash → k.openSent = true → k.confirmed = true → k.outq = [] → k.finished = false →
      ∃ t k', exec (.openPkt p) s = .next t ∧ t.openAt i = some k' ∧ k'.opened = k.opened ++ [q] ∧ k'.credits = k.credits) ∧
    (CollPacket s p 1 i k q → p.dhash = k.dhash → k.opcode = 0x204 → k.openSent = false → k.confirmed = false → k.outq = [] → k.unacked = [] →
      k.opened = [] → 0 < k.pos → k.pos + 1 = k.g → q + 1 = k.pos → ∃ t, exec (.openPkt p) s = .next t ∧ t.collEnded i k 0) ∧
    (CollPacket s p 2 i k q → p.dhash = k.dhash → k.outq = [] → k.finished = false → (∀ c ∈ k.credits, c.1 ≠ q) →
      exec (.openAck p) s = .next (u.putColl i { k with credits := k.credits ++ [(q, p.arg.toNat % 256)] })) ∧
    (CollPacket s p 3 i k q → p.dhash = k.dhash → k.pos = 0 → k.outq = [] → k.unacked ≠ [] →
      exec (.confirm p) s = .next (u.putColl i { k with confirmed := true })) ∧
    (CollPacket s p 3 i k q → p.dhash = k.dhash → k.pos = 0 → k.opcode = 0x204 → k.openSent = true → k.outq = [] → k.unacked = [] →
      ∃ t, exec (.confirm p) s = .next t ∧ t.collEnded i k 0) ∧
    (CollPacket s p 4 i k q → p.dhash = k.dhash → p.chunk.toNat ∉ k.run → k.outq = [] → k.finished = false →
      exec (.exp p) s = .next (u.putColl i { k with expIn := k.expIn ++ [(p.chunk.toNat, expOf p.payload)] })) ∧
    (CollPacket s p 5 i k q → p.dhash = k.dhash → checkTransport p.payload acceptSums = none → k.chunkOf b ∉ k.run → k.outq = [] →
      k.unacked ≠ [] → ∃ t k', exec (.sum p) s = .next t ∧ t.openAt i = some k' ∧
        k'.sums = k.sums ++ [(b, p.payload, p.pflags.getLsbD 1, p.pflags.getLsbD 2)] ∧ t.hbm = s.hbm) ∧
    (∀ st, CollPacket s p 5 i k q → p.dhash = k.dhash → checkTransport p.payload acceptSums = some st →
      ∃ t, exec (.sum p) s = .next t ∧ t.collEnded i k st) ∧
    (CollPacket s p 6 i k q → p.dhash = k.dhash → k.opcode = 0x200 → checkTransport p.payload .any = none → k.outq = [] → k.unacked ≠ [] →
      k.pos + 1 = k.g → p.chunk.toNat ∉ k.done → (∀ y ∈ k.staged, y.2.1 ≠ b) →
      ∃ t k', exec (.data p) s = .next t ∧ t.openAt i = some k' ∧
        k'.staged = k.staged ++ [(0, b, p.payload, p.pflags.getLsbD 1, p.pflags.getLsbD 2)] ∧ t.hbm = s.hbm) ∧
    (∀ st, CollPacket s p 6 i k q → p.dhash = k.dhash → k.opcode = 0x200 → checkTransport p.payload .any = some st →
      ∃ t, exec (.data p) s = .next t ∧ t.collEnded i k st) ∧
    (CollPacket s p 7 i k q → p.dhash = k.dhash → k.isReduce = false → k.outq = [] → k.confirmed = false →
      ∃ t k', exec (.back p) s = .next t ∧ t.openAt i = some k' ∧ k'.unacked = k.unacked.filter (· ≠ (q, b)) ∧ k'.staged = k.staged) ∧
    (CollPacket s p 8 i k q → p.arg.toNat < 2 ^ 16 →
      ∃ t, exec (.abort p) s = .next t ∧ t.collEnded i k (BitVec.ofNat 16 p.arg.toNat) ∧ ((t.cast i).broken = true ↔
        p.arg.toNat = 0x0402 ∨ (s.cast i).broken = true)) ∧
    (CollPacket s p 6 i k q → p.dhash ≠ k.dhash → ∃ t, exec (.data p) s = .next t ∧ t.collEnded i k 0x0401) ∧
    (∀ (e : Fin 4096) (x : Tracked), s.openAt e.val = some k → s.ebtor = true → s.clocks = true → s.trackedOf k.ref = some x → k.cchk = [] →
      s.links.castNext = [] →
      (∀ blk dst, (dst, blk) ∈ k.unacked →
        ∃ t, exec (.blockAckTimeout e blk dst) s = .next t ∧ t.collEnded e.val k 0x0402 ∧ (t.cast e.val).broken = true) ∧
      ((s.cast e.val).timeout ≠ 0 → k.confirmed = false →
        ∃ t, exec (.collectiveTimeout e) s = .next t ∧ t.collEnded e.val k 0x0405) ∧
      ((s.cast e.val).timeout = 0 → exec (.collectiveTimeout e) s = .next s) ∧
      (∀ chunk, k.confirmed = false ∨ k.chunkReady chunk = false → exec (.chunkCommit e chunk) s = .next s) ∧
      (∀ chunk v w, k.opcode = 0x200 → k.feed = false → k.mode1 = false → 0 < k.pos → k.confirmed = true → k.chunkReady chunk = true →
        chunk ∈ k.run → chunk ∉ k.done → chunk < k.chunks → k.outq = [] →
        s.commitData k (k.staged.filter (fun x => k.chunkOf x.2.1 == chunk)) = .ok (v, w) → (∀ r : Nat, v.reachable ((v.cast e.val).dev r) = true) →
        ∃ t, exec (.chunkCommit e chunk) s = .next t ∧ t.hbm = v.hbm ∧ ∀ k', t.openAt e.val = some k' → chunk ∈ k'.done))

/-- Register writes: RW fields take the value, reserved bits and values are counted, RO registers stay, a bad access is
aborted. A BAR0 access of a wrong size or place only logs a completer abort; an undefined offset counts in
GLB_RSV_WRITES and changes nothing else; with EN = 0 a write of REEL_JOB or NEXTSEQ reads back; PWR_BUDGET and
TST_DAILY_CFG take a legal value and count an illegal one. GLB_DEVICE_ID locks; GLB_MEM_CFG is ignored while a reel is
enabled or BUSY = 1, and else sets P and BUSY and makes every slate UNWRITTEN until the reinit is complete. CLEAR zeroes
the counters of R125. EDG_TABLES = 0 unconfigures Ethernet. A PWR_PLAN is taken for its job's boundary, or rejected, or
waits for its hub or a control die. A poisoned write or doorbell is dropped and logged. Where the spec is silent the clauses follow
the model's choices of log entry 42.
(00 R10, 00 R11, 00 R12, 10 R273, 11 R289, 11 R292, 13 R374, 16 R454, 16 R463, 18 R487, 18 R488, 19 R508) -/
def Obligations.RegisterWritesFollowTheirTables : Prop :=
  ∀ (s : State),
    (∀ a : BarAccess, a.poison = true → exec (.registerWrite a) s = .next (s.emit (.aerPoisoned a.port)) ∧
      exec (.doorbell a) s = .next (s.emit (.aerPoisoned a.port))) ∧
    (∀ a : BarAccess, a.poison = false → (a.size ≠ 4 ∧ a.size ≠ 8) ∨ a.off % a.size ≠ 0 ∨ 0x4000000 < a.off + a.size →
      exec (.registerWrite a) s = .next (s.emit (.aerCompleterAbort a.port a.off))) ∧
    (∀ a : BarAccess, a.poison = false → a.size = 4 → a.off % 4 = 0 → a.off < 0x4000000 → regAt a.off = none →
      exec (.registerWrite a) s = .next (s.modGlb (fun g => { g with rsvWrites := satInc g.rsvWrites }))) ∧
    (∀ (a : BarAccess) (n : Fin 1024), a.poison = false → a.size = 4 → (s.reel n.val).en = false →
      (a.off = 0x100000 + 0x40 * n.val + 0x0C →
        ∃ t, exec (.registerWrite a) s = .next t ∧ t.barRead a.off 4 = some (BitVec.ofNat 64 (a.val.toNat % 2 ^ 32)) ∧
          t = s.modReel n.val (fun r => { r with job := a.val.setWidth 32 })) ∧
      (a.off = 0x100000 + 0x40 * n.val + 0x20 →
        ∃ t, exec (.registerWrite a) s = .next t ∧ t.barRead a.off 4 = some (BitVec.ofNat 64 (a.val.toNat % 2 ^ 32)) ∧
          t = s.modReel n.val (fun r => { r with nextSeq := a.val.setWidth 32 }))) ∧
    (∀ (a : BarAccess) (n : Fin 1024), a.poison = false → a.size = 4 → (s.reel n.val).en = true →
      (a.off = 0x100000 + 0x40 * n.val + 0x0C ∨ a.off = 0x100000 + 0x40 * n.val + 0x20 ∨ a.off = 0x100000 + 0x40 * n.val + 0x10) →
      exec (.registerWrite a) s = .next s) ∧
    (∀ a : BarAccess, a.poison = false → a.size = 4 → a.off = 0x3100000 →
      let cap := a.val.toNat % 2 ^ 16
      let thr := a.val.toNat / 2 ^ 16 % 2 ^ 16
      (500 ≤ cap → cap ≤ 3600 → 500 ≤ thr → thr ≤ cap → ∃ t, exec (.registerWrite a) s = .next t ∧
        t = s.modPwr (fun p => { p with thr := BitVec.ofNat 16 thr, cap := BitVec.ofNat 16 cap })) ∧
      (cap < 500 ∨ 3600 < cap ∨ thr < 500 ∨ cap < thr → exec (.registerWrite a) s = .next s.rsv)) ∧
    (∀ a : BarAccess, a.poison = false → a.size = 4 → a.off = 0x3200000 →
      let x : Word := a.val.setWidth 32
      ((x.toNat / 2 ^ 24 = 0 ∨ x.toNat / 2 ^ 16 % 2 ^ 8 = 0) → exec (.registerWrite a) s = .next s.rsv) ∧
      (x.toNat / 2 ^ 24 ≠ 0 → x.toNat / 2 ^ 16 % 2 ^ 8 ≠ 0 → x.toNat % 2 ^ 16 < 2 → ∃ t, exec (.registerWrite a) s = .next t ∧
        t.regVal .tstDaily = x.toNat ∧ t.reels = s.reels ∧ t.glb.rsvWrites = s.glb.rsvWrites)) ∧
    (∀ v : Word, v.toNat % 2 ^ 31 < 2 ^ 16 →
      (s.glb.idLock = true → exec (.glbDeviceIdWrite v) s = .next s) ∧
      (s.glb.idLock = false → exec (.glbDeviceIdWrite v) s = .next (s.modGlb (fun g => { g with devId := v.setWidth 16, idLock := v.getLsbD 31 })))) ∧
    (∀ v : Word, v.toNat % 2 ^ 31 < 2 ^ 9 →
      (256 < v.toNat % 512 → exec (.glbMemCfgWrite v) s = .next s.rsv) ∧
      (v.toNat % 512 ≤ 256 → s.anyReel = true ∨ s.glb.memBusy = true ∨ s.glb.pin64.toNat = v.toNat % 512 →
        exec (.glbMemCfgWrite v) s = .next s) ∧
      (v.toNat % 512 ≤ 256 → s.anyReel = false → s.glb.memBusy = false → s.glb.pin64.toNat ≠ v.toNat % 512 →
        ∃ t, exec (.glbMemCfgWrite v) s = .next t ∧ t.glb.pin64.toNat = v.toNat % 512 ∧ t.glb.memBusy = true ∧ t.hbm.mem = s.hbm.mem ∧
          ∀ b : Nat, t.slate b = {})) ∧
    (s.glb.flogWait = [] → s.links.edgAsk = false → s.pwr.planAsk = none →
      exec .slateReinitComplete s = .next (s.modGlb (fun g => { g with memBusy := false }))) ∧
    (∃ t, exec .slateReinitComplete s = .next t ∧ t.glb.memBusy = false ∧ t.reels = s.reels) ∧
    (∃ t, exec .clear s = .next t ∧ t.glb.rsvWrites = 0 ∧ t.glb.flogLost = 0 ∧ t.pwr.excursions = 0 ∧ t.pwr.planMiss = 0 ∧
      t.hbm = s.hbm ∧ t.reels = s.reels ∧ (∀ k i : Nat, (t.coreK k).counter i = 0) ∧ (∀ p i : Nat, (t.port p).counter i = 0) ∧
      ∀ h i : Nat, (t.hub h).counter i = if i = 3 then (s.hub h).counter 3 else 0) ∧
    (s.ebtor = true → ∃ t, exec (.edgTablesWrite 0) s = .next t ∧ t.links.edgBase = 0 ∧ t.links.peers = [] ∧ t.links.targets = [] ∧
      t.hbm = s.hbm ∧ ∀ q : Nat, q < 4 → (t.eth q).config = []) ∧
    (∀ v : Dword, s.ebtor = true → v.toNat < 2 ^ 40 →
      ∃ t, exec (.edgTablesWrite v) s = .next t ∧ t.links.edgBase.toNat = v.toNat ∧ t.hbm = s.hbm ∧ t.reels = s.reels ∧
        t.links.edgAsk = s.edgWaits (v.toNat / 4096 * 4096)) ∧
    (∀ v : Dword, s.ebtor = true → v.toNat < 2 ^ 40 →
      (v = 0 → exec (.pwrPlanWrite v) s = .next (s.modPwr (fun p => { p with planAddr := 0, planAsk := none, planNext := some none, planRej := false }))) ∧
      (∀ pl, v ≠ 0 → s.readPlan (v.toNat / 4096 * 4096) = .ok pl →
        exec (.pwrPlanWrite v) s = .next (s.modPwr (fun p => { p with planAddr := v.setWidth 40, planAsk := none, planNext := some (some pl), planRej := false }))) ∧
      (∀ st a, v ≠ 0 → s.readPlan (v.toNat / 4096 * 4096) = .error (.fail st a) →
        ∃ t, exec (.pwrPlanWrite v) s = .next t ∧ t.pwr.planRej = true ∧ t.pwr.planAsk = none ∧ t.pwr.planNext = s.pwr.planNext) ∧
      (v ≠ 0 → s.readPlan (v.toNat / 4096 * 4096) = .error .wait → ∃ t, exec (.pwrPlanWrite v) s = .next t ∧
        t = s.modPwr (fun p => { p with planAsk := some (v.setWidth 40) }) ∧ t.regVal .pwrPlan = v.toNat)) ∧
    (∀ v : Dword, s.ebtor = false →
      exec (.pwrPlanWrite v) s = .next ((s.rsvIf (decide (fld v.toNat 40 24 ≠ 0))).modPwr (fun p => { p with planAsk := some (v.setWidth 40) })))

/-- Control, parameter, queue and sync instructions: their effect on the core and on nothing else, and the next PC. When
due and free of reserved bits, with every earlier instruction complete: NOP only advances; PSET, PADD, PLOAD and PSTORE
write their register or word; LOOP decrements and branches while the result is not 0; BR branches by its condition; TPUT
and TWAIT change their count, or wait in the queue of their engine while issue goes on; FENCE advances and END ends the
part with SUCCESS; CCHK waits in its queue for a MODE 1 collective, runs its chunk, or ends the program with 0x0408 for
a chunk past the end or run before. A queued TPUT or TWAIT completes when its count allows; an instruction of a busy
engine queues behind it; FENCE and END wait while an instruction is not complete; a chunk that is over leaves the queue
and releases its token. An undefined opcode, a reserved bit and a branch out of the program are precise faults, which
wait for earlier instructions. A token wait over the limit ends the part with 0x0714. Where the spec is silent the
clauses follow the model's choices of log entries 44, 48, 49.
(09 R232, 09 R235, 09 R236, 09 R247, 09 R248, 09 R249, 09 R250, 09 R257, 13 R389) -/
def Obligations.ControlInstructionsExecute : Prop :=
  ∀ (s : State) (c : CoreId) (w : Dword) (v : Core),
    let nxt (o : Instr) (g : Core → Core) := exec o s = .next ((s.modCore c g).pcTo c (v.pc + 1))
    (CoreDue s c w 0x70 v → bitsOf w 55 0 = 0 → exec (.nopInstruction c w) s = .next (s.pcTo c (v.pc + 1))) ∧
    (CoreDue s c w 0x72 v → bitsOf w 51 50 < 3 → bitsOf w 49 32 = 0 →
      let d := bitsOf w 55 52
      let imm := bitsOf w 31 0
      (bitsOf w 51 50 = 0 → nxt (.pset c w) (·.setPar d (BitVec.ofNat 64 ((v.par d).toNat / 2 ^ 32 * 2 ^ 32 + imm)))) ∧
      (bitsOf w 51 50 = 1 → nxt (.pset c w) (·.setPar d ((BitVec.ofNat 32 imm).signExtend 64))) ∧
      (bitsOf w 51 50 = 2 → nxt (.pset c w) (·.setPar d (BitVec.ofNat 64 ((v.par d).toNat % 2 ^ 32 + imm * 2 ^ 32))))) ∧
    (CoreDue s c w 0x73 v → bitsOf w 47 32 = 0 →
      nxt (.padd c w) (·.setPar (bitsOf w 55 52) (v.par (bitsOf w 51 48) + (BitVec.ofNat 32 (bitsOf w 31 0)).signExtend 64))) ∧
    (∀ t, CoreDue s c w 0x74 v → bitsOf w 51 24 = 0 → bitsOf w 23 0 ≠ 0 → v.target w = some t →
      let x := v.par (bitsOf w 55 52) - 1
      exec (.loop c w) s = .next ((s.modCore c (·.setPar (bitsOf w 55 52) x)).pcTo c (if x = 0 then v.pc + 1 else t))) ∧
    (∀ t, CoreDue s c w 0x75 v → bitsOf w 49 24 = 0 → bitsOf w 23 0 ≠ 0 → v.target w = some t →
      let x := v.par (bitsOf w 55 52)
      let taken := match bitsOf w 51 50 with | 0 => x == 0 | 1 => x != 0 | 2 => x.msb | _ => !x.msb
      exec (.br c w) s = .next (s.pcTo c (if taken then t else v.pc + 1))) ∧
    (∀ t : Nat, v.target w = some t ↔ ((t : Int) = v.pc + signedOf w 23 0 ∧ t < v.prog.length)) ∧
    (CoreDue s c w 0x46 v → unitBad (bitsOf w 51 36) = false → bitsOf w 32 0 = 0 →
      nxt (.pload c w) (·.setPar (bitsOf w 55 52) (BitVec.ofNat 64 (leNat (v.pad (bitsOf w 51 36 * 64 + 8 * bitsOf w 35 33) 8))))) ∧
    (CoreDue s c w 0x47 v → unitBad (bitsOf w 51 36) = false → bitsOf w 32 0 = 0 →
      nxt (.pstore c w) (·.padPut (bitsOf w 51 36 * 64 + 8 * bitsOf w 35 33) (leBytes 8 (v.par (bitsOf w 55 52)).toNat))) ∧
    (CoreDue s c w 0x50 v → tokenBad w 11 = false →
      let q := bitsOf w 55 52
      let n := bitsOf w 51 44
      (v.count q + n ≤ 255 → nxt (.tput c w) (·.setCount q (v.count q + n))) ∧
      (255 < v.count q + n → exec (.tput c w) s = .next (s.queuedTo c w))) ∧
    (CoreDue s c w 0x51 v → tokenBad w 15 = false →
      let q := bitsOf w 55 52
      let n := bitsOf w 51 44
      (q < 12 → n ≤ v.count q → nxt (.twait c w) (·.setCount q (v.count q - n))) ∧
      (q < 12 → v.count q < n → exec (.twait c w) s = .next (s.queuedTo c w)) ∧
      (12 ≤ q → n ∈ v.tokens q → exec (.twait c w) s = .next (s.pcTo c (v.pc + 1))) ∧
      (12 ≤ q → n ∉ v.tokens q → exec (.twait c w) s = .next (s.queuedTo c w))) ∧
    (∀ e, CoreWaits s c e 0x50 v → e.iw = w → e.started = false → tokenBad w 11 = false → v.count (bitsOf w 55 52) + bitsOf w 51 44 ≤ 255 →
      exec (.tput c w) s = .next (s.doneOn c (·.setCount (bitsOf w 55 52) (v.count (bitsOf w 55 52) + bitsOf w 51 44)))) ∧
    (∀ e, CoreWaits s c e 0x51 v → e.iw = w → e.started = false → tokenBad w 15 = false → bitsOf w 55 52 < 12 →
      bitsOf w 51 44 ≤ v.count (bitsOf w 55 52) →
      exec (.twait c w) s = .next (s.doneOn c (·.setCount (bitsOf w 55 52) (v.count (bitsOf w 55 52) - bitsOf w 51 44)))) ∧
    (∀ e op, CoreWaits s c e op v → CoreAt s c w 0x50 v → tokenBad w 11 = false → engineOf e.iw = some (bitsOf w 43 41) → e.iw ≠ w →
      exec (.tput c w) s = .next (s.queuedTo c w)) ∧
    (CoreDue s c w 0x52 v → bitsOf w 55 0 = 0 → exec (.fence c w) s = .next (s.pcTo c (v.pc + 1))) ∧
    (∀ e op, CoreWaits s c e op v → bitsOf w 55 0 = 0 → (CoreAt s c w 0x52 v → exec (.fence c w) s = .next s) ∧
      (CoreAt s c w 0x71 v → exec (.endProgram c w) s = .next s)) ∧
    (∀ e, s.issues c = true → v.queue = [e] → s.chunkEnds e = true → v.faultWait = none → CoreAt s c w 0x70 v → bitsOf w 55 0 = 0 →
      nxt (.nopInstruction c w) (fun u => { u with
        queue := [], dq := tset u.dq (bitsOf e.iw 31 28) ((u.tokens (bitsOf e.iw 31 28)).filter (· ≠ bitsOf e.iw 43 32 % 256)) })) ∧
    (∀ r p x, CoreDue s c w 0x71 v → bitsOf w 55 0 = 0 → v.part = some (r, p) → v.partner = none → NoQueuedParts s →
      s.trackedOf r = some x → ∃ t, exec (.endProgram c w) s = .next t ∧ (t.core c).pstate = 0 ∧ (t.core c).part = none ∧
        t.trackedOf r = some (x.partDone p 0) ∧ t.hbm.mem = s.hbm.mem) ∧
    (CoreDue s c w 0x53 v → 12 ≤ bitsOf w 31 28 → bitsOf w 27 0 = 0 →
      let i := bitsOf w 55 44
      let n := bitsOf w 43 32
      (s.openAt i = none → exec (.cchk c w) s = .next (s.queuedTo c w)) ∧
      (∀ k, s.openAt i = some k → k.mode1 = false → exec (.cchk c w) s = .next (s.queuedTo c w)) ∧
      (∀ k, s.openAt i = some k → k.mode1 = true → k.chunks ≤ n ∨ n ∈ k.run →
        exec (.cchk c w) s = .next ((s.issued c.key).endPart c.key 0x0408 5)) ∧
      (∀ k x y, s.openAt i = some k → k.mode1 = true → n < k.chunks → n ∉ k.run →
        State.startChunk i (s, { k with cchk := k.cchk ++ [(n, c.key, bitsOf w 31 28)] }) n = .ok x → x.1.sendOut x.2 = .ok y →
        y.2.finished = false → y.2.feed = false → y.1.cores = s.cores →
        exec (.cchk c w) s = .next (((y.1.putColl i y.2).modCore c (fun u =>
          { u with queue := [{ u.issuing w with started := true }] })).pcTo c (v.pc + 1)))) ∧
    (∀ e op, CoreWaits s c e op v → v.pc < v.prog.length → v.prog.getD v.pc 0 = w → opDefined (opOf w) = false →
      exec (.nopInstruction c w) s = .next (s.modCore c (fun u => { u with faultWait := some 0x0710 }))) ∧
    (∀ e, CoreWaits s c e 0x51 v → e.iw = w → v.part ≠ none → v.partner = none → NoQueuedParts s → e.pc < v.prog.length → e.pc < 8192 →
      v.wdog ≠ 0 → tokenBad w 15 = false → bitsOf w 55 52 < 12 → v.count (bitsOf w 55 52) < bitsOf w 51 44 →
      FaultsAt (.tokenTimeout c) s c 0x0714 e.pc) ∧
    (v = s.core c → s.issues c = true → v.pc < v.prog.length → v.pc < 8192 → v.queue = [] → NoQueuedParts s → v.part ≠ none →
      v.partner = none → v.prog.getD v.pc 0 = w →
      (opDefined (opOf w) = false → FaultsWith (.nopInstruction c w) s c 0x0710) ∧
      (opOf w = 0x70 → bitsOf w 55 0 ≠ 0 → FaultsWith (.nopInstruction c w) s c 0x0711) ∧
      (opOf w = 0x74 → bitsOf w 51 24 = 0 → bitsOf w 23 0 ≠ 0 → v.target w = none → FaultsWith (.loop c w) s c 0x0713) ∧
      (opOf w = 0x50 → tokenBad w 11 = true → FaultsWith (.tput c w) s c 0x0711))

/-- Moves, descriptor loads, record clears and organ fills; a PROGRAM shot starts its cores. LOAD puts the bytes read at
its scratchpad unit and STORE writes the scratchpad's bytes as RAW, each with one token more when TOK = 1, for which a
LOAD waits in its queue while 255 stand; a COPY within one destination block copies; DLOAD fills descriptor slots; SCLR
writes 32 zero bytes. OFILL makes its slot FILLING and stays in its queue, and waits there for one that is; the fill's
landing makes it VALID with its image and generations and completes its OFILL, or EMPTY with the part failed; a refill
that finds other generations fails the part with 0x0308; OEVICT empties the slot. A misaligned register is
OPERAND_RANGE. A PROGRAM of one core starts it with the program read, at PC 0. Where the spec is silent the clauses
follow the model's choices of log entries 37, 48, 49.
(09 R230, 09 R231, 09 R247, 06 R179, 06 R180, 06 R181, 10 R267, 12 R312, 02 R73, 15 R428) -/
def Obligations.MovesAndTheOrganExecute : Prop :=
  ∀ (s : State) (c : CoreId) (w : Dword) (v : Core),
    let a := (v.par (bitsOf w 55 52)).toNat
    let n := (v.par (bitsOf w 51 48)).toNat
    let p := bitsOf w 47 32 * 64
    let tq := bitsOf w 30 27
    let fits (x : Nat) := a % 64 = 0 ∧ x % 64 = 0 ∧ s.inMemory a x = true
    (CoreDue s c w 0x40 v → unitBad (bitsOf w 47 32) = false → tokBad (bitsOf w 31 31) tq = false → bitsOf w 26 0 = 0 → fits n →
      padFits p n = true → ∀ bs, s.read v.req .any a n = .ok bs →
      (bitsOf w 31 31 = 0 → exec (.load c w) s = .next ((s.modCore c (·.padPut p bs)).pcTo c (v.pc + 1))) ∧
      (bitsOf w 31 31 = 1 → v.count tq < 255 →
        exec (.load c w) s = .next ((s.modCore c (fun x => (x.padPut p bs).setCount tq (v.count tq + 1))).pcTo c (v.pc + 1))) ∧
      (bitsOf w 31 31 = 1 → v.count tq = 255 → exec (.load c w) s = .next ((s.modCore c (fun x =>
        { x.padPut p bs with queue := [{ x.issuing w with started := true, pos := n }] })).pcTo c (v.pc + 1)))) ∧
    (CoreDue s c w 0x41 v → unitBad (bitsOf w 47 32) = false → tokBad (bitsOf w 31 31) tq = false → bitsOf w 26 0 = 0 → fits n →
      padFits p n = true → ∀ u, s.write v.req kRaw 0 0 a (v.pad p n) = .ok u →
      (bitsOf w 31 31 = 0 → exec (.store c w) s = .next (u.pcTo c (v.pc + 1))) ∧
      (bitsOf w 31 31 = 1 → v.count tq < 255 →
        exec (.store c w) s = .next ((u.modCore c (·.setCount tq (v.count tq + 1))).pcTo c (v.pc + 1)))) ∧
    (CoreDue s c w 0x42 v → tokBad (bitsOf w 43 43) (bitsOf w 42 39) = false → bitsOf w 43 43 = 0 → bitsOf w 38 0 = 0 →
      let dst := n
      let len := (v.par (bitsOf w 47 44)).toNat
      let blk := dst / 4096
      (∀ bad, len = 0 → a % 64 = 0 → dst % 64 = 0 → exec (.copyInstruction c ⟨w, bad⟩) s = .next (s.pcTo c (v.pc + 1))) ∧
      (∀ bs bad, 0 < len → fits len → dst % 64 = 0 → s.inMemory dst len = true → s.mapped (blk * 4096) = true → hostPort a = none → hostPort dst = none →
        a % 4096 + len ≤ 4096 → dst % 4096 + len ≤ 4096 → a + len ≤ dst ∨ dst + len ≤ a → s.read v.req .any a len = .ok bs →
        s.hubServes blk = true → s.ownerOf (blk * 4096) = v.tenant → (∀ g, s.region (blk * 4096) = some g → g.kind = 0) →
        (len = 4096 ∨ (s.poisoned blk = false ∧ s.unlisted blk = false)) →
        (len = 4096 ∨ (s.slate blk).kind = 0 ∨ s.slateOk blk (s.block blk) = true) → s.ckpt = none →
        ∃ t, exec (.copyInstruction c ⟨w, bad⟩) s = .next t ∧ (t.core c).pc = v.pc + 1 ∧
          (∀ i : Nat, i < len → tget zeroByte t.hbm.mem (dst + i) = bs.getD i 0) ∧
          (∀ y : Nat, y < dst ∨ dst + len ≤ y →
            tget zeroByte t.hbm.mem y = if (s.slate blk).kind = 0 ∧ y / 4096 = blk then 0 else tget zeroByte s.hbm.mem y))) ∧
    (CoreDue s c w 0x45 v → bitsOf w 51 44 + bitsOf w 43 36 ≤ 255 → bitsOf w 35 0 = 0 → a % 64 = 0 →
      s.inMemory a ((bitsOf w 43 36 + 1) * 64) = true → ∀ bs, s.read v.req .any a ((bitsOf w 43 36 + 1) * 64) = .ok bs →
      exec (.dload c w) s = .next ((s.modCore c (·.padPut (0x17C000 + 64 * bitsOf w 51 44) bs)).pcTo c (v.pc + 1))) ∧
    (CoreDue s c w 0x60 v → bitsOf w 51 0 = 0 → a % 32 = 0 → s.inMemory a 32 = true → ∀ u, s.write v.req kRecord 0 0 a (zeros 32) = .ok u →
      exec (.sclr c w) s = .next (u.pcTo c (v.pc + 1))) ∧
    (v = s.core c → s.issues c = true → v.pc < v.prog.length → v.pc < 8192 → v.queue = [] → NoQueuedParts s → v.part ≠ none →
      v.partner = none → v.prog.getD v.pc 0 = w → opOf w = 0x60 → bitsOf w 51 0 = 0 → a % 32 ≠ 0 → FaultsWith (.sclr c w) s c 0x0222) ∧
    (∀ t, CoreDue s c w 0x43 v → TileD.parse false (v.slots (bitsOf w 49 42) 1) = some t →
      let nr := bitsOf w 41 36
      let nc := bitsOf w 35 30
      extentBad nr = false → extentBad nc = false → bitsOf w 29 0 = 0 → t.padOk nr nc = true →
      (((v.slotAt (bitsOf w 55 50)).map Slot.isFilling).getD false = true → exec (.ofill c w) s = .next (s.queuedTo c w)) ∧
      (((v.slotAt (bitsOf w 55 50)).map Slot.isFilling).getD false = false → exec (.ofill c w) s = .next
        ((s.modCore c (fun x => { x.setSlot (bitsOf w 55 50) (some (.filling (v.slots (bitsOf w 49 42) 1) nr nc)) with
          queue := [{ x.issuing w with started := true }] })).pcTo c (v.pc + 1)))) ∧
    (∀ (i : Fin 64) d nr nc again t, s.core c = v → v.slotAt i.val = some (.filling d nr nc again) → s.clocks = true →
      s.dieRuns c.die.val = true → TileD.parse false d = some t →
      let valid (img : List Word) (x : Core) : Core :=
        { x.setSlot i.val (some (.valid img (BitVec.ofNat 64 (leAt d 0 8)) (s.tileGens t nr nc) d nr nc)) with orgFills := satInc x.orgFills }
      (∀ img e, t.image (s.coreReader v []) v nr nc = .ok img → again = none → v.queue = [e] → v.faultWait = none → e.started = true →
        opOf e.iw = 0x43 → bitsOf e.iw 55 50 = i.val → exec (.organFillComplete c i) s = .next (s.doneOn c (valid img))) ∧
      (∀ img gens, t.image (s.coreReader v []) v nr nc = .ok img → again = some gens → v.queue = [] →
        (gens = s.tileGens t nr nc → exec (.organFillComplete c i) s = .next (s.modCore c (valid img))) ∧
        (gens ≠ s.tileGens t nr nc → v.part ≠ none → NoQueuedParts s →
          ∃ u, exec (.organFillComplete c i) s = .next u ∧ (u.core c).slotAt i.val = none ∧ (u.core c).pstate = 5)) ∧
      (∀ st b, t.image (s.coreReader v []) v nr nc = .error (.fail st b) →
        ∃ u, exec (.organFillComplete c i) s = .next u ∧ (NoQueuedParts s → (u.core c).slotAt i.val = none ∧ (v.part ≠ none → (u.core c).pstate = 5)))) ∧
    (CoreDue s c w 0x44 v → bitsOf w 49 0 = 0 → ((v.slotAt (bitsOf w 55 50)).map Slot.isFilling).getD false = false →
      exec (.oevict c w) s = .next ((s.modCore c (·.setSlot (bitsOf w 55 50) none)).pcTo c (v.pc + 1))) ∧
    (CoreDue s c w 0x44 v → bitsOf w 49 0 = 0 → ((v.slotAt (bitsOf w 55 50)).map Slot.isFilling).getD false = true →
      exec (.oevict c w) s = .next (s.queuedTo c w)) ∧
    (∀ (r : ShotRef) (x : Tracked) (k : Nat) bytes,
      let b := x.shot.body
      ShotRuns s r 0x001 x → x.phase = .dispatched → leAt b 12 2 = 1 → s.grantWaits r = false → s.hostOf (leAt b 10 2) = some k →
      s.idle k = true → x.mode ≠ 4 → x.running = [] → (∀ j : Nat, (s.coreK j).part ≠ some (r, 0)) → s.read x.req .any (leAt b 0 5) (8 * leAt b 8 2) = .ok bytes →
      ∃ t y, exec (.program r) s = .next t ∧ t.trackedOf r = some y ∧ y.phase = .running ∧ y.nparts = 1 ∧ y.running = [(k, 0)] ∧ y.queued = [] ∧
        (t.coreK k).part = some (r, 0) ∧ (t.coreK k).pc = 0 ∧ (t.coreK k).pstate = 2 ∧ (t.coreK k).tenant = x.tenant ∧
        (t.coreK k).prog = (cut 8 bytes).map (fun l => BitVec.ofNat 64 (leNat l)) ∧ t.hbm = s.hbm) ∧
    (∀ (r : ShotRef) (x : Tracked), ShotRuns s r 0x001 x → x.phase = .running → s.grantWaits r = true → exec (.program r) s = .next s)

/-- Vector instructions write their tile, rows, top-k state or scratchpad element by element, count themselves, and
advance. For a legal word that is due, outside a disagreeing pair: VOP and VCMP work element by element on tiles or a
VALID organ slot; VROW adds to, clears or reads the row accumulators; VCVT rounds to the format; VLD loads a tile and
VST commits its part; VRAND writes draw × 2^-16; VMASK keeps present elements; VTOPK merges a row's logits; BSCL writes
the scale bytes. Cycles count twice when the pair runs twice. A first disagreement of a pair writes nothing. An EMPTY
slot is a fault. Comparisons with NaN are false except not equal and unordered; a row sum does not depend on the order
of its elements. A bounded function of Table 6-9 in range is within its ulps or the nearest. Where the spec is silent
the clauses follow the model's choices of log entries 3, 46, 48, 49.
(06 R176, 06 R177, 06 R178, 06 R180, 09 R244, 09 R245, 09 R246, 02 R67, 08 R215, 05 R140, 12 R326) -/
def Obligations.VectorInstructionsExecute : Prop :=
  (∀ (s : State) (c : CoreId) (w : Dword) (agree : Bool) (v : Core) (img : List Word),
    let twice := pairedMode (s.coreMode v)
    let done (o : Instr) (cost : Nat) (g : Core → Core) := exec o s = .next ((s.modCore c (fun x =>
      let y := g x
      { y with vxInstr := satInc y.vxInstr, vxBusy := satAdd y.vxBusy (cost * (if twice then 2 else 1)) })).pcTo c (v.pc + 1))
    let due (op : Nat) := CoreDue s c w op v ∧ v.vxTry = 0 ∧ (twice = true → agree = true)
    let organ := (bitsOf w 23 22 = 0 ∧ img = []) ∨
      (bitsOf w 23 22 ≠ 0 ∧ ∃ a g d m n, v.slotAt (bitsOf w 29 24) = some (.valid img a g d m n))
    let fn := bitsOf w 55 50
    let td := bitsOf w 49 45
    let src (i j : Nat) := el (v.source w img i) j
    (due 0x20 → fn ≤ 0x19 → vecWordBad w (vopSources fn) true false = false → organ →
      done (.vop c w agree) (vopCost fn) (·.setTile td (tileOf (fun i => vopElem fn (src 1 i) (src 2 i) (src 3 i))))) ∧
    (due 0x21 → fn ≤ 6 → vecWordBad w [1, 2] true false = false → organ →
      done (.vcmp c w agree) 8 (·.setTile td (tileOf (fun i => if f32Cmp fn (src 1 i) (src 2 i) then 0x3F800000 else 0)))) ∧
    (due 0x22 → fn = 0 → vecWordBad w [1] false false = false → organ →
      done (.vrow c w agree) 8 (·.modRows (fun r x => (rowOf (v.source w img 1) r).foldl RowAcc.addWord x))) ∧
    (due 0x22 → fn = 3 → vecWordBad w [] false false = false → organ → done (.vrow c w agree) 8 (·.modRows (fun _ _ => {}))) ∧
    (due 0x22 → fn = 4 → vecWordBad w [] true false = false → organ →
      done (.vrow c w agree) 8 (·.setTile td (tileOf (fun i => (v.rowAcc (i / 32)).read)))) ∧
    (due 0x22 → fn = 1 ∨ fn = 2 → vecWordBad w [1] false false = false → organ →
      done (.vrow c w agree) 8 (·.modRows (fun r x => if fn = 1 then { x with maxv := (rowOf (v.source w img 1) r).foldl f32Max x.maxv }
        else { x with minv := (rowOf (v.source w img 1) r).foldl f32Min x.minv }))) ∧
    (∀ t, due 0x23 → fn = 0 → Tfd.parse (bitsOf w 15 0) = some t → t.lay = .plain → t.rnd = false → t.sill = false →
      vecWordBad w [1] true true = false → organ →
      done (.vcvt c w agree) 8 (·.setTile td (tileOf (fun i => toF32 (t.f.num false (t.f.conv false .rne (f32Num (src 1 i)))))))) ∧
    (∀ t x, due 0x24 → TileD.parse false (v.slots (bitsOf w 50 43) 1) = some t → extentBad (bitsOf w 42 37) = false →
      extentBad (bitsOf w 36 31) = false → bitsOf w 30 0 = 0 → t.padOk (bitsOf w 42 37) (bitsOf w 36 31) = true →
      t.image (s.coreReader v []) v (bitsOf w 42 37) (bitsOf w 36 31) = .ok x →
      done (.vld c w agree) 8 (·.setTile (bitsOf w 55 51) x)) ∧
    (∀ d u, due 0x25 → TileD.parse true (v.slots (bitsOf w 50 43) 1) = some d → extentBad (bitsOf w 42 37) = false →
      extentBad (bitsOf w 36 31) = false → bitsOf w 30 0 = 0 → d.padOk (bitsOf w 42 37) (bitsOf w 36 31) = true →
      let f := vstFmt d (s.coreEval v)
      let t := v.tile (bitsOf w 55 51)
      s.runParts v.req v.taint v.whose.1 v.whose.2 [vstPart d f t (bitsOf w 42 37) (bitsOf w 36 31)] = some (u, [none]) →
      ∃ z, exec (.vst c w agree) s = .next z ∧ z.hbm = u.hbm ∧ (z.core c).pc = v.pc + 1 ∧ (z.core c).vxInstr = satInc v.vxInstr ∧
        (z.core c).scratch = (v.vstPad d f t (bitsOf w 42 37) (bitsOf w 36 31)).scratch ∧ (z.core c).tl = v.tl) ∧
    (due 0x26 → bitsOf w 34 0 = 0 →
      done (.vrand c w agree) 8 (·.setTile (bitsOf w 55 51) (tileOf (fun i => toF32 (.fin (draw (v.par (bitsOf w 42 39)) (v.par (bitsOf w 38 35))
        ((v.par (bitsOf w 50 47)).toNat + i / 32 * (v.par (bitsOf w 46 43)).toNat + i % 32)) 65536))))) ∧
    (due 0x27 → (bitsOf w 50 48 = 2 ∧ bitsOf w 22 7 = 0) ∨ (bitsOf w 50 48 = 3 ∧ bitsOf w 22 7 ≠ 0) → bitsOf w 6 0 = 0 →
      done (.vmask c w agree) 8 (fun x => x.setTile (bitsOf w 55 51) (tileOf (fun i =>
        let row : Int := (v.par (bitsOf w 46 43)).toNat + i / 32
        let col : Int := (v.par (bitsOf w 42 39)).toNat + i % 32
        if col ≤ row + signedOf w 38 23 ∧ (bitsOf w 50 48 = 3 → row - bitsOf w 22 7 < col) then el (v.tile (bitsOf w 55 51)) i
        else if flagOf w 47 then 0 else 0xFF800000)))) ∧
    (due 0x28 → 1 ≤ bitsOf w 50 47 → bitsOf w 50 47 ≤ 8 → bitsOf w 18 0 = 0 → bitsOf w 34 19 % 32 = 0 → bitsOf w 34 19 ≤ 992 →
      flagOf w 45 = false → bitsOf w 44 35 = 0 → (∀ x ∈ v.tile (bitsOf w 55 51), (f32Num x).isNan = false) →
      ∃ z, exec (.vtopk c w agree) s = .next z ∧ (z.core c).pc = v.pc + 1 ∧ (z.core c).tl = v.tl ∧ z.hbm = s.hbm ∧
        ∀ r : Nat, r < 32 → (z.core c).top r = topOf (bitsOf w 50 47) ((if flagOf w 46 then [] else v.top r) ++
          (rowOf (v.tile (bitsOf w 55 51)) r).zipIdx.map (fun x => (bitsOf w 34 19 + x.2, x.1)))) ∧
    (∀ d, due 0x29 → Tfd.parseDst (bitsOf w 34 19) = some d → d.lay ≠ .plain → unitBad (bitsOf w 50 35) = false → bitsOf w 14 0 = 0 →
      scaleOk ((v.par (bitsOf w 18 15)).setWidth 32) = true →
      ∃ bs, done (.bscl c w agree) 8 (·.padPut (bitsOf w 50 35 * 64) bs) ∧ (d.lay = .coarse → bs.length = 32)) ∧
    (CoreDue s c w 0x20 v → fn ≤ 0x19 → vecWordBad w (vopSources fn) true false = false → organ → v.vxTry = 0 → twice = true → agree = false →
      exec (.vop c w agree) s = .next (s.modCore c (fun x => { x with vxMism := satInc x.vxMism, vxTry := 1 }))) ∧
    (CoreDue s c w 0x20 v → v.pc < 8192 → fn ≤ 0x19 → vecWordBad w (vopSources fn) true false = false → bitsOf w 23 22 ≠ 0 →
      v.slotAt (bitsOf w 29 24) = none → NoQueuedParts s → v.part ≠ none → v.partner = none →
      FaultsWith (.vop c w agree) s c 0x0712)) ∧
  (∀ (fn : Nat) (a b : Word), fn ≤ 6 → (f32Num a).isNan = true ∨ (f32Num b).isNan = true → f32Cmp fn a b = decide (fn = 1 ∨ fn = 6)) ∧
  (∀ xs ys : List Word, xs.Perm ys → (xs.foldl RowAcc.addWord {}).read = (ys.foldl RowAcc.addWord {}).read) ∧
  (∀ (fn : Nat) (f : Config.Fn) (a b c : Word) (v : Sys2Proof.Num),
    (fn, f) ∈ ([(0x0D, .recip), (0x0E, .rsqrt), (0x0F, .exp2), (0x10, .log2), (0x11, .exp), (0x12, .log), (0x13, .tanh), (0x14, .sigmoid),
      (0x15, .erf), (0x16, .geluErf), (0x17, .geluTanh), (0x18, .silu)] : List (Nat × Config.Fn)) →
    (f32Num a).isFin = true → realFn f (f32Num a).n (f32Num a).d = some v → (f32Num (toF32 v)).isFin = true →
    withinUlps (fnUlps f) v (vopElem fn a b c) = true ∨ vopElem fn a b c = toF32 v)

/-- MMA, CONV and SCAT commit their part or hold their ledgers; the LX operations read, add to, spill, reload and
release a held set. A matrix word that is due, with no held set and a job that passes its checks: with HOLD = 0 its one
part commits and issue advances; with HOLD = 1 the ledgers stay in the cells as a held set of M rows and N columns. A
word that conflicts with the set's state is the precise fault 0x0715, a reserved one 0x0711. On a held set: EXP writes
the larger P of each row, OUT the rows as LEDGER96 blocks at the given BEXP, SPILL the images, ADD enters LEDGER96
blocks, RELEASE drains it through the epilogue, DISCARD clears it; RELOAD makes one from its images, and an invalid
image or block fails the part. Where the spec is silent the clauses follow the model's choices of log entries 44, 45,
48, 49. (09 R237, 09 R239, 09 R240, 09 R241, 09 R242, 09 R243, 03 R85, 03 R93, 03 R96, 04 R102, 06 R174, 12 R315) -/
def Obligations.MatrixAndLedgerSetInstructionsExecute : Prop :=
  ∀ (s : State) (c : CoreId) (w : Dword) (v : Core),
    let op := opOf w
    let cmd := if op = 0 then Instr.mma c w else if op = 1 then Instr.convInstruction c w else Instr.scat c w
    let nxt (o : Instr) (g : Core → Core) := exec o s = .next ((s.modCore c g).pcTo c (v.pc + 1))
    let sub := bitsOf w 55 53
    (∀ j ps u fs, CoreDue s c w op v → op ≤ 2 → mxWordBad op w = false → s.mxJob v op w = .ok j → v.mx.held = none → flagOf w 49 = false →
      j.parts (s.coreReader v (mxQueues w)) 1 = some ps → ps.length = 1 →
      let e := s.enterProduct c j.job.p
      e.runParts v.req (e.core c).taint v.whose.1 v.whose.2 ps = some (u, fs) →
      (fs = [none] → ∃ t, exec cmd s = .next t ∧ t.hbm = u.hbm ∧ (t.core c).pc = v.pc + 1 ∧ (t.core c).pgIssued = satInc v.pgIssued ∧
        (t.core c).mx.held = none ∧ ∀ q ∈ mxQueues w, 12 ≤ q → (t.core c).tokens q = []) ∧
      (∀ st a, fs = [some (st, a)] → NoQueuedParts s → v.part ≠ none →
        ∃ t, exec cmd s = .next t ∧ t.hbm.mem = u.hbm.mem ∧ (t.core c).pstate = 5 ∧ (t.core c).part = none)) ∧
    (∀ j m b r u, CoreDue s c w op v → op ≤ 2 → mxWordBad op w = false → s.mxJob v op w = .ok j → v.mx.held = none → flagOf w 49 = true →
      let p := j.job.p
      let rd := s.coreReader v (mxQueues w)
      let e := s.enterProduct c p
      p.readMask rd = .ok m → p.readBias rd = .ok b → j.sums rd m b (j.tiles.headD ⟨0, 0, 0, 0⟩) = .ok r →
      let leds := r.cells.filterMap (fun c => match c.2.2 with | some (.led g) => some g | _ => none)
      e.runParts v.req v.taint v.whose.1 v.whose.2 [{
        merges := r.recs, counts := { r.counts with epElems := 0 }, wloss := leds.any (·.wloss), sat := leds.any (·.sat) }] = some (u, [none]) →
      ∃ t, exec cmd s = .next t ∧ (t.core c).pc = v.pc + 1 ∧ (t.core c).mx.held = some (p.m, p.n) ∧ t.hbm = u.hbm ∧
        (t.core c).mx.desc = v.slots (bitsOf w 47 40) 6 ∧ (t.core c).mx.wbase = r.wbase) ∧
    (v = s.core c → s.issues c = true → v.pc < v.prog.length → v.pc < 8192 → v.queue = [] → NoQueuedParts s → v.part ≠ none →
      v.partner = none → v.prog.getD v.pc 0 = w →
      (op ≤ 2 → mxWordBad op w = true → FaultsWith cmd s c 0x0711) ∧
      (∀ j, op ≤ 2 → mxWordBad op w = false → s.mxJob v op w = .ok j → v.mx.held ≠ none → FaultsWith cmd s c 0x0715) ∧
      (op = 3 → sub = 6 → lxWordBad 6 w = false → v.mx.held = none → FaultsWith (.lxDiscard c w) s c 0x0715) ∧
      (op = 3 → sub = 3 → lxWordBad 3 w = false → v.mx.held ≠ none → FaultsWith (.lxReload c w) s c 0x0715)) ∧
    (∀ rows cols, CoreDue s c w 3 v → lxWordBad sub w = false → v.mx.held = some (rows, cols) →
      (sub = 0 → padFits (spinOf w) (2 * rows) = true → padFits (spoutOf w) (2 * rows) = true →
        nxt (.lxExp c w) (·.padPut (spoutOf w) (expBytes ((List.range rows).map (fun r =>
          maxP ((v.mx.row r).foldl (fun m g => maxP m g.p) none) ((expOf (v.pad (spinOf w) (2 * rows))).getD r none)))))) ∧
      (sub = 1 → flagOf w 48 = false → padFits (spinOf w) (2 * rows) = true → padFits (spoutOf w) (l96Span rows) = true →
        ∃ t, exec (.lxOut c w) s = .next t ∧ (t.core c).pc = v.pc + 1 ∧ (t.core c).mx = v.mx ∧ t.hbm = s.hbm ∧
          ∀ r : Nat, r < rows → (t.core c).pad (spoutOf w + 4096 * (r / 10) + 400 * (r % 10)) 400 =
            (toBlock (toSigned 16 (leNat (v.pad (spinOf w + 2 * r) 2))) (v.mx.row r)).bytes) ∧
      (sub = 2 → padFits (spoutOf w) (1024 * rows) = true →
        nxt (.lxSpill c w) (·.padPut (spoutOf w) ((List.range rows).flatMap (fun r => (v.mx.row r).flatMap Ledger.spill)))) ∧
      (∀ bs, sub = 5 → padFits (spinOf w) (l96Span rows) = true →
        (List.range rows).mapM (fun r => L96Block.decode (v.pad (spinOf w + l96Offset r) 400)) = some bs →
        ∃ t, exec (.lxAdd c w) s = .next t ∧ (t.core c).pc = v.pc + 1 ∧ (t.core c).mx.held = v.mx.held ∧ t.hbm = s.hbm ∧
          ∀ r n : Nat, r < rows → n < 32 → (t.core c).mx.ledger r n =
            (let b := bs.getD r ⟨0, false, []⟩; (v.mx.ledger r n).addL96 (b.elems.getD n .empty) b.bexp b.wloss)) ∧
      (∀ p b x u,
        let md : PMode := { acc := b2n (decide (v.mx.acc = 1)), spat := 0, stat := 0, stage := false }
        let t : Tile := { s0 := 0, sn := rows, c0 := 0, cn := cols }
        let r : TileRes := { cells := (List.range rows).flatMap (fun m => (List.range cols).map (fun n => (m, n, some (Acc.led (v.mx.ledger m n))))),
                             recs := [], counts := { epElems := rows * cols }, wbase := v.mx.wbase }
        let j : ProdJob := { job := { p := { p with m := rows, n := cols }, conv := none, comp := none }, scat := false, mode := 0, seq := 0 }
        sub = 4 → Prod.read .mm false md (fun _ => none) (s.coreEval v) (withoutOperands (v.slots (bitsOf w 15 8) 6)) = .ok p →
        j.job.p.readBias (s.coreReader v []) = .ok b → j.finish (s.coreReader v []) b t r = .ok x →
        s.runParts v.req v.taint v.whose.1 v.whose.2 [(j.outcome 1 [(t, .ok x)]).headD {}] = some (u, [none]) →
        ∃ z, exec (.lxRelease c w) s = .next z ∧ z.hbm = u.hbm ∧ (z.core c).pc = v.pc + 1 ∧ (z.core c).mx.held = none ∧ (z.core c).mx.ledgers = []) ∧
      (sub = 6 → nxt (.lxDiscard c w) (fun y => { y with mx := { y.mx with ledgers := [], held := none } }))) ∧
    (CoreDue s c w 3 v → lxWordBad 3 w = false → v.mx.held = none → sub = 3 →
      let rows := v.reloadRows (spinOf w)
      padFits (spinOf w) (1024 * rows) = true →
      (∀ gs, (List.range (32 * rows)).mapM (fun i => Ledger.reload (v.pad (spinOf w + 32 * i) 32)) = some gs →
        ∃ t, exec (.lxReload c w) s = .next t ∧ (t.core c).pc = v.pc + 1 ∧ (∃ cols, (t.core c).mx.held = some (rows, cols)) ∧ t.hbm = s.hbm ∧
          ∀ i : Nat, i < 32 * rows → ∀ g, gs[i]? = some g → (t.core c).mx.ledger (i / 32) (i % 32) = g) ∧
      ((List.range (32 * rows)).mapM (fun i => Ledger.reload (v.pad (spinOf w + 32 * i) 32)) = none → NoQueuedParts s → v.part ≠ none →
        ∃ t, exec (.lxReload c w) s = .next t ∧ (t.core c).pstate = 5 ∧ (t.core c).part = none ∧ (t.core c).mx.held = none))

/-- Inside a core: shadow load, swap, row latch, check, commit and retake of a tile, MIRROR vote, arriving sums, drain,
shares. On a core that runs: a loaded tile enters the empty shadow set, unless its 2:4 indices, or blocks that a retake
finds changed, fail it; a swap waits for rows (STATE 4), for the grant (3) or for the check before it, and else makes
the shadow tile active, the next of its reduction or the first of an output tile; a due row enters the pending sums, at
once the sums in the cells with no check, and the last one frees the set to drain; agreement commits the oldest tile, a
first disagreement discards every pending sum and leaves the committed ledgers; equal MIRROR values commit and a first
difference retakes both cores; an arriving LEDGER96 block enters, a bad one fails the part; a drained set is committed
and gone; a passed share leaves its core. Where the spec is silent the clauses follow the model's choices of log entries
14, 47. (04 R105, 04 R106, 04 R108, 04 R110, 04 R114, 04 R117, 05 R129, 12 R327, 12 R329, 12 R330, 12 R331, 19 R510) -/
def Obligations.MatrixEventsLoadCheckAndDrain : Prop :=
  ∀ (s : State) (c : CoreId) (v : Core), s.core c = v → s.coreRuns c = true →
    let m := v.mx
    let mode := s.coreMode v
    let unchecked (x : Mx) := ∀ o, x.shadowSet = some o → o.check = false
    let state (n : BitVec 3) := s.modCore c (fun x => { x with mx := { x.mx with state := n } })
    (∀ t, m.shadow = none → tileIndexBad t = false → (m.mism = 0 ∧ v.votes = 0) ∨ s.tileStale m t = false →
      exec (.shadowLoadComplete c t) s =
        .next (s.modCore c (fun x => { x with mx := { x.mx with shadow := some t, state := if x.mx.state = 0 then 1 else x.mx.state } }))) ∧
    (∀ t, m.shadow = none → tileIndexBad t = true ∨ (0 < m.mism ∧ s.tileStale m t = true) → v.part ≠ none → NoQueuedParts s →
      ∃ u, exec (.shadowLoadComplete c t) s = .next u ∧ (u.core c).pstate = 5 ∧ (u.core c).part = none ∧ (u.core c).mx.shadow = none) ∧
    (∀ t due cyc, m.shadow = some t → s.ebtor = true →
      (m.due ≠ [] → exec (.tileSwap c due cyc) s = .next (state 4)) ∧
      (m.due = [] → s.waitsGrant c.key = true → exec (.tileSwap c due cyc) s = .next (state 3)) ∧
      (m.due = [] → s.waitsGrant c.key = false → m.back = true → exec (.tileSwap c due cyc) s = .next s) ∧
      (m.due = [] → s.waitsGrant c.key = false → m.back = false → v.fenceNext = none → due.first = none → m.busy = true → 0 < m.left →
        ∃ u, exec (.tileSwap c due cyc) s = .next u ∧ (u.core c).mx.active = some t ∧ (u.core c).mx.shadow = none ∧
          (u.core c).mx.due = due.rows ∧ (u.core c).mx.latched = [] ∧ (u.core c).mx.state = 2 ∧ (u.core c).mx.left = m.left - 1 ∧
          (u.core c).mxTiles = satInc v.mxTiles ∧ u.hbm = s.hbm ∧ (u.core c).mx.ledgers = m.ledgers ∧
          (m.cur = true → m.checked = true → (u.core c).mx.back = true ∧ (u.core c).mx.pendCheck = m.pendTile ∧ (u.core c).mx.pendTile = [])) ∧
      (∀ f p b, m.due = [] → s.waitsGrant c.key = false → m.back = false → v.fenceNext = none → due.first = some f → m.left = 0 →
        m.held = none → m.blocksDue ≤ m.blocksAdded → drainProduct f.acc f.stat f.desc (s.coreEval v) = .ok p →
        p.readBias (s.coreReader v []) = .ok b →
        (m.busy = true → m.shadowSet ≠ none → exec (.tileSwap c due cyc) s = .next (state 4)) ∧
        (m.busy = false ∨ m.shadowSet = none →
          ∃ u, exec (.tileSwap c due cyc) s = .next u ∧ (u.core c).mx.active = some t ∧ (u.core c).mx.shadow = none ∧
            (u.core c).mx.due = due.rows ∧ (u.core c).mx.latched = [] ∧ (u.core c).mx.state = 2 ∧ (u.core c).mx.left = f.tiles - 1 ∧
            (u.core c).mx.acc = f.acc ∧ (u.core c).mx.wbase = f.wbase ∧ (u.core c).mx.busy = true ∧ (u.core c).mx.rowsN = f.rows ∧
            u.hbm = s.hbm ∧ (p.bias ≠ 1 → (u.core c).mx.ledgers = [] ∧ (u.core c).mx.f32 = []) ∧
            (m.busy = true → ∃ o, (u.core c).mx.shadowSet = some o ∧ o.ledgers = m.ledgers ∧ o.check = true)))) ∧
    (∀ (arr : Fin 4) x t ps n, m.active = some t → x.row % 4 = arr.val → x.row ∈ m.due →
      (m.takesRow x.row = false → exec (.rowLatch c arr x) s = .next (state 4)) ∧
      (m.takesRow x.row = true → rowContribs m t x = some (ps, n) →
        ∃ u, exec (.rowLatch c arr x) s = .next u ∧ (u.core c).mx.due = m.due.filter (· ≠ x.row) ∧
          (u.core c).mx.latched = x.row :: m.latched ∧ (u.core c).mxMacs = satAdd v.mxMacs n ∧
          (m.checked = true → (u.core c).mx.pendTile = m.pendTile ++ ps ∧ (u.core c).mx.ledgers = m.ledgers) ∧
          (m.checked = false → m.acc ≠ 1 → (∃ y ∈ m.due, y ≠ x.row) →
            (u.core c).mx.ledgers = (m.enterAll ps).ledgers ∧ (u.core c).mx.f32 = (m.enterAll ps).f32 ∧ (u.core c).mx.pendTile = m.pendTile) ∧
          (m.checked = false → m.acc ≠ 1 → (∀ y ∈ m.due, y = x.row) → m.busy = true → m.left = 0 → m.back = false →
            m.blocksDue ≤ m.blocksAdded → m.shadowSet = none →
            (u.core c).mx.busy = false ∧ (u.core c).mx.ledgers = [] ∧ ∃ o, (u.core c).mx.shadowSet = some o ∧ o.ready = [0] ∧
              o.ledgers = (m.enterAll ps).ledgers ∧ o.f32 = (m.enterAll ps).f32))) ∧
    (mode ≠ 0 → m.awaits = true →
      (∃ u, exec (.tileCheck c true) s = .next u ∧ (u.core c).mx.ledgers = m.commitTile.rotate.ledgers ∧
        (u.core c).mx.shadowSet = m.commitTile.rotate.shadowSet ∧ (u.core c).mx.mism = 0 ∧
        (m.back = true → (u.core c).mx.back = false ∧ (u.core c).mx.pendCheck = [] ∧ (u.core c).mx.pendTile = m.pendTile) ∧
        (m.back = true → m.cur = true → m.checked = true → unchecked m → (u.core c).mx.ledgers = (m.enterAll m.pendCheck).ledgers) ∧
        (m.back = false → (u.core c).mx.cur = false ∧ (u.core c).mx.pendTile = [])) ∧
      (m.mism = 0 →
        ∃ u, exec (.tileCheck c false) s = .next u ∧ (unchecked m → (u.core c).mx.ledgers = m.ledgers) ∧ (u.core c).mx.pendCheck = [] ∧
          (u.core c).mx.mism = 1 ∧ (∀ p ∈ (u.core c).mx.pendTile, p.arriving = true) ∧ (u.core c).mx.shadow = none ∧
          (u.core c).mx.active = none ∧ (u.core c).mx.state = 5 ∧ (u.core c).retakes = satInc v.retakes ∧
          (u.core c).mxMism = satInc v.mxMism ∧ (u.core c).mxDiscard = satAdd v.mxDiscard (b2n m.back + b2n m.cur))) ∧
    (∀ (p : CoreId) r i a b th, v.partner = some p → p ≠ c → v.part = some (r, i) → mode = 4 →
      (a = b → ∃ u, exec (.mirrorVote c a b th) s = .next u ∧ (u.core c).mx = m.pass ∧ (u.core c).votes = 0) ∧
      (a ≠ b → v.votes = 0 → ∃ u, exec (.mirrorVote c a b th) s = .next u ∧ (u.core c).votes = 1 ∧ (u.core p).votes = 1 ∧
        (unchecked m → (u.core c).mx.ledgers = m.ledgers) ∧ (unchecked (s.core p).mx → (u.core p).mx.ledgers = (s.core p).mx.ledgers) ∧
        (u.core c).mx.pendCheck = [] ∧ (u.core p).mx.pendCheck = [])) ∧
    (∀ row blk agree, pairedMode mode = false ∨ agree = true → v.vxTry = 0 → unchecked m →
      (∀ b, L96Block.decode (bytesAt blk 0 400) = some b →
        ∃ u ps, exec (.arrivingSumAdd c row blk agree) s = .next u ∧ (u.core c).mx.blocksAdded = m.blocksAdded + 1 ∧ ps.length = 32 ∧
          (∀ q ∈ ps, q.arriving = true) ∧
          (m.cur = true → m.checked = true → (u.core c).mx.ledgers = m.ledgers ∧ (u.core c).mx.pendTile = m.pendTile ++ ps) ∧
          (m.cur = false ∨ m.checked = false → 0 < m.left → (u.core c).mx.ledgers = (m.enterAll ps).ledgers ∧
            (u.core c).mx.pendTile = m.pendTile)) ∧
      (L96Block.decode (bytesAt blk 0 400) = none → v.part ≠ none → NoQueuedParts s →
        ∃ u, exec (.arrivingSumAdd c row blk agree) s = .next u ∧ (u.core c).pstate = 5 ∧ (u.core c).part = none)) ∧
    (∀ agree, m.held = none → m.shadowSet = none → m.busy = true → m.left = 0 → m.due = [] → m.blocksAdded < m.blocksDue →
      exec (.ledgerDrain c agree) s = .next (state 4)) ∧
    (∀ agree o g rest p b x u,
      let t := o.tile g
      let ws := [(t, (.ok x : Tried))]
      m.held = none → m.shadowSet = some o → o.check = false → o.ready = g :: rest → v.vxTry = 0 → pairedMode mode = false ∨ agree = true →
      m.shares = [] → drainProduct o.acc o.stat o.desc (s.coreEval v) = .ok p → p.readBias (s.coreReader v []) = .ok b →
      (drainJob p).finish (s.coreReader v []) b t (o.result g) = .ok x →
      tileShares p o.stat t x.terms (fun i n => (cellAt o.stat ws i n).2) = [] →
      s.runParts v.req v.taint v.whose.1 v.whose.2 [((drainJob p).outcome 1 ws).headD {}] = some (u, [none]) →
      ∃ z, exec (.ledgerDrain c agree) s = .next z ∧ z.hbm = u.hbm ∧ (z.core c).mx.shares = [] ∧
        (rest = [] → o.todo = [] → m.busy = false → (z.core c).mx.shadowSet = none ∧ (z.core c).mx.state = if m.shadow.isSome then 1 else 0)) ∧
    (∀ (d : CoreId) blk p, d ≠ c → s.coreRuns d = true → (∃ x ∈ m.shares, x.1 = blk) →
      let w := (s.core d).mx
      (match w.shadowSet with
        | some o => drainProduct o.acc o.stat o.desc (s.coreEval (s.core d))
        | none => drainProduct w.acc w.stat w.desc (s.coreEval (s.core d))) = .ok p →
      ∃ u, exec (.sharePass c d blk) s = .next u ∧ ∀ x ∈ (u.core c).mx.shares, x.1 ≠ blk)

/-- Cuts save a core's context and a resume loads it; dailies move work to a stand-in and judge the core; canaries and
re-plans slow a die. A cut request stops issue, but not of a program whose precise fault waits; its completion, at a
tile boundary with no drain and no organ fill in progress, counts, and keeps the context for a handover or saves it in
HBM; a resume loads it on an idle core, VALID organ slots to be filled again. A cursor record gives back its
instruction, and 64 bytes a row accumulator. A due core with work hands it, with its logical index, to a free stand-in and turns
TESTING; an idle one is tested in place; a deferred one is cut after TEST_DEFER_MAX. A passing blotter run gives the
core back its vacant index or makes it a free stand-in, a failing one fences it with FCAUSE 4, a stagehand fault with 5.
A canary trip lowers the clock by one step; a re-plan never raises FMAX. Where the spec is silent the clauses follow the
model's choices of log entries 14, 33, 54.
(09 R251, 09 R252, 09 R253, 09 R254, 12 R333, 12 R336, 12 R338, 12 R341, 12 R342, 12 R344, 12 R345, 06 R182) -/
def Obligations.CutsTestsAndAgeing : Prop :=
  (∀ (s : State) (c : CoreId) (v : Core), s.core c = v → s.clocks = true → s.ebtor = true →
    (∀ why : Fin 3, v.pstate = 2 →
      (v.faultWait = none → exec (.cutRequest c why) s = .next (s.modCore c (fun x => { x with pstate := 3, cut := some why.val }))) ∧
      (v.faultWait ≠ none → exec (.cutRequest c why) s = .next s)) ∧
    (v.pstate = 3 → s.canCut c.key = false → exec (.cutComplete c) s = .next s) ∧
    (v.pstate = 3 → s.canCut c.key = true →
      let u := s.modCore c (fun x => { x with pgCuts := satInc x.pgCuts, pstate := 4, mx := { x.mx with state := 6 } })
      (v.cut = some 1 → exec (.cutComplete c) s = .next u) ∧
      (∀ y, v.cut ≠ some 1 → v.cut ≠ some 2 → NoQueuedParts s → u.putContext s.contexts.length (u.core c) = .ok y →
        ∃ t x, exec (.cutComplete c) s = .next t ∧ tget (fun _ => none) t.contexts s.contexts.length = some x ∧ x.rest.prog = v.prog ∧
          x.rest.part = v.part ∧ x.sizes.take 2 = [64, 128] ∧ x.sizes.getD 3 0 = 64 * v.queue.length ∧ t.hbm = y.hbm ∧
          (t.core c).pstate = 4 ∧ (t.core c).saved = some s.contexts.length ∧ (t.core c).part = none ∧ (t.core c).queue = [] ∧
          (t.core c).scratch = [] ∧ (t.core c).pgCuts = satInc v.pgCuts)) ∧
    (∀ n x img, tget (fun _ => none) s.contexts n = some x → s.getContext x = .ok img → s.idle c.key = true → v.role = 0 →
      ∃ t, exec (.resume c n) s = .next t ∧ (t.core c).pc = img.pc ∧ (t.core c).pr = img.pr ∧ (t.core c).part = img.part ∧
        (t.core c).pstate = 2 ∧ (t.core c).scratch = img.scratch ∧ (t.core c).queue = img.queue ∧ (t.core c).organ = img.organAgain ∧
        ((∀ o, img.mx.shadowSet = some o → o.check = false) → (t.core c).mx.ledgers = img.mx.ledgers) ∧ (t.core c).logical = v.logical ∧
        tget (fun _ => none) t.contexts n = none) ∧
    (∀ b, v.role = 0 → v.due = true → v.pstate ≠ 1 → s.canCut c.key = true → (∀ o, v.mx.shadowSet = some o → o.check = false) →
      s.freeStandIn c.die.val = some b → b ≠ c.key →
      ∃ t, exec (.handover c) s = .next t ∧ (t.coreK b).logical = v.logical ∧ (t.coreK b).role = 0 ∧ (t.coreK b).part = v.part ∧
        (t.coreK b).pc = v.pc ∧ (t.coreK b).pr = v.pr ∧ (t.coreK b).mx.ledgers = v.mx.ledgers ∧ (t.core c).role = 3 ∧ (t.core c).due = false ∧
        (t.core c).part = none ∧ (t.core c).logical = 0x3FF) ∧
    (v.role = 0 → s.glb.dailyEn = true → s.idle c.key = true → v.saved = none → exec (.dailiesDue c) s = .next (s.modCore c (fun x =>
      { x with role := 3, home := x.logical, logical := 0x3FF, due := false, deferred := false }))) ∧
    (v.role = 0 → s.glb.dailyEn = true → s.idle c.key = false →
      ∃ t, exec (.dailiesDue c) s = .next t ∧ (t.core c).due = true ∧ (t.core c).role = 0 ∧ (t.core c).part = v.part ∧
        ((s.freeStandIn c.die.val) = none → (t.core c).deferred = true)) ∧
    (v.role = 0 → s.glb.dailyEn = false → exec (.dailiesDue c) s = .next s) ∧
    (v.deferred = true → v.pstate = 2 → v.faultWait = none → exec (.testDeferMax c) s = .next (s.modCore c (fun x => { x with pstate := 3, cut := some 2 }))) ∧
    (v.role = 3 → v.readmit = 0 → NoQueuedParts s → (∀ j ∈ s.jobs, j.2.testing = []) →
      (v.home = 0x3FF ∨ (s.physical v.home.toNat).isSome = true → ∃ t, exec (.blotterResult c true) s = .next t ∧ (t.core c).role = 1 ∧
        (t.core c).logical = 0x3FF) ∧
      (v.home ≠ 0x3FF → s.physical v.home.toNat = none → ∃ t, exec (.blotterResult c true) s = .next t ∧ (t.core c).role = 0 ∧
        (t.core c).logical = v.home) ∧
      ∃ t, exec (.blotterResult c false) s = .next t ∧ (t.core c).role = 4 ∧ (t.core c).fcause = 4 ∧ (t.core c).scratch = [] ∧
        (t.core c).organ = [] ∧ (t.core c).tl = [] ∧ (c.key, 4#4) ∈ t.boot.fences) ∧
    (v.role ≠ 4 → NoQueuedParts s →
      v.part = none ∨ (v.role ≠ 0 ∧ v.role ≠ 2) ∨ s.freeStandIn c.die.val ≠ none ∨ (∃ u, (s.releasePartner c.key).saveContext c.key = .ok u) →
      ∃ t, exec (.stagehandFault c) s = .next t ∧ (t.core c).role = 4 ∧
      (t.core c).fcause = 5 ∧ (t.core c).logical = 0x3FF ∧ (t.core c).part = none ∧ (c.key, 5#4) ∈ t.boot.fences)) ∧
  (∀ (e : Issued) (i : Nat), e.pc < 2 ^ 16 → e.pos < 2 ^ 64 → i < 2 ^ 32 → e.prv.map (·.1) = regsOf e.iw →
    Issued.ofRecord (e.record i) = { e with seq := i }) ∧
  (∀ a : RowAcc, RowAcc.ofBytes a.bytes = a) ∧
  (∀ (s : State) (d : Fin 16), (40 < (s.die d.val).clk → s.clocks = true → ∃ t, exec (.canaryTrip d) s = .next t ∧ (t.die d.val).clk = (s.die d.val).clk - 1 ∧
    (t.die d.val).tripped = true ∧ t.glb.flogHead = s.glb.flogHead + 1 ∧ t.cores = s.cores)) ∧
  (∀ (s : State) (d : Fin 16) (slack after : Int) (vofs : BitVec 4), s.ebtor = true →
    ∃ t, exec (.marginReplan d slack vofs after) s = .next t ∧ t.cores = s.cores ∧ (t.die d.val).fmaxFuse = (s.die d.val).fmaxFuse ∧
      (20 ≤ slack → (t.die d.val).fmax = (s.die d.val).fmax ∧ (t.die d.val).fmaxNext = (s.die d.val).fmaxNext ∧
        (t.die d.val).vofs = (s.die d.val).vofs ∧ (t.die d.val).lost = (s.die d.val).lost) ∧
      (40 < (s.die d.val).fmax.toNat → (t.die d.val).fmax.toNat ≤ (s.die d.val).fmax.toNat) ∧
      (slack < 20 → after < 20 → 40 < (s.die d.val).fmax.toNat → (s.die d.val).tripped = false →
        (t.die d.val).lost = true ∧ ∃ f, (t.die d.val).fmaxNext = some f ∧
          f.toNat = max 40 ((s.die d.val).fmax.toNat - ceilDiv (20 - after).toNat 5)))

/-- The SPDM responder answers each request in its channel, opens and ends sessions, and answers Busy during the
activation window. With a control die active: outside the window each request gets its response, evidence only of a part
that is not returned and while entropy is READY, with its bits taken from the pool or waiting for them; during the window
every one of them is answered Busy and nothing else happens. KEY_EXCHANGE opens a session unless 32 are open; FINISH establishes it; HEARTBEAT and KEY_UPDATE answer in an
established session; END_SESSION and a lost heartbeat end it and erase its sealed keys. MCTP carries SPDM only. An
unknown request is answered UnsupportedRequest. Where the spec is silent the clauses follow the model's choices of log
entries 4, 7, 43. (15 R436, 15 R437, 15 R438, 15 R442, 15 R445, 18 R492, 15 R433) -/
def Obligations.SpdmRequestsAreAnswered : Prop :=
  ∀ (s : State), s.ebtor = true →
    let err (ch code : Nat) := s.emit (.spdmError ch code)
    let holds (bits : Nat) : Prop := (s.cd s.activeCd).waiting = [] ∧ bits ≤ (s.cd s.activeCd).pool.toNat
    let took (bits : Nat) : State := s.modCd s.activeCd (fun c => { c with pool := BitVec.ofNat 10 (c.pool.toNat - bits) })
    (s.boot.fwuActivating = false → ∀ ch : Fin 3,
      exec (.getVersion ch) s = .next (s.emit (.spdm ch.val [0x10, 0x04, 0, 0, 0, 1, 0x00, 0x13])) ∧
      (∃ b, b.length = 10 ∧ exec (.getCapabilities ch) s = .next (s.reply ch.val 0x61 b)) ∧
      exec (.negotiateAlgorithms ch) s = .next (s.reply ch.val 0x63 [0, 0, 1, 0x80, 0, 0, 0, 2, 0, 0, 0, 0x10, 0, 2, 0]) ∧
      exec (.getDigests ch) s = .next (s.reply ch.val 0x01 (0 :: 1 :: digestBytes (Config.sha384 Config.certChain))) ∧
      (∀ (slot : Fin 8) off len, slot ≠ 0 → exec (.getCertificate ch slot off len) s = .next (err ch.val 1)) ∧
      (∀ off len, off < Config.certChain.length → let p := (Config.certChain.drop off).take len
        exec (.getCertificate ch 0 off len) s = .next (s.reply ch.val 0x02
          (leBytes 2 p.length ++ leBytes 2 (Config.certChain.length - off - p.length) ++ p))) ∧
      (∀ code, exec (.unsupportedRequest ch code) s = .next (err ch.val 7)) ∧
      (∀ nonce, s.sec.lifecycle = 2 → exec (.challenge ch nonce) s = .next (err ch.val 7) ∧
        (∀ i, exec (.getMeasurements ch i nonce) s = .next (err ch.val 7)) ∧ exec (.keyExchange ch nonce) s = .next (err ch.val 7)) ∧
      (∀ nonce, s.sec.lifecycle ≠ 2 → s.entropyOk = false → exec (.challenge ch nonce) s = .next (err ch.val 3) ∧
        (∀ i, exec (.getMeasurements ch i nonce) s = .next (err ch.val 3)) ∧ exec (.keyExchange ch nonce) s = .next (err ch.val 3)) ∧
      (∀ nonce, s.sec.lifecycle ≠ 2 → s.entropyOk = true →
        (holds 256 → exec (.challenge ch nonce) s =
            .next ((took 256).signed ch.val 0x03 nonce (digestBytes (Config.sha384 Config.certChain))) ∧
          ∀ m ∈ s.measurements, exec (.getMeasurements ch m.1 nonce) s = .next ((took 256).signed ch.val 0x60 nonce ([0, 1] ++ measBytes m))) ∧
        (¬ holds 256 → exec (.challenge ch nonce) s = .next s ∧ ∀ m ∈ s.measurements, exec (.getMeasurements ch m.1 nonce) s = .next s) ∧
        (32 ≤ s.sec.sessions.length → exec (.keyExchange ch nonce) s = .next (err ch.val 3)) ∧
        (s.sec.sessions.length < 32 → ¬ holds 512 → exec (.keyExchange ch nonce) s = .next s) ∧
        (s.sec.sessions.length < 32 → holds 512 → ∃ t x, (t.cd s.activeCd).pool.toNat = (s.cd s.activeCd).pool.toNat - 512 ∧ exec (.keyExchange ch nonce) s = .next t ∧ t.sec.sessions = s.sec.sessions ++ [x] ∧
          x.id = s.sec.nextSession ∧ x.port = ch.val ∧ x.finished = false ∧ t.sec.nextSession = s.sec.nextSession + 1 ∧ t.sec.wkeys = s.sec.wkeys))) ∧
    (s.boot.fwuActivating = true → ∀ (ch : Fin 3) nonce, exec (.getVersion ch) s = .next (err ch.val 3) ∧
      exec (.getCapabilities ch) s = .next (err ch.val 3) ∧ exec (.negotiateAlgorithms ch) s = .next (err ch.val 3) ∧
      exec (.getDigests ch) s = .next (err ch.val 3) ∧ (∀ i off len, exec (.getCertificate ch i off len) s = .next (err ch.val 3)) ∧
      exec (.challenge ch nonce) s = .next (err ch.val 3) ∧ (∀ i, exec (.getMeasurements ch i nonce) s = .next (err ch.val 3)) ∧
      exec (.keyExchange ch nonce) s = .next (err ch.val 3) ∧ ∀ code, exec (.unsupportedRequest ch code) s = .next (err ch.val 3)) ∧
    (∀ id x, s.boot.fwuActivating = false → s.session id = some x →
      (x.finished = false → ∀ (c : Option (List Byte)) o, exec (.finish id true c o) s =
        .next ((s.setSession { x with finished := true, chain := c.map Config.sha384, root := if c.isSome then o else none }).reply x.port 0x65 [0, 0])) ∧
      (x.finished = true → exec (.heartbeat id) s = .next (s.reply x.port 0x68 [0, 0]) ∧
        exec (.keyUpdate id) s = .next ((s.setSession { x with keyGen := x.keyGen + 1 }).reply x.port 0x69 [0, 0])) ∧
      (∃ t, exec (.endSession id) s = .next t ∧ (∀ e ∈ t.sec.sessions, e.id ≠ id) ∧
        ∀ k ∈ t.sec.wkeys, k ∈ s.sec.wkeys ∧ (k.2.bound = true ∨ k.2.session ≠ id)) ∧
      ∃ t, exec (.sessionHeartbeatLoss id) s = .next t ∧ (∀ e ∈ t.sec.sessions, e.id ≠ id) ∧
        ∀ k ∈ t.sec.wkeys, k ∈ s.sec.wkeys ∧ (k.2.bound = true ∨ k.2.session ≠ id)) ∧
    (∀ bytes, leAt bytes 0 1 ≠ 5 → exec (.mctpMessage bytes) s = .next s) ∧
    (∀ bytes, leAt bytes 0 1 = 5 → leAt bytes 2 1 = 0x84 → exec (.mctpMessage bytes) s = exec (.getVersion 2) s ∧
      (s.boot.fwuActivating = false → exec (.mctpMessage bytes) s = .next (s.emit (.spdm 2 [0x10, 0x04, 0, 0, 0, 1, 0x00, 0x13])))) ∧
    (∀ bytes, leAt bytes 0 1 = 5 → leAt bytes 2 1 = 0x81 → exec (.mctpMessage bytes) s = exec (.getDigests 2) s)

/-- Secured and mailbox commands open tenants, claim regions and install keys for those entitled, and the entropy source
serves requests. In an established session, outside the window, each command has its effect and status: TENANT_OPEN for
a mutually authenticated owner, TENANT_CLOSE, REGION_CLAIM and REGION_RELEASE and REEL_BIND for the owner, SEAL_INSTALL
and SEAL_REMOVE of a slot, CAK_INSTALL for the operator, OPERATOR_ROOT; others get NOT_OWNER and change nothing. During
the window each returns SEC_BUSY. SEC_STATUS answers; BIND_LOAD fills the first free slot; BIND_DROP empties one. IDE
keys make a stream Secure, a failed TLP Insecure. Entropy requests are served from the pool in order or refused. Where
the spec is silent the clauses follow the model's choices of log entries 4, 7, 43.
(15 R425, 15 R427, 15 R429, 15 R430, 15 R433, 15 R434, 15 R439, 15 R440, 15 R441, 08 R225, 08 R226, 18 R489) -/
def Obligations.SecuredCommandsKeysAndEntropy : Prop :=
  ∀ (s : State), s.ebtor = true →
    (∀ id x, s.session id = some x → x.finished = true → s.boot.fwuActivating = true →
      let busy := s.emit (.secured id 0x0504)
      (∀ i k f, exec (.tenantOpen id i k f) s = .next busy) ∧ (∀ i, exec (.tenantClose id i) s = .next busy) ∧
      (∀ i k, exec (.sealInstall id i k) s = .next busy) ∧ (∀ r, exec (.operatorRoot id r) s = .next busy) ∧
      (∀ r t, exec (.reelBind id r t) s = .next busy)) ∧
    (∀ id x, s.session id = some x → x.finished = true → s.boot.fwuActivating = false →
      let ok (t : State) := t.emit (.secured id 0)
      let no (st : Half) := s.emit (.secured id st)
      (∀ c (slot : BitVec 6) key (fl : Byte), slot ≠ 0 → fl.toNat < 4 →
        (x.chain = none → exec (.tenantOpen id slot key fl) s = .next (no 0x0508)) ∧
        (x.chain = some c → (s.tenant slot.toNat).opened = true → exec (.tenantOpen id slot key fl) s = .next (no 0x0506)) ∧
        (x.chain = some c → (s.tenant slot.toNat).opened = false → exec (.tenantOpen id slot key fl) s = .next (ok (s.modTenant slot.toNat (fun _ =>
          { opened := true, key := key, reqIde := fl.getLsbD 0, keep := fl.getLsbD 1, owner := c }))))) ∧
      (∀ slot : BitVec 6, slot ≠ 0 →
        (s.owns x slot = false → exec (.tenantClose id slot) s = .next (no 0x0508)) ∧
        (s.owns x slot = true → ∃ t : State, exec (.tenantClose id slot) s = .next (ok t) ∧ (t.tenant slot.toNat).opened = false ∧
          (∀ n : Nat, (t.reel n).tenant = slot → (t.reel n).en = false) ∧ ∀ k ∈ t.sec.wkeys, k ∈ s.sec.wkeys)) ∧
      (∀ (e : Byte) (g : RegionReq), g.kind ≠ 3 → ¬ (g.kind = 0 ∧ g.owner = 0) →
        (s.owns x g.owner = false → exec (.regionClaim id e g) s = .next (no 0x0508)) ∧
        (s.owns x g.owner = true → (∀ r ∈ s.sec.regions, r.1 ≠ e.toNat) → s.regionFits g = false →
          exec (.regionClaim id e g) s = .next (no 0x0507)) ∧
        (s.owns x g.owner = true → (∀ r ∈ s.sec.regions, r.1 ≠ e.toNat) → s.regionFits g = true → ∃ t : State,
          exec (.regionClaim id e g) s = .next (ok t) ∧ t.hbm.mem = s.hbm.mem ∧
          (t.sec.regions.map (·.1)) = (s.sec.regions.map (·.1)) ++ [e.toNat] ∧
          ∀ b : Nat, t.slate b = if g.base / 4096 ≤ b ∧ b < g.base / 4096 + g.len / 4096 then {} else s.slate b)) ∧
      (∀ (e : Byte) r, s.sec.regions.find? (fun y => y.1 == e.toNat) = some (e.toNat, r) →
        (s.owns x r.owner = false → exec (.regionRelease id e) s = .next (no 0x0508)) ∧
        (s.owns x r.owner = true → s.tenantBusy r.owner = false → s.sec.releasing = [] →
          (∀ y ∈ s.sec.regions, y.1 = e.toNat → y.2 = r) → ∃ t : State, exec (.regionRelease id e) s = .next (ok t) ∧ (∀ y ∈ t.sec.regions, y.1 ≠ e.toNat) ∧
          ∀ b : Nat, r.base / 4096 ≤ b → b < r.base / 4096 + r.len / 4096 → t.slate b = {})) ∧
      (∀ (e : Byte), (∀ y ∈ s.sec.regions, y.1 ≠ e.toNat) → exec (.regionRelease id e) s = .next (no 0x0507)) ∧
      (∀ (n : Fin 1024) (t : BitVec 6),
        ((s.reel n.val).en = true → exec (.reelBind id n t) s = .next (no 0x0104)) ∧
        ((s.reel n.val).en = false → s.owns x t = true → s.owns x (s.reel n.val).tenant = true →
          exec (.reelBind id n t) s = .next (ok (s.modReel n.val (fun r => { r with tenant := t })))) ∧
        ((s.reel n.val).en = false → s.owns x t = false → exec (.reelBind id n t) s = .next (no 0x0508))) ∧
      (∀ (i : Fin 32) key, s.wkey i.val = none → s.hubDown = false →
        ∃ t : State, exec (.sealInstall id i key) s = .next (ok t) ∧ t.wkey i.val = some { key := key, bound := false, session := id, bundle := 0, bundleLen := 0 } ∧
          t.hbm = s.hbm) ∧
      (∀ (i : Fin 32) key, s.wkey i.val ≠ none → exec (.sealInstall id i key) s = .next (no 0x0506)) ∧
      (∀ (i : Fin 32) w, s.wkey i.val = some w → w.bound = false →
        ∃ t : State, exec (.sealRemove id i) s = .next (ok t) ∧ t.wkey i.val = none ∧ ∀ j : Nat, j ≠ i.val → t.wkey j = s.wkey j) ∧
      (∀ (mask : BitVec 4) ckn cak, 1 ≤ ckn.length → ckn.length ≤ 32 →
        (x.root = none → exec (.cakInstall id mask ckn cak) s = .next (no 0x0508)) ∧
        (x.root ≠ none → x.root = s.sec.opRoot → ∃ t : State, exec (.cakInstall id mask ckn cak) s = .next (ok t) ∧ ∀ e : Nat, e < 4 →
          (mask.getLsbD e = true → (t.eth e).cak = some (ckn, cak) ∧ (t.eth e).secured = false) ∧ (mask.getLsbD e = false → t.eth e = s.eth e))) ∧
      (∀ root, (s.sec.opRoot = none ∨ x.root = s.sec.opRoot → exec (.operatorRoot id root) s = .next (ok (s.modSec (fun y => { y with opRoot := some root })))) ∧
        (s.sec.opRoot ≠ none → x.root ≠ s.sec.opRoot → exec (.operatorRoot id root) s = .next (no 0x0508)))) ∧
    (∀ (m : Fin 16) (body : BitVec 40) (tag : Word) bs, (s.mb m.val).full = true → (s.mb m.val).data.getLsbD 63 = true →
      (s.mb m.val).data.toNat % 2 ^ 40 = body.toNat → (s.mb m.val).data.toNat / 2 ^ 40 % 2 ^ 16 = s.glb.devId.toNat →
      s.bodyRead body.toNat 64 = .ok bs → leAt bs 4 4 = tag.toNat → leAt bs 2 2 = 0 → s.boot.fwuActivating = false →
      let u := s.emptyMailbox m.val
      (∀ z, leAt bs 0 2 = 1 → u.bodyWrite (body.toNat + 64) (leBytes 4 u.secState) = .ok z →
        exec (.secStatus m body tag) s = .next (z.post (m.val + 16) (eventWord 0 tag.toNat))) ∧
      (∀ key i z, leAt bs 0 2 = 2 → leAt bs 8 8 < 2 ^ 40 → u.openBundleAt (leAt bs 8 8) (leAt bs 16 4) = .ok key →
        (List.range 32).find? (fun i => (s.wkey i).isNone) = some i →
        let v := u.install i { key := key, bound := true, session := 0, bundle := BitVec.ofNat 40 (leAt bs 8 8), bundleLen := leAt bs 16 4 }
        v.bodyWrite (body.toNat + 64) (leBytes 4 i) = .ok z →
        exec (.bindLoad m body tag) s = .next (z.post (m.val + 16) (eventWord 0 tag.toNat))) ∧
      (leAt bs 0 2 = 3 → leAt bs 8 4 < 32 → ∃ t : State, exec (.bindDrop m body tag) s = .next (t.post (m.val + 16) (eventWord 0 tag.toNat)) ∧
        ((s.wkey (leAt bs 8 4)).any (·.bound) = true → t.wkey (leAt bs 8 4) = none))) ∧
    (∀ id x (st : Fin 5) k, s.session id = some x → x.finished = true → x.port < 2 → s.boot.fwuActivating = false →
      ∃ t, exec (.ideKm id st (some k)) s = .next t ∧ (st.val, k) ∈ (t.pf x.port).ideSecure ∧ st.val ∉ (t.pf x.port).ideInsecure) ∧
    (∀ (p : Fin 2) (st : Fin 5) k, (st.val, k) ∈ (s.pf p.val).ideSecure →
      ∃ t, exec (.ideIntegrityFailure p st) s = .next t ∧ st.val ∈ (t.pf p.val).ideInsecure ∧ (∀ e ∈ (t.pf p.val).ideSecure, e.1 ≠ st.val) ∧
        t.out = OutMsg.aerIde p st.val :: s.out) ∧
    (∀ bits : Nat, (s.entropyOk = false → exec (.entropyRequest bits) s = .next (s.emit (.entropy bits 0x0510))) ∧
      (s.entropyOk = true → (s.cd s.activeCd).waiting = [] → bits ≤ (s.cd s.activeCd).pool.toNat →
        ∃ t, exec (.entropyRequest bits) s = .next t ∧ t.out = OutMsg.entropy bits 0 :: s.out ∧
          (t.cd s.activeCd).pool.toNat = (s.cd s.activeCd).pool.toNat - bits)) ∧
    (∀ cd : Fin 2, (s.cd cd.val).entState = 0 →
      exec (.entropyReady cd) s = .next (s.modCd cd.val (fun c => { c with entState := 1, pool := 512 }))) ∧
    (∀ cd : Fin 2, (s.cd cd.val).entState ≠ 2 → ∃ t, exec (.healthTestFailure cd) s = .next t ∧ (t.cd cd.val).pool = 0 ∧
      (t.cd cd.val).waiting = [] ∧ (t.cd cd.val).fails = satInc (s.cd cd.val).fails ∧
      (t.cd cd.val).entState = if 2 ≤ (s.cd cd.val).fails.toNat then 2 else 0) ∧
    (∀ cd : Fin 2, (s.cd cd.val).entState = 2 →
      exec (.healthTestFailure cd) s = .next (s.modCd cd.val (fun c => { c with fails := satInc c.fails }))) ∧
    (∀ (cd : Fin 2) bits, (s.cd cd.val).entState = 1 → (s.cd cd.val).waiting = [] → (s.cd cd.val).pool.toNat ≤ 512 →
      ∃ t, exec (.poolRefill cd bits) s = .next t ∧ (t.cd cd.val).pool.toNat = min 512 ((s.cd cd.val).pool.toNat + bits) ∧ t.out = s.out)

/-- Grants stay within the budget and the ramp rule; samples move the ramp and the ballast; forecasts and THROTTLE# act.
A grant is issued to the first waiting batch that fits, and the granted power then stays within the budget and within
DSTEP of the ramp; where none fits nothing changes; under a plan it counts as a miss. A completed batch gives its grant
back and counts an overrun. A sample keeps ballast at 1,200 W or less (none under THROTTLE#), reports the draw, moves
the ramp limits and puts RAMP_SHORT in force exactly while ballast cannot hold the fall. A forecast carries the present
and forecast draw, the lead, its sequence and a CRC-8, twice when not acknowledged. THROTTLE# makes THR the budget,
stops ballast and raises no die clock; its release ends it. Where the spec is silent the clauses follow the model's
choices of log entries 6, 20, 53. (16 R448, 16 R450, 16 R451, 16 R453, 16 R455, 16 R457, 16 R458, 16 R461) -/
def Obligations.GrantsRampsAndThrottle : Prop :=
  ∀ s : State, NoQueuedParts s →
    (s.ebtor = true → s.clocks = true → s.pwr.thermTrip = false →
      ((∀ b ∈ s.waitingBatches, s.grantFits b = false) → exec .grantIssue s = .next s) ∧
      (∀ b, s.waitingBatches.find? s.grantFits = some b → ∃ t, exec .grantIssue s = .next t ∧
        t.pwr.grants = s.pwr.grants ++ [{ die := b.die, watts := b.watts, ref := b.ref, planned := false }] ∧
        t.granted = s.granted + b.watts ∧ t.granted ≤ t.pwr.budget ∧ t.granted ≤ t.pwr.rampFrom + 10 * t.pwr.dstep.toNat ∧
        t.pwr.planMiss = (if s.pwr.plan = none then s.pwr.planMiss else satInc s.pwr.planMiss) ∧
        t.pwr.excursions = (if s.pwr.plan = none then s.pwr.excursions else satInc s.pwr.excursions))) ∧
    (∀ (d : Fin 16) (r : ShotRef) (long : Bool), let own := fun (b : Batch) => b.die == d.val && b.ref == r
      (s.pwr.batches.any (fun b => own b && b.admitted) = true → ∃ t, exec (.batchComplete d r long) s = .next t ∧
        t.pwr.grants = s.pwr.grants.filter (fun g => !(g.die == d.val && g.ref == r)) ∧ (∀ b ∈ t.pwr.batches, own b = false) ∧
        t.pwr.overruns = s.pwr.overruns + b2n long) ∧
      (s.pwr.batches.any (fun b => own b && b.admitted) = false → exec (.batchComplete d r long) s = .next s)) ∧
    (∀ watts us : Nat, ∃ t, exec (.powerSample watts us) s = .next t ∧
      let fall := s.pwr.rampTo - s.pwr.rampDn.toNat * us / 1000
      let draw := watts + t.pwr.ballast
      t.pwr.ballast ≤ 1200 ∧ (s.pwr.throttle = true → t.pwr.ballast = 0 ∧ t.pwr.rampShort = false) ∧
      t.pwr.power.toNat = min draw 4095 ∧ t.pwr.rampFrom ≤ draw ∧ draw ≤ t.pwr.rampTo ∧
      t.pwr.rampFrom ≤ s.pwr.rampFrom + s.pwr.rampUp.toNat * us / 1000 ∧ (s.pwr.throttle = false → fall ≤ t.pwr.rampTo) ∧
      (s.pwr.throttle = false → (t.pwr.rampShort = true ↔ draw < fall - 10 * s.pwr.dstep.toNat)) ∧
      ((3, 16) ∈ t.pwr.excur ↔ t.pwr.rampShort = true) ∧ t.pwr.grants = s.pwr.grants ∧ t.cores = s.cores) ∧
    (∀ watts lead : Nat, s.ebtor = true → ∃ a,
      let b := leBytes 2 s.pwr.power.toNat ++ leBytes 2 watts ++ leBytes 2 lead ++ [s.pwr.fcSeq]
      let t := (s.modPwr (fun p => { p with forecast := watts, fcSeq := p.fcSeq + 1 })).emit (.i3cPlant a (b ++ [crc8 b]))
      exec (.forecast watts lead true) s = .next t ∧ exec (.forecast watts lead false) s = .next (t.emit (.i3cPlant a (b ++ [crc8 b])))) ∧
    (s.pwr.throttle = false → ∃ t, exec .throttleAssert s = .next t ∧ t.pwr.throttle = true ∧ t.pwr.ballast = 0 ∧ (4, 16) ∈ t.pwr.excur ∧
      t.pwr.budget = s.pwr.thr.toNat ∧ t.pwr.grants = s.pwr.grants ∧ (∀ d : Nat, (t.die d).clk ≤ (s.die d).clk) ∧
      (s.granted ≤ s.pwr.thr.toNat → t.dies = s.dies)) ∧
    (s.pwr.throttle = true → ∃ t, exec .throttleRelease s = .next t ∧ t.pwr.throttle = false ∧ (4, 16) ∉ t.pwr.excur ∧
      (s.pwr.plantFault = false → t.pwr.budget = s.pwr.cap.toNat) ∧ t.dies = s.dies) ∧
    exec .catTrip s = .next (s.modPwr (fun p => { p with catTrip := true })) ∧
    exec .vauxInRange s = .next (s.modPwr (fun p => { p with valveHigh := true }))

/-- Sensor readings and the valve, excursions of a die, thermal trips, plant and rail faults, and how each excursion
clears. PLT_STATUS takes readings not below 0 °C by R496 and keeps the last one of a silent sensor; Ebtor sets the valve
to its duty, or to 100 % with VALVE_AUTO = 0, a plant fault or a trip. An overdraw lowers the die's clock by 25 MHz and
a die at 100 °C by 100 MHz, counted once per excursion. A thermal trip stops every die, ends every grant and part and
holds the reels with a dispatched shot; a plant fault drops the budget to THR and opens the valve; a rail fault stops
its dies, ends their parts and holds the reels they served. Rows 2, 3, 5 and 7 clear; a trip clears only after RELEASE.
Where the spec is silent the clauses follow the model's choices of log entries 6, 53.
(16 R459, 16 R461, 16 R462, 16 R463, 18 R496) -/
def Obligations.CoolantExcursionsAndTrips : Prop :=
  ∀ s : State, NoQueuedParts s →
    (∀ (tin tout flow : Option Half) (duty : Nat), (∀ x, tin = some x → 0 ≤ x.toInt) → (∀ x, tout = some x → 0 ≤ x.toInt) →
      ∃ t, exec (.plantSensorRead tin tout flow duty) s = .next t ∧
        (∀ x, tin = some x → t.pwr.tin.toNat = x.toNat / 128) ∧ (tin = none → t.pwr.tin = s.pwr.tin) ∧
        (∀ x, tout = some x → t.pwr.tout.toNat = x.toNat / 128) ∧ (tout = none → t.pwr.tout = s.pwr.tout) ∧
        (∀ x, flow = some x → t.pwr.flow.toNat = min (x.toNat / 10) 255) ∧ (flow = none → t.pwr.flow = s.pwr.flow) ∧
        (tin ≠ none → tout ≠ none → flow ≠ none → t.pwr.snsOk = true) ∧ t.pwr.excur = s.pwr.excur ∧
        (s.ebtor = true → t.pwr.valveHigh = false ∧
          (s.pwr.valveAuto = true → s.pwr.plantFault = false → s.pwr.thermTrip = false → t.pwr.valve.toNat = min duty 100) ∧
          (s.pwr.valveAuto = false ∨ s.pwr.plantFault = true ∨ s.pwr.thermTrip = true → t.pwr.valve = 100))) ∧
    (∀ d : Fin 16,
      (41 ≤ (s.die d.val).clk → ∃ t, exec (.dieOverdraw d) s = .next t ∧ (t.die d.val).clk = (s.die d.val).clk - 1 ∧ (2, d.val) ∈ t.pwr.excur ∧
        t.pwr.excursions = (if (2, d.val) ∈ s.pwr.excur then s.pwr.excursions else satInc s.pwr.excursions) ∧
        ∀ n : Nat, n ≠ d.val → t.die n = s.die n) ∧
      (44 ≤ (s.die d.val).clk → ∃ t, exec (.dieHot d) s = .next t ∧ (t.die d.val).clk = (s.die d.val).clk - 4 ∧ (5, d.val) ∈ t.pwr.excur ∧
        t.pwr.excursions = (if (5, d.val) ∈ s.pwr.excur then s.pwr.excursions else satInc s.pwr.excursions) ∧
        ∀ n : Nat, n ≠ d.val → t.die n = s.die n)) ∧
    (s.pwr.thermTrip = true → exec .thermalTrip s = .next s) ∧
    (s.pwr.thermTrip = false → s.links.open_ = [] → ∃ t, exec .thermalTrip s = .next t ∧ t.pwr.thermTrip = true ∧ t.pwr.tripReleased = false ∧
      t.pwr.grants = [] ∧ t.pwr.valve = 100 ∧ (6, 16) ∈ t.pwr.excur ∧ (∀ d : Fin 16, (t.die d.val).stopped = true) ∧
      (∀ c : CoreId, (t.core c).part = none) ∧ ∀ x ∈ s.tracked, (t.reel x.reel.val).held = true) ∧
    (∀ row : Fin 3, ∃ t, exec (.plantFault row) s = .next t ∧ t.pwr.plantFault = true ∧ t.pwr.valve = 100 ∧ t.pwr.budget = s.pwr.thr.toNat ∧
      (7, 16) ∈ t.pwr.excur ∧ t.cores = s.cores ∧ t.tracked = s.tracked) ∧
    (∀ dies : Half, ∃ t, exec (.powerFault dies) s = .next t ∧
      (∀ d : Fin 16, (dies.getLsbD d.val = true → (t.die d.val).stopped = true) ∧
        (dies.getLsbD d.val = false → (t.die d.val).stopped = (s.die d.val).stopped) ∧
        (dies.getLsbD d.val = true → (s.die d.val).stopped = false → (8, d.val) ∈ t.pwr.excur ∧ ∀ n : Fin 34, (t.core ⟨d, n⟩).part = none)) ∧
      ∀ x ∈ s.tracked, (∃ q ∈ x.running, ∃ d : Fin 16, q.1 / 34 = d.val ∧ dies.getLsbD d.val = true ∧ (s.die d.val).stopped = false) →
        (t.reel x.reel.val).held = true) ∧
    (∀ (row : Fin 8) (die : Nat), row.val = 1 ∨ row.val = 2 ∨ row.val = 4 →
      exec (.excursionClear row die) s = .next (s.modPwr (fun p => { p with excur := p.excur.filter (· ≠ (row.val + 1, die)) }))) ∧
    (∀ die : Nat, ∃ t, exec (.excursionClear 6 die) s = .next t ∧ t.pwr.plantFault = false ∧ (7, 16) ∉ t.pwr.excur ∧ t.dies = s.dies) ∧
    (∀ die : Nat, (s.pwr.tripReleased = false → exec (.excursionClear 5 die) s = .next s) ∧
      (s.pwr.thermTrip = true → s.pwr.tripReleased = true → ∃ t, exec (.excursionClear 5 die) s = .next t ∧ t.pwr.thermTrip = false ∧
        (6, 16) ∉ t.pwr.excur ∧ ∀ d : Fin 16, (8, d.val) ∉ s.pwr.excur → (t.die d.val).stopped = false))

/-- The boot stages with bank selection and boot errors, and the reach of cold, warm, function, die, hub and core
resets. A cold reset clears the device to stage 0 and keeps flash, fuses and host memory. Each stage follows the last
with what Table 17-1 gives it, or stops the boot with its ERR. A warm reset waits for the activation window to close,
else ends shots, reels, sessions, tenants and slates and goes on after stage 0x04. A function reset clears EN of its
port's reels, flushes those that had it, and ends its sessions and streams. GLB_RST_CTRL's OPs begin with BUSY (or are
counted while BUSY); their parts fail, epochs advance, sealed slots go, and they end with cores back or fenced. A key of
tenant 0 waits for 512 bits of entropy; stage 0x05 gives the configuration headers of Table 18-1. (Bank A
before B at equal SEQ, and what a warm reset keeps of the boot status, are log entry 15.) Where the spec is silent the
clauses follow the model's choices of log entry 50.
(17 R467, 17 R468, 17 R469, 17 R472, 17 R479, 17 R480, 17 R481, 17 R482, 10 R280, 15 R443, 01 R38, 18 R504) -/
def Obligations.BootAndResets : Prop :=
  (∀ (s : State) (v : Bool), ∃ t, exec (.coldReset v) s = .next t ∧ t.tracked = [] ∧ t.reels = [] ∧ t.hbm.mem = [] ∧ t.hbm.slates = [] ∧
    t.cores = [] ∧ t.boot.stage = 0 ∧ t.boot.done = false ∧ t.boot.failed = false ∧ t.ebtor = false ∧ t.sec.sessions = [] ∧
    t.sec.wkeys = [] ∧ t.clap.count = 0 ∧ t.boot.bankA = s.boot.bankA ∧ t.boot.bankB = s.boot.bankB ∧ t.boot.minSvn = s.boot.minSvn ∧
    t.boot.fences = s.boot.fences ∧ t.boot.repairs = s.boot.repairs ∧ t.host = s.host ∧ t.pending = s.pending ∧
    t.pwr.catTrip = (s.pwr.catTrip && !v)) ∧
  (∀ s : State, s.boot.done = false → s.boot.failed = false → s.pwr.catTrip = false →
    let run (e : BitVec 4) (a b : Bool) := exec (.bootStage e a b 0 []) s
    let keyed : Prop := (s.cd s.activeCd).waiting = [] ∧ 512 ≤ (s.cd s.activeCd).pool.toNat
    (∀ e : BitVec 4, e ≠ 0 → e ≠ 5 → e.toNat < 8 → ∀ a b, ∃ t, run e a b = .next t ∧ t.boot.failed = true ∧ t.boot.err = e ∧
      t.boot.stage = s.boot.stage) ∧
    (s.boot.stage = 0 → ∃ t, run 0 true true = .next t ∧ (if s.boot.stepping = 0xA1 ∨ s.boot.stepping = 0xB0
      then t.boot.stage = 1 ∧ t.boot.failed = false else t.boot.stage = 0 ∧ t.boot.failed = true ∧ t.boot.err = 1)) ∧
    (s.boot.stage = 1 → (s.boot.bankA = none → s.boot.bankB = none →
        ∃ t, run 0 true true = .next t ∧ t.boot.failed = true ∧ t.boot.err = 2) ∧
      (∀ h, s.boot.bankA = some h → s.boot.bankB = none → h.valid = true → h.sound = true → h.state = 2 →
        (s.boot.minSvn.toNat ≤ h.svn.toNat → ∃ t, run 0 true true = .next t ∧ t.boot.stage = 2 ∧ t.boot.bank = false ∧
          t.boot.fallback = false ∧ t.boot.udsLocked = true ∧ t.boot.trial = false) ∧
        (h.svn.toNat < s.boot.minSvn.toNat → ∃ t, run 0 true true = .next t ∧ t.boot.failed = true ∧ t.boot.err = 3)) ∧
      (∀ g h, s.boot.bankA = some g → s.boot.bankB = some h → g.valid = true → g.state.toNat ≤ 3 → g.sound = false → h.valid = true →
        h.sound = true → h.state = 0 → s.boot.minSvn.toNat ≤ h.svn.toNat → h.seq.toNat < g.seq.toNat →
        ∃ t, run 0 true true = .next t ∧ t.boot.stage = 2 ∧ t.boot.bank = true ∧ t.boot.fallback = true ∧ t.boot.trial = true ∧
          t.boot.bankB = some { h with state := 1, attempts := 1 } ∧ t.boot.bankA = some g)) ∧
    (s.boot.stage = 2 → ∀ a b, ∃ t, run 0 a b = .next t ∧ (a = true → t.glb.active = 1) ∧ (a = false → b = true → t.glb.active = 2) ∧
      (a = true ∨ b = true → t.boot.stage = 3) ∧ (a = false → b = false → t.boot.failed = true ∧ t.boot.err = 6)) ∧
    (s.boot.stage = 3 → ((s.cd s.activeCd).entState = 2 → ∃ t, run 0 true true = .next t ∧ t.boot.failed = true ∧ t.boot.err = 7) ∧
      ((s.cd s.activeCd).entState = 0 → run 0 true true = .next s) ∧
      ((s.cd s.activeCd).entState = 1 → ¬ keyed → run 0 true true = .next s) ∧
      ((s.cd s.activeCd).entState = 1 → keyed → ∃ t, run 0 true true = .next t ∧ t.boot.stage = 4 ∧ (t.tenant 0).opened = true ∧
        ∀ h, s.boot.running = some h → t.glb.contKey = contKeyOf s.boot.stepping h.version (h.digests.getD 2 0) (h.digests.getD 3 0))) ∧
    (s.boot.stage = 4 → ((s.pf 0).perst = true → run 0 true true = .next s) ∧
      ((s.pf 0).perst = false → ∃ t h, run 0 true true = .next t ∧ t.boot.stage = 5 ∧ (t.pf 0).trained = true ∧
        t.configHeader 0 = some h ∧ h.device = 0x4E4B ∧ h.cls = 0x120000 ∧ h.revision = s.boot.stepping ∧
        ∀ i b, s.boot.running = some i → i.board = some b → h.subsys = b)) ∧
    (s.boot.stage = 5 → (s.tenant 0).opened = false → (s.cd s.activeCd).entState = 0 → run 0 true true = .next s) ∧
    (s.boot.stage = 5 → (s.tenant 0).opened = false → (s.cd s.activeCd).entState = 1 → keyed →
      ∃ t, run 0 true true = .next t ∧ t.boot.stage = 6 ∧ (t.tenant 0).opened = true) ∧
    (s.boot.stage = 5 → (s.tenant 0).opened = true → ∃ t, run 0 true true = .next t ∧ t.boot.stage = 6 ∧ ∀ h : Fin 8, (t.hub h.val).soft.length =
      (s.boot.repairs.filter (fun r => r.1 == h.val)).length) ∧
    (s.boot.stage = 6 → s.boot.warm = false → s.boot.fences = [] → ∀ (bad : Half) (cs : List CoreId),
      ∃ t, exec (.bootStage 0 true true bad cs) s = .next t ∧ t.boot.stage = 7 ∧ t.glb.lkat = true ∧
        (∀ d : Fin 16, bad.getLsbD d.val = true → d.val ∈ t.boot.dieOut) ∧ (bad ≠ 0 → t.boot.err = 5) ∧ t.boot.failed = false ∧
        ∀ c ∈ cs, bad.getLsbD c.die.val = false → c.die.val ∉ s.boot.dieOut → (t.core c).role = 4 ∧ (t.core c).fcause = 7) ∧
    (s.boot.stage = 7 → ∃ t, run 0 true true = .next t ∧ t.boot.stage = 8 ∧ ∀ e : Fin 4, (t.eth e.val).up = true) ∧
    (s.boot.stage = 8 → s.ebtor = true → run 0 true true = .next ((s.modBoot (fun b =>
      { b with stage := 0xFF, done := true, warm := false })).emit (.uart (Fin.ofNat 2 s.activeCd) [0xFF])))) ∧
  (∀ (s : State) e a b bad cs, s.boot.done = true ∨ s.boot.failed = true → exec (.bootStage e a b bad cs) s = .next s) ∧
  (∀ s : State, s.ebtor = true →
    (s.boot.fwuActivating = true → exec .warmReset s =
      .next ((s.modPf 0 (fun f => { f with perst := true })).modBoot (fun b => { b with warmPending := true }))) ∧
    (s.boot.fwuActivating = false → ∃ t, exec .warmReset s = .next t ∧ (t.pf 0).perst = true ∧ t.tracked = [] ∧ t.reels = [] ∧
      t.hbm.slates = [] ∧ t.hbm.mem = s.hbm.mem ∧ t.boot.stage = 4 ∧ t.boot.done = false ∧ t.boot.warm = true ∧ t.sec.sessions = [] ∧
      t.sec.regions = [] ∧ (∀ i : Nat, i < 64 → (t.tenant i).opened = false) ∧ t.glb.lkat = false ∧ t.clap.role = s.clap.role ∧
      t.clap.count = s.clap.count ∧ t.host = s.host ∧ t.boot.fences = s.boot.fences ∧ t.glb.takeovers = s.glb.takeovers ∧
      t.glb.active = s.glb.active ∧ (s.glb.idLock = true → t.glb.devId = s.glb.devId) ∧
      ∀ d : Nat, (t.die d).fmax = (s.die d).fmax ∧ (t.die d).vofs = (s.die d).vofs ∧ (t.die d).lost = (s.die d).lost)) ∧
  (∀ (s : State) (p : Fin 2) (perst : Bool), ∃ t, exec (.functionReset p perst) s = .next t ∧
    (∀ n : Nat, (s.reel n).owner.toNat = p.val → (t.reel n).en = false ∧
      (t.reel n).epoch = if (s.reel n).en then (s.reel n).epoch + 1 else (s.reel n).epoch) ∧
    (∀ n : Nat, (s.reel n).owner.toNat ≠ p.val → t.reel n = s.reel n) ∧ (∀ e ∈ t.sec.sessions, e.port ≠ p.val) ∧
    (t.pf p.val).ideSecure = [] ∧ (∀ e ∈ t.glb.hwin, e.1 / 64 ≠ p.val) ∧ t.boot.fwuBusy = s.boot.fwuBusy ∧ t.hbm.mem = s.hbm.mem) ∧
  (∀ (s : State) (p : Fin 2), (s.pf p.val).perst = true → exec (.perstRelease p) s = .next (s.modPf p.val (fun f =>
    { f with perst := false, trained := decide (5 ≤ s.boot.stage.toNat) && s.clocks }))) ∧
  (∀ (s : State) (v : Word), s.boot.rstBusy = true → exec (.rstOpCold v) s = .next s.rsv ∧ exec (.rstOpDie v) s = .next s.rsv ∧
    exec (.rstOpHub v) s = .next s.rsv ∧ exec (.rstOpHubForced v) s = .next s.rsv ∧ exec (.rstOpCore v) s = .next s.rsv) ∧
  (∀ (s : State) (v : Word), s.boot.rstBusy = false → bit v.toNat 27 = false → fld v.toNat 24 3 = 0 → fld v.toNat 1 5 = 0 →
    (fld v.toNat 16 8 = 0xC5 → exec (.rstOpCold v) s = exec (.coldReset false) s) ∧
    (fld v.toNat 16 8 ≠ 0xC5 → exec (.rstOpCold v) s = .next s.rsv) ∧
    (fld v.toNat 16 8 = 0 → s.ebtor = true → NoQueuedParts s →
      (∀ d : Fin 16, fld v.toNat 6 4 = d.val → ∃ t, exec (.rstOpDie v) s = .next t ∧ t.boot.rstBusy = true ∧ (t.die d.val).inReset = true ∧
        (∀ n : Fin 34, (t.core ⟨d, n⟩).part = none ∧ ((s.core ⟨d, n⟩).role = 4 → (t.core ⟨d, n⟩).role = 4)) ∧
        tget (fun _ => (0 : Word)) t.sec.epochs d.val = tget (fun _ => (0 : Word)) s.sec.epochs d.val + 1 ∧
        (∀ w ∈ (s.die d.val).touched, (s.wkey w).any (fun k => !k.bound) = true → t.wkey w = none) ∧ t.hbm = s.hbm ∧
        ∀ n : Nat, n ≠ d.val → t.die n = s.die n) ∧
      (∀ h : Fin 8, fld v.toNat 6 4 = h.val → ∃ t, exec (.rstOpHub v) s = .next t ∧ t.boot.rstBusy = true ∧ (t.hub h.val).inReset = true ∧
        (t.hub h.val).poison = (s.hub h.val).poison ∧ (t.hub h.val).lost = (s.hub h.val).lost ∧ t.hbm = s.hbm ∧
        tget (fun _ => (0 : Word)) t.sec.epochs (16 + h.val) = tget (fun _ => (0 : Word)) s.sec.epochs (16 + h.val) + 1 ∧
        ∀ w : Nat, (s.wkey w).any (fun k => !k.bound) = true → t.wkey w = none) ∧
      (∀ h : Fin 8, fld v.toNat 6 4 = h.val → (s.hub h.val).lost.length + (s.hub h.val).vault.length ≤ 16384 →
        ∃ t, exec (.rstOpHubForced v) s = .next t ∧ t.boot.rstBusy = true ∧ (t.hub h.val).inReset = true ∧ t.hbm = s.hbm ∧
        ∀ l ∈ (s.hub h.val).vault, l.dirty = true → hubOf l.blk = h.val → t.poisoned l.blk = true) ∧
      (∀ c : CoreId, fld v.toNat 6 4 = c.die.val → fld v.toNat 10 6 = c.core.val → ∃ t, exec (.rstOpCore v) s = .next t ∧
        t.boot.rstBusy = true ∧ (t.core c).part = none ∧ (t.core c).scratch = [] ∧ ((s.core c).role = 4 → s.isCueCore c.key = false →
        (t.core c).role = 4) ∧ ((s.core c).role = 0 → s.isCueCore c.key = false → (t.core c).role = 3) ∧ t.hbm = s.hbm))) ∧
  (∀ (s : State) (failed : List CoreId), NoQueuedParts s → (s.boot.rstWhat = none → exec (.resetComplete failed) s = .next s) ∧
    (∀ i p, s.boot.rstWhat = some (3, i, p) → ∃ t, exec (.resetComplete failed) s = .next t ∧ t.boot.rstBusy = false ∧
      t.boot.rstWhat = none ∧ (t.hub i).inReset = false) ∧
    (∀ (d : Fin 16) p, s.boot.rstWhat = some (2, d.val, p) → d.val ∉ s.boot.dieOut → ∃ t, exec (.resetComplete failed) s = .next t ∧
      t.boot.rstBusy = false ∧ (t.die d.val).inReset = false ∧ ∀ c : CoreId, c.die = d → (s.core c).role = 5 →
        (c ∈ failed → (t.core c).role = 4 ∧ (t.core c).fcause = 4) ∧ (c ∉ failed → (t.core c).role = 0 ∨ (t.core c).role = 1)) ∧
    (∀ c : CoreId, s.boot.rstWhat = some (4, c.die.val, c.core.val) → s.clocks = true → (s.core c).role = 4 → s.pwr.planAsk = none →
      ∃ t, exec (.resetComplete failed) s = .next t ∧ t.boot.rstBusy = false ∧ t.cores = s.cores ∧ t.glb.flogHead = s.glb.flogHead + 1))

/-- Firmware-update OPs with their ERR codes, the activation window, a takeover of the control die, and the JTAG port.
An OP while BUSY is ignored and counted. STAGE of a sound image ends with it NEW in the other bank, PENDING set, or with
SIGNATURE, SVN or FLASH; CONFIRM, REVERT and CANCEL change STATE, SEQ and PENDING as R475 and R478 say or fail with
STATE or NO_PENDING; ACTIVATE fails with NO_PENDING or LOADER, or stops dispatch and opens the window once nothing is
tracked. In the window the standby becomes active on the staged image, or ACT_FAIL leaves the old one; its close ends
sessions, sealed slots and tenants without KEEP_ON_UPDATE. A takeover makes the standby active and counts. JTAG shifts
IDCODE, drives balls under EXTEST, and in production every instrument but a monitor reads 0. Where the spec is silent
the clauses follow the model's choices of log entries 9, 16, 51.
(17 R474, 17 R475, 17 R476, 17 R477, 17 R478, 15 R442, 01 R38, 01 R39, 16 R465, 18 R493) -/
def Obligations.FirmwareUpdateTakeoverAndJtag : Prop :=
  (∀ s : State, s.boot.fwuBusy = true → (∀ img, exec (.fwuStage img) s = .next s.rsv) ∧ exec .fwuActivate s = .next s.rsv ∧
    exec .fwuConfirm s = .next s.rsv ∧ exec .fwuRevert s = .next s.rsv ∧ exec .fwuCancel s = .next s.rsv) ∧
  (∀ s : State, s.boot.fwuBusy = false → s.ebtor = true → s.boot.quiescing = false → s.boot.fwuActivating = false →
    -- the OP c, its flash writing good or not, has ended with an ERR code in a state that has P
    let ends (c : Instr) (flash : Bool) (err : BitVec 4) (P : Boot → Prop) : Prop := ∃ t u, exec c s = .next t ∧ t.boot.fwuBusy = true ∧
      exec (.fwuOpComplete flash) t = .next u ∧ u.boot.fwuErr = err ∧ u.boot.fwuBusy = false ∧ u.boot.bank = s.boot.bank ∧ P u.boot
    let same (b : Boot) : Prop := b.bankA = s.boot.bankA ∧ b.bankB = s.boot.bankB ∧ b.fwuPending = s.boot.fwuPending ∧ b.minSvn = s.boot.minSvn
    let next : Word := ((s.boot.running.map (·.seq)).getD 0) + 1
    let staged (i : ImageInfo) : ImageHeader :=
      { seq := next, version := i.version, svn := i.svn, state := 0, raise := i.raise, digests := i.digests,
        board := i.board }
    (∀ img : ImageInfo, let good := img.headerOk && img.sigOk && img.digestsOk
      (good = false → ∀ f, ends (.fwuStage img) f 1 same) ∧
      (good = true → img.svn.toNat < s.boot.minSvn.toNat → ∀ f, ends (.fwuStage img) f 2 same) ∧
      (good = true → s.boot.minSvn.toNat ≤ img.svn.toNat → ends (.fwuStage img) true 0 (fun b => b.fwuPending = true ∧
          b.running = s.boot.running ∧ b.other = some (staged img)) ∧
        ends (.fwuStage img) false 7 (fun b => b.running = s.boot.running ∧ b.fwuPending = false ∧ b.other = none))) ∧
    ((∀ h, s.boot.running = some h → h.state ≠ 1) → ∀ f, ends .fwuConfirm f 8 same) ∧
    (∀ h, s.boot.running = some h → h.state = 1 → ends .fwuConfirm true 0 (fun b => b.running = some { h with state := 2 } ∧ b.trial = false ∧
        b.minSvn = if h.raise = true ∧ s.boot.minSvn.toNat < h.svn.toNat then h.svn else s.boot.minSvn) ∧ ends .fwuConfirm false 7 same) ∧
    ((∀ h, s.boot.other = some h → ¬ (h.valid = true ∧ h.state = 2)) → ∀ f, ends .fwuRevert f 8 same) ∧
    (∀ h, s.boot.other = some h → h.valid = true → h.state = 2 → ends .fwuRevert true 0 (fun b => b.fwuPending = true ∧
      b.running = s.boot.running ∧ b.other = some { h with seq := next }) ∧ ends .fwuRevert false 7 same) ∧
    (s.boot.fwuPending = false → (∀ f, ends .fwuCancel f 3 same) ∧ ∀ f, ends .fwuActivate f 3 same) ∧
    (s.boot.fwuPending = true → ∀ h, s.boot.other = some h → ends .fwuCancel true 0 (fun b => b.fwuPending = false ∧
      b.running = s.boot.running ∧ b.other = some { h with state := 3 })) ∧
    (s.boot.fwuPending = true → ∀ g h, s.boot.running = some g → s.boot.other = some h →
      (h.digests.getD 0 0 ≠ g.digests.getD 0 0 → ∀ f, ends .fwuActivate f 4 same) ∧
      (h.digests.getD 0 0 = g.digests.getD 0 0 → ∃ t, exec .fwuActivate s = .next t ∧ t.boot.fwuBusy = true ∧ t.boot.quiescing = true ∧
        (t.boot.fwuActivating = true ↔ s.tracked = [])))) ∧
  (∀ s : State, s.boot.fwuActivating = false → s.boot.quiescing = true → exec .quiesce s =
    .next (s.modBoot (fun b => { b with quiescing := false, fwuResult := 5 }))) ∧
  (∀ s : State, s.boot.fwuActivating = true → s.boot.warmPending = false →
    (∀ h, s.boot.switched = false → s.ebtor = true → s.boot.fwuPending = true → s.boot.other = some h →
      ∃ t, exec .activationSwitch s = .next t ∧ t.glb.active = (if s.glb.active = 2 then 1 else 2) ∧ t.glb.takeovers = s.glb.takeovers ∧
        t.boot.running = some { h with state := 1, attempts := 1 } ∧ t.boot.fwuPending = false ∧ t.boot.switched = true ∧
        t.glb.contKey = contKeyOf s.boot.stepping h.version (h.digests.getD 2 0) (h.digests.getD 3 0)) ∧
    (s.boot.switched = false → ∃ t, exec .actFail s = .next t ∧ t.boot.fwuActivating = false ∧ t.boot.fwuPending = false ∧
      t.boot.fwuResult = 6 ∧ t.boot.running = s.boot.running ∧ t.boot.other = s.boot.other.map (fun h => { h with state := 3 }) ∧
      t.glb = s.glb ∧ t.sec = s.sec) ∧
    (s.boot.switched = true → ∃ t, exec .activationWindowClose s = .next t ∧ t.boot.fwuActivating = false ∧ t.boot.quiescing = false ∧
      t.sec.sessions = [] ∧ (∀ w : Nat, (s.wkey w).any (fun k => !k.bound) = true → t.wkey w = none) ∧
      (∀ i : Nat, 0 < i → i < 64 → (t.tenant i).opened = ((s.tenant i).opened && (s.tenant i).keep)) ∧
      (t.cd 0).ok = true ∧ (t.cd 1).ok = true)) ∧
  (∀ s : State, s.ebtor = true → let a := s.activeCd
    ((s.cd (1 - a)).ok = true → ∃ t, exec .takeover s = .next t ∧ t.glb.active = (if a = 0 then 2 else 1) ∧
      t.glb.takeovers = satInc s.glb.takeovers ∧ t.boot.switched = false ∧ (t.cd a).ok = false ∧ (t.cd a).waiting = [] ∧ t.pwr = s.pwr ∧
      t.journal = s.journal ∧ t.tracked = s.tracked ∧ t.reels = s.reels) ∧
    ((s.cd (1 - a)).ok = false → ∃ t, exec .takeover s = .next t ∧ t.ebtor = false ∧ t.pwr.valveHigh = true ∧ t.tracked = s.tracked)) ∧
  (∀ (s : State) (d : Dword) (bs : List (Nat × Bool)),
    let u (n : Nat) (drive : Bool) : State := { s with jtag := { s.jtag with ir := n, driving := drive } }
    exec (.jtagInstruction 0 d bs) s = .next ((u 0 false).emit (.tdo 0)) ∧
    (s.boot.stepping = 0xA1 → exec (.jtagInstruction 1 d bs) s = .next (((u 1 false).emit (.tdo 0x14E4BB47)).tick)) ∧
    (s.boot.stepping = 0xB0 → exec (.jtagInstruction 1 d bs) s = .next (((u 1 false).emit (.tdo 0x24E4BB47)).tick)) ∧
    (∃ t, exec (.jtagInstruction 2 d bs) s = .next t ∧ t.jtag.preload = bs ∧ t.jtag.driving = false) ∧
    exec (.jtagInstruction 3 d bs) s = .next (u 3 true) ∧
    (s.sec.lifecycle = 1 → exec (.jtagInstruction 4 d bs) s =
      .next ((u 4 false).emit (.tdo (if Config.isMonitor d.toNat then Config.instrument d.toNat else 0)))))

/-- Contributions that set neither WLOSS nor SAT add up exactly in the ledger, and any order of them gives the same
ledger. Into a ledger with neither WLOSS, SAT nor NaN set, let contributions be added that leave it so. Then each of
them is finite or −0, the ledger's value has grown by exactly the sum of the finite ones (all taken at a common weight
2^e at or below the window and every contribution), the window has not moved, and adding them in any other order that
does not set SAT on its way gives the same ledger, flags and all. (R78) -/
def Obligations.LedgerAdditionIsExactInOneOrderAsInAnother : Prop :=
  ∀ (g : Ledger) (xs : List Contrib), g.wloss = false → g.sat = false → g.nan = false →
    let out (ys : List Contrib) : Ledger := ys.foldl Ledger.add g
    (out xs).wloss = false → (out xs).sat = false → (out xs).nan = false →
    (∀ x ∈ xs, x = .negZero ∨ ∃ n e, x = .fin n e) ∧ (out xs).wbase = g.wbase ∧ (out xs).wide = g.wide ∧
    (∀ e : Int, e ≤ g.wbase → (∀ n f, Contrib.fin n f ∈ xs → e ≤ f) →
      (out xs).l * 2 ^ (g.wbase - e).toNat = g.l * 2 ^ (g.wbase - e).toNat +
        (xs.map (fun x => match x with | .fin n f => n * 2 ^ (f - e).toNat | _ => 0)).sum) ∧
    ∀ ys : List Contrib, ys.Perm xs → (out ys).sat = false → out ys = out xs
end

