-- ==== Sys2Proof/Laws/Bytes.lean ====
section
/-!
SUPPORT. Bytes of a record, and the CRC of a block of zeros: what the proofs about packets, descriptors and records read fields by.
-/
namespace Sys2Proof

@[simp] theorem leBytes_length (n v : Nat) : (leBytes n v).length = n := by
  induction n generalizing v with
  | zero => rfl
  | succ n ih => simp [leBytes, ih]

theorem leNat_leBytes (n v : Nat) : leNat (leBytes n v) = v % 256 ^ n := by
  induction n generalizing v with
  | zero => simp [leBytes, leNat, Nat.mod_one]
  | succ n ih =>
    simp only [leBytes, leNat, ih, BitVec.toNat_ofNat]
    have h : 256 ^ (n + 1) = 256 * 256 ^ n := by rw [Nat.pow_succ, Nat.mul_comm]
    have k : (2 : Nat) ^ 8 = 256 := rfl
    rw [h, Nat.mod_mul, k]

@[simp] theorem bytesAt_length (l : List Byte) (a n : Nat) : (bytesAt l a n).length = n := by
  simp only [bytesAt, List.length_append, List.length_take, List.length_replicate, List.length_drop]; omega

/-- A list as its own first bytes. -/
theorem bytesAt_self (l : List Byte) : bytesAt l 0 l.length = l := by simp [bytesAt]

theorem bytesAt_append_left {l : List Byte} {a n : Nat} (r : List Byte) (h : a + n ≤ l.length) : bytesAt (l ++ r) a n = bytesAt l a n := by
  have h1 : a ≤ l.length := by omega
  have h2 : n ≤ (l.drop a).length := by simp; omega
  simp only [bytesAt, List.drop_append_of_le_length h1, List.take_append_of_le_length h2]

theorem bytesAt_append_right (l r : List Byte) (a n : Nat) : bytesAt (l ++ r) (l.length + a) n = bytesAt r a n := by
  have h : List.drop (l.length + a) l = [] := List.drop_eq_nil_of_le (by omega)
  simp [bytesAt, List.drop_append, h]

/-- A field of n bytes written first in a record. -/
theorem leAt_leBytes (n v : Nat) (r : List Byte) : leAt (leBytes n v ++ r) 0 n = v % 256 ^ n := by
  have h := bytesAt_append_left (l := leBytes n v) (a := 0) (n := n) r (by simp)
  have k := bytesAt_self (leBytes n v)
  simp only [leBytes_length] at k
  simp only [leAt, h, k, leNat_leBytes]

/-- A field behind the first n bytes of a record. -/
theorem leAt_append_right (l r : List Byte) (a n : Nat) : leAt (l ++ r) (l.length + a) n = leAt r a n := by
  simp only [leAt, bytesAt_append_right]

/-! ## Blocks of zeros -/

theorem crcByte_zero (w poly : Nat) : crcByte w poly 0 0 = 0 := by simp [crcByte]

/-- Leading zeros do not change CRC-64. -/
theorem crc64_zeros (n : Nat) (l : List Byte) : crc64 (zeros n ++ l) = crc64 l := by
  have h : ∀ n : Nat, (zeros n).foldl (crcByte 64 0x42F0E1EBA9EA3693) 0 = 0 := by
    intro n
    induction n with
    | zero => rfl
    | succ n ih => rw [show zeros (n + 1) = 0 :: zeros n from rfl, List.foldl_cons, crcByte_zero, ih]
  simp only [crc64, List.foldl_append, h]

/-- A transport block of zeros passes or fails by its slate alone (R316). -/
theorem checkTransport_zeros (sl : List Byte) (h : sl.length = 16) (acc : Machine.Accept) : Machine.checkTransport (zeros 4096 ++ sl) acc =
    Machine.slateStatus (Machine.slateOf sl) (crc64 (Machine.slateTail (Machine.slateOf sl)) == (Machine.slateOf sl).crc) acc := by
  have hz : (zeros 4096).length = 4096 := List.length_replicate
  have h1 : bytesAt (zeros 4096 ++ sl) 0 4096 = zeros 4096 := by
    rw [bytesAt_append_left sl (by omega)]
    have k := bytesAt_self (zeros 4096)
    rwa [hz] at k
  have h2 : bytesAt (zeros 4096 ++ sl) 4096 16 = sl := by
    have k := bytesAt_append_right (zeros 4096) sl 0 16
    rw [hz] at k
    exact k.trans (by have j := bytesAt_self sl; rwa [h] at j)
  unfold Machine.checkTransport
  rw [h1, h2]
  show Machine.slateStatus _ (Machine.slateCrc (zeros 4096) _ == _) _ = _
  rw [Machine.slateCrc, crc64_zeros]

end Sys2Proof
end

