-- ==== Sys2Proof/Laws/State.lean ====
section
/-!
SUPPORT. What each named update of the state does to each field of State: one lemma per field, so that no proof unfolds an update.
-/
namespace Sys2Proof.Machine

variable (s : State)

@[simp] theorem State.setReel_pending (n : Nat) (r : Reel) : (s.setReel n r).pending = s.pending := rfl
@[simp] theorem State.setReel_glb (n : Nat) (r : Reel) : (s.setReel n r).glb = s.glb := rfl
@[simp] theorem State.setReel_boot (n : Nat) (r : Reel) : (s.setReel n r).boot = s.boot := rfl
@[simp] theorem State.setReel_cds (n : Nat) (r : Reel) : (s.setReel n r).cds = s.cds := rfl
@[simp] theorem State.setReel_reels (n : Nat) (r : Reel) : (s.setReel n r).reels = tset s.reels n r := rfl
@[simp] theorem State.setReel_lastServed (n : Nat) (r : Reel) : (s.setReel n r).lastServed = s.lastServed := rfl
@[simp] theorem State.setReel_tracked (n : Nat) (r : Reel) : (s.setReel n r).tracked = s.tracked := rfl
@[simp] theorem State.setReel_journal (n : Nat) (r : Reel) : (s.setReel n r).journal = s.journal := rfl
@[simp] theorem State.setReel_jobs (n : Nat) (r : Reel) : (s.setReel n r).jobs = s.jobs := rfl
@[simp] theorem State.setReel_ckpt (n : Nat) (r : Reel) : (s.setReel n r).ckpt = s.ckpt := rfl
@[simp] theorem State.setReel_restore (n : Nat) (r : Reel) : (s.setReel n r).restore = s.restore := rfl
@[simp] theorem State.setReel_mbox (n : Nat) (r : Reel) : (s.setReel n r).mbox = s.mbox := rfl
@[simp] theorem State.setReel_pcie (n : Nat) (r : Reel) : (s.setReel n r).pcie = s.pcie := rfl
@[simp] theorem State.setReel_hbm (n : Nat) (r : Reel) : (s.setReel n r).hbm = s.hbm := rfl
@[simp] theorem State.setReel_hubs (n : Nat) (r : Reel) : (s.setReel n r).hubs = s.hubs := rfl
@[simp] theorem State.setReel_host (n : Nat) (r : Reel) : (s.setReel n r).host = s.host := rfl
@[simp] theorem State.setReel_cores (n : Nat) (r : Reel) : (s.setReel n r).cores = s.cores := rfl
@[simp] theorem State.setReel_contexts (n : Nat) (r : Reel) : (s.setReel n r).contexts = s.contexts := rfl
@[simp] theorem State.setReel_dies (n : Nat) (r : Reel) : (s.setReel n r).dies = s.dies := rfl
@[simp] theorem State.setReel_links (n : Nat) (r : Reel) : (s.setReel n r).links = s.links := rfl
@[simp] theorem State.setReel_clap (n : Nat) (r : Reel) : (s.setReel n r).clap = s.clap := rfl
@[simp] theorem State.setReel_sec (n : Nat) (r : Reel) : (s.setReel n r).sec = s.sec := rfl
@[simp] theorem State.setReel_pwr (n : Nat) (r : Reel) : (s.setReel n r).pwr = s.pwr := rfl
@[simp] theorem State.setReel_jtag (n : Nat) (r : Reel) : (s.setReel n r).jtag = s.jtag := rfl
@[simp] theorem State.setReel_fresh (n : Nat) (r : Reel) : (s.setReel n r).fresh = s.fresh := rfl
@[simp] theorem State.setReel_out (n : Nat) (r : Reel) : (s.setReel n r).out = s.out := rfl

@[simp] theorem State.modReel_pending (n : Nat) (g : Reel → Reel) : (s.modReel n g).pending = s.pending := rfl
@[simp] theorem State.modReel_glb (n : Nat) (g : Reel → Reel) : (s.modReel n g).glb = s.glb := rfl
@[simp] theorem State.modReel_boot (n : Nat) (g : Reel → Reel) : (s.modReel n g).boot = s.boot := rfl
@[simp] theorem State.modReel_cds (n : Nat) (g : Reel → Reel) : (s.modReel n g).cds = s.cds := rfl
@[simp] theorem State.modReel_reels (n : Nat) (g : Reel → Reel) : (s.modReel n g).reels = tset s.reels n (g (s.reel n)) := rfl
@[simp] theorem State.modReel_lastServed (n : Nat) (g : Reel → Reel) : (s.modReel n g).lastServed = s.lastServed := rfl
@[simp] theorem State.modReel_tracked (n : Nat) (g : Reel → Reel) : (s.modReel n g).tracked = s.tracked := rfl
@[simp] theorem State.modReel_journal (n : Nat) (g : Reel → Reel) : (s.modReel n g).journal = s.journal := rfl
@[simp] theorem State.modReel_jobs (n : Nat) (g : Reel → Reel) : (s.modReel n g).jobs = s.jobs := rfl
@[simp] theorem State.modReel_ckpt (n : Nat) (g : Reel → Reel) : (s.modReel n g).ckpt = s.ckpt := rfl
@[simp] theorem State.modReel_restore (n : Nat) (g : Reel → Reel) : (s.modReel n g).restore = s.restore := rfl
@[simp] theorem State.modReel_mbox (n : Nat) (g : Reel → Reel) : (s.modReel n g).mbox = s.mbox := rfl
@[simp] theorem State.modReel_pcie (n : Nat) (g : Reel → Reel) : (s.modReel n g).pcie = s.pcie := rfl
@[simp] theorem State.modReel_hbm (n : Nat) (g : Reel → Reel) : (s.modReel n g).hbm = s.hbm := rfl
@[simp] theorem State.modReel_hubs (n : Nat) (g : Reel → Reel) : (s.modReel n g).hubs = s.hubs := rfl
@[simp] theorem State.modReel_host (n : Nat) (g : Reel → Reel) : (s.modReel n g).host = s.host := rfl
@[simp] theorem State.modReel_cores (n : Nat) (g : Reel → Reel) : (s.modReel n g).cores = s.cores := rfl
@[simp] theorem State.modReel_contexts (n : Nat) (g : Reel → Reel) : (s.modReel n g).contexts = s.contexts := rfl
@[simp] theorem State.modReel_dies (n : Nat) (g : Reel → Reel) : (s.modReel n g).dies = s.dies := rfl
@[simp] theorem State.modReel_links (n : Nat) (g : Reel → Reel) : (s.modReel n g).links = s.links := rfl
@[simp] theorem State.modReel_clap (n : Nat) (g : Reel → Reel) : (s.modReel n g).clap = s.clap := rfl
@[simp] theorem State.modReel_sec (n : Nat) (g : Reel → Reel) : (s.modReel n g).sec = s.sec := rfl
@[simp] theorem State.modReel_pwr (n : Nat) (g : Reel → Reel) : (s.modReel n g).pwr = s.pwr := rfl
@[simp] theorem State.modReel_jtag (n : Nat) (g : Reel → Reel) : (s.modReel n g).jtag = s.jtag := rfl
@[simp] theorem State.modReel_fresh (n : Nat) (g : Reel → Reel) : (s.modReel n g).fresh = s.fresh := rfl
@[simp] theorem State.modReel_out (n : Nat) (g : Reel → Reel) : (s.modReel n g).out = s.out := rfl

@[simp] theorem State.setCore_pending (c : CoreId) (v : Core) : (s.setCore c v).pending = s.pending := rfl
@[simp] theorem State.setCore_glb (c : CoreId) (v : Core) : (s.setCore c v).glb = s.glb := rfl
@[simp] theorem State.setCore_boot (c : CoreId) (v : Core) : (s.setCore c v).boot = s.boot := rfl
@[simp] theorem State.setCore_cds (c : CoreId) (v : Core) : (s.setCore c v).cds = s.cds := rfl
@[simp] theorem State.setCore_reels (c : CoreId) (v : Core) : (s.setCore c v).reels = s.reels := rfl
@[simp] theorem State.setCore_lastServed (c : CoreId) (v : Core) : (s.setCore c v).lastServed = s.lastServed := rfl
@[simp] theorem State.setCore_tracked (c : CoreId) (v : Core) : (s.setCore c v).tracked = s.tracked := rfl
@[simp] theorem State.setCore_journal (c : CoreId) (v : Core) : (s.setCore c v).journal = s.journal := rfl
@[simp] theorem State.setCore_jobs (c : CoreId) (v : Core) : (s.setCore c v).jobs = s.jobs := rfl
@[simp] theorem State.setCore_ckpt (c : CoreId) (v : Core) : (s.setCore c v).ckpt = s.ckpt := rfl
@[simp] theorem State.setCore_restore (c : CoreId) (v : Core) : (s.setCore c v).restore = s.restore := rfl
@[simp] theorem State.setCore_mbox (c : CoreId) (v : Core) : (s.setCore c v).mbox = s.mbox := rfl
@[simp] theorem State.setCore_pcie (c : CoreId) (v : Core) : (s.setCore c v).pcie = s.pcie := rfl
@[simp] theorem State.setCore_hbm (c : CoreId) (v : Core) : (s.setCore c v).hbm = s.hbm := rfl
@[simp] theorem State.setCore_hubs (c : CoreId) (v : Core) : (s.setCore c v).hubs = s.hubs := rfl
@[simp] theorem State.setCore_host (c : CoreId) (v : Core) : (s.setCore c v).host = s.host := rfl
@[simp] theorem State.setCore_cores (c : CoreId) (v : Core) : (s.setCore c v).cores = tset s.cores c.key v := rfl
@[simp] theorem State.setCore_contexts (c : CoreId) (v : Core) : (s.setCore c v).contexts = s.contexts := rfl
@[simp] theorem State.setCore_dies (c : CoreId) (v : Core) : (s.setCore c v).dies = s.dies := rfl
@[simp] theorem State.setCore_links (c : CoreId) (v : Core) : (s.setCore c v).links = s.links := rfl
@[simp] theorem State.setCore_clap (c : CoreId) (v : Core) : (s.setCore c v).clap = s.clap := rfl
@[simp] theorem State.setCore_sec (c : CoreId) (v : Core) : (s.setCore c v).sec = s.sec := rfl
@[simp] theorem State.setCore_pwr (c : CoreId) (v : Core) : (s.setCore c v).pwr = s.pwr := rfl
@[simp] theorem State.setCore_jtag (c : CoreId) (v : Core) : (s.setCore c v).jtag = s.jtag := rfl
@[simp] theorem State.setCore_fresh (c : CoreId) (v : Core) : (s.setCore c v).fresh = s.fresh := rfl
@[simp] theorem State.setCore_out (c : CoreId) (v : Core) : (s.setCore c v).out = s.out := rfl

@[simp] theorem State.modCore_pending (c : CoreId) (g : Core → Core) : (s.modCore c g).pending = s.pending := rfl
@[simp] theorem State.modCore_glb (c : CoreId) (g : Core → Core) : (s.modCore c g).glb = s.glb := rfl
@[simp] theorem State.modCore_boot (c : CoreId) (g : Core → Core) : (s.modCore c g).boot = s.boot := rfl
@[simp] theorem State.modCore_cds (c : CoreId) (g : Core → Core) : (s.modCore c g).cds = s.cds := rfl
@[simp] theorem State.modCore_reels (c : CoreId) (g : Core → Core) : (s.modCore c g).reels = s.reels := rfl
@[simp] theorem State.modCore_lastServed (c : CoreId) (g : Core → Core) : (s.modCore c g).lastServed = s.lastServed := rfl
@[simp] theorem State.modCore_tracked (c : CoreId) (g : Core → Core) : (s.modCore c g).tracked = s.tracked := rfl
@[simp] theorem State.modCore_journal (c : CoreId) (g : Core → Core) : (s.modCore c g).journal = s.journal := rfl
@[simp] theorem State.modCore_jobs (c : CoreId) (g : Core → Core) : (s.modCore c g).jobs = s.jobs := rfl
@[simp] theorem State.modCore_ckpt (c : CoreId) (g : Core → Core) : (s.modCore c g).ckpt = s.ckpt := rfl
@[simp] theorem State.modCore_restore (c : CoreId) (g : Core → Core) : (s.modCore c g).restore = s.restore := rfl
@[simp] theorem State.modCore_mbox (c : CoreId) (g : Core → Core) : (s.modCore c g).mbox = s.mbox := rfl
@[simp] theorem State.modCore_pcie (c : CoreId) (g : Core → Core) : (s.modCore c g).pcie = s.pcie := rfl
@[simp] theorem State.modCore_hbm (c : CoreId) (g : Core → Core) : (s.modCore c g).hbm = s.hbm := rfl
@[simp] theorem State.modCore_hubs (c : CoreId) (g : Core → Core) : (s.modCore c g).hubs = s.hubs := rfl
@[simp] theorem State.modCore_host (c : CoreId) (g : Core → Core) : (s.modCore c g).host = s.host := rfl
@[simp] theorem State.modCore_cores (c : CoreId) (g : Core → Core) : (s.modCore c g).cores = tset s.cores c.key (g (s.core c)) := rfl
@[simp] theorem State.modCore_contexts (c : CoreId) (g : Core → Core) : (s.modCore c g).contexts = s.contexts := rfl
@[simp] theorem State.modCore_dies (c : CoreId) (g : Core → Core) : (s.modCore c g).dies = s.dies := rfl
@[simp] theorem State.modCore_links (c : CoreId) (g : Core → Core) : (s.modCore c g).links = s.links := rfl
@[simp] theorem State.modCore_clap (c : CoreId) (g : Core → Core) : (s.modCore c g).clap = s.clap := rfl
@[simp] theorem State.modCore_sec (c : CoreId) (g : Core → Core) : (s.modCore c g).sec = s.sec := rfl
@[simp] theorem State.modCore_pwr (c : CoreId) (g : Core → Core) : (s.modCore c g).pwr = s.pwr := rfl
@[simp] theorem State.modCore_jtag (c : CoreId) (g : Core → Core) : (s.modCore c g).jtag = s.jtag := rfl
@[simp] theorem State.modCore_fresh (c : CoreId) (g : Core → Core) : (s.modCore c g).fresh = s.fresh := rfl
@[simp] theorem State.modCore_out (c : CoreId) (g : Core → Core) : (s.modCore c g).out = s.out := rfl

@[simp] theorem State.modCoreK_pending (k : Nat) (g : Core → Core) : (s.modCoreK k g).pending = s.pending := rfl
@[simp] theorem State.modCoreK_glb (k : Nat) (g : Core → Core) : (s.modCoreK k g).glb = s.glb := rfl
@[simp] theorem State.modCoreK_boot (k : Nat) (g : Core → Core) : (s.modCoreK k g).boot = s.boot := rfl
@[simp] theorem State.modCoreK_cds (k : Nat) (g : Core → Core) : (s.modCoreK k g).cds = s.cds := rfl
@[simp] theorem State.modCoreK_reels (k : Nat) (g : Core → Core) : (s.modCoreK k g).reels = s.reels := rfl
@[simp] theorem State.modCoreK_lastServed (k : Nat) (g : Core → Core) : (s.modCoreK k g).lastServed = s.lastServed := rfl
@[simp] theorem State.modCoreK_tracked (k : Nat) (g : Core → Core) : (s.modCoreK k g).tracked = s.tracked := rfl
@[simp] theorem State.modCoreK_journal (k : Nat) (g : Core → Core) : (s.modCoreK k g).journal = s.journal := rfl
@[simp] theorem State.modCoreK_jobs (k : Nat) (g : Core → Core) : (s.modCoreK k g).jobs = s.jobs := rfl
@[simp] theorem State.modCoreK_ckpt (k : Nat) (g : Core → Core) : (s.modCoreK k g).ckpt = s.ckpt := rfl
@[simp] theorem State.modCoreK_restore (k : Nat) (g : Core → Core) : (s.modCoreK k g).restore = s.restore := rfl
@[simp] theorem State.modCoreK_mbox (k : Nat) (g : Core → Core) : (s.modCoreK k g).mbox = s.mbox := rfl
@[simp] theorem State.modCoreK_pcie (k : Nat) (g : Core → Core) : (s.modCoreK k g).pcie = s.pcie := rfl
@[simp] theorem State.modCoreK_hbm (k : Nat) (g : Core → Core) : (s.modCoreK k g).hbm = s.hbm := rfl
@[simp] theorem State.modCoreK_hubs (k : Nat) (g : Core → Core) : (s.modCoreK k g).hubs = s.hubs := rfl
@[simp] theorem State.modCoreK_host (k : Nat) (g : Core → Core) : (s.modCoreK k g).host = s.host := rfl
@[simp] theorem State.modCoreK_cores (k : Nat) (g : Core → Core) : (s.modCoreK k g).cores = tset s.cores k (g (s.coreK k)) := rfl
@[simp] theorem State.modCoreK_contexts (k : Nat) (g : Core → Core) : (s.modCoreK k g).contexts = s.contexts := rfl
@[simp] theorem State.modCoreK_dies (k : Nat) (g : Core → Core) : (s.modCoreK k g).dies = s.dies := rfl
@[simp] theorem State.modCoreK_links (k : Nat) (g : Core → Core) : (s.modCoreK k g).links = s.links := rfl
@[simp] theorem State.modCoreK_clap (k : Nat) (g : Core → Core) : (s.modCoreK k g).clap = s.clap := rfl
@[simp] theorem State.modCoreK_sec (k : Nat) (g : Core → Core) : (s.modCoreK k g).sec = s.sec := rfl
@[simp] theorem State.modCoreK_pwr (k : Nat) (g : Core → Core) : (s.modCoreK k g).pwr = s.pwr := rfl
@[simp] theorem State.modCoreK_jtag (k : Nat) (g : Core → Core) : (s.modCoreK k g).jtag = s.jtag := rfl
@[simp] theorem State.modCoreK_fresh (k : Nat) (g : Core → Core) : (s.modCoreK k g).fresh = s.fresh := rfl
@[simp] theorem State.modCoreK_out (k : Nat) (g : Core → Core) : (s.modCoreK k g).out = s.out := rfl

@[simp] theorem State.modMx_pending (c : CoreId) (g : Mx → Mx) : (s.modMx c g).pending = s.pending := rfl
@[simp] theorem State.modMx_glb (c : CoreId) (g : Mx → Mx) : (s.modMx c g).glb = s.glb := rfl
@[simp] theorem State.modMx_boot (c : CoreId) (g : Mx → Mx) : (s.modMx c g).boot = s.boot := rfl
@[simp] theorem State.modMx_cds (c : CoreId) (g : Mx → Mx) : (s.modMx c g).cds = s.cds := rfl
@[simp] theorem State.modMx_reels (c : CoreId) (g : Mx → Mx) : (s.modMx c g).reels = s.reels := rfl
@[simp] theorem State.modMx_lastServed (c : CoreId) (g : Mx → Mx) : (s.modMx c g).lastServed = s.lastServed := rfl
@[simp] theorem State.modMx_tracked (c : CoreId) (g : Mx → Mx) : (s.modMx c g).tracked = s.tracked := rfl
@[simp] theorem State.modMx_journal (c : CoreId) (g : Mx → Mx) : (s.modMx c g).journal = s.journal := rfl
@[simp] theorem State.modMx_jobs (c : CoreId) (g : Mx → Mx) : (s.modMx c g).jobs = s.jobs := rfl
@[simp] theorem State.modMx_ckpt (c : CoreId) (g : Mx → Mx) : (s.modMx c g).ckpt = s.ckpt := rfl
@[simp] theorem State.modMx_restore (c : CoreId) (g : Mx → Mx) : (s.modMx c g).restore = s.restore := rfl
@[simp] theorem State.modMx_mbox (c : CoreId) (g : Mx → Mx) : (s.modMx c g).mbox = s.mbox := rfl
@[simp] theorem State.modMx_pcie (c : CoreId) (g : Mx → Mx) : (s.modMx c g).pcie = s.pcie := rfl
@[simp] theorem State.modMx_hbm (c : CoreId) (g : Mx → Mx) : (s.modMx c g).hbm = s.hbm := rfl
@[simp] theorem State.modMx_hubs (c : CoreId) (g : Mx → Mx) : (s.modMx c g).hubs = s.hubs := rfl
@[simp] theorem State.modMx_host (c : CoreId) (g : Mx → Mx) : (s.modMx c g).host = s.host := rfl
@[simp] theorem State.modMx_cores (c : CoreId) (g : Mx → Mx) : (s.modMx c g).cores = tset s.cores c.key { s.core c with mx := g (s.core c).mx } := rfl
@[simp] theorem State.modMx_contexts (c : CoreId) (g : Mx → Mx) : (s.modMx c g).contexts = s.contexts := rfl
@[simp] theorem State.modMx_dies (c : CoreId) (g : Mx → Mx) : (s.modMx c g).dies = s.dies := rfl
@[simp] theorem State.modMx_links (c : CoreId) (g : Mx → Mx) : (s.modMx c g).links = s.links := rfl
@[simp] theorem State.modMx_clap (c : CoreId) (g : Mx → Mx) : (s.modMx c g).clap = s.clap := rfl
@[simp] theorem State.modMx_sec (c : CoreId) (g : Mx → Mx) : (s.modMx c g).sec = s.sec := rfl
@[simp] theorem State.modMx_pwr (c : CoreId) (g : Mx → Mx) : (s.modMx c g).pwr = s.pwr := rfl
@[simp] theorem State.modMx_jtag (c : CoreId) (g : Mx → Mx) : (s.modMx c g).jtag = s.jtag := rfl
@[simp] theorem State.modMx_fresh (c : CoreId) (g : Mx → Mx) : (s.modMx c g).fresh = s.fresh := rfl
@[simp] theorem State.modMx_out (c : CoreId) (g : Mx → Mx) : (s.modMx c g).out = s.out := rfl

@[simp] theorem State.modDie_pending (d : Nat) (g : Die → Die) : (s.modDie d g).pending = s.pending := rfl
@[simp] theorem State.modDie_glb (d : Nat) (g : Die → Die) : (s.modDie d g).glb = s.glb := rfl
@[simp] theorem State.modDie_boot (d : Nat) (g : Die → Die) : (s.modDie d g).boot = s.boot := rfl
@[simp] theorem State.modDie_cds (d : Nat) (g : Die → Die) : (s.modDie d g).cds = s.cds := rfl
@[simp] theorem State.modDie_reels (d : Nat) (g : Die → Die) : (s.modDie d g).reels = s.reels := rfl
@[simp] theorem State.modDie_lastServed (d : Nat) (g : Die → Die) : (s.modDie d g).lastServed = s.lastServed := rfl
@[simp] theorem State.modDie_tracked (d : Nat) (g : Die → Die) : (s.modDie d g).tracked = s.tracked := rfl
@[simp] theorem State.modDie_journal (d : Nat) (g : Die → Die) : (s.modDie d g).journal = s.journal := rfl
@[simp] theorem State.modDie_jobs (d : Nat) (g : Die → Die) : (s.modDie d g).jobs = s.jobs := rfl
@[simp] theorem State.modDie_ckpt (d : Nat) (g : Die → Die) : (s.modDie d g).ckpt = s.ckpt := rfl
@[simp] theorem State.modDie_restore (d : Nat) (g : Die → Die) : (s.modDie d g).restore = s.restore := rfl
@[simp] theorem State.modDie_mbox (d : Nat) (g : Die → Die) : (s.modDie d g).mbox = s.mbox := rfl
@[simp] theorem State.modDie_pcie (d : Nat) (g : Die → Die) : (s.modDie d g).pcie = s.pcie := rfl
@[simp] theorem State.modDie_hbm (d : Nat) (g : Die → Die) : (s.modDie d g).hbm = s.hbm := rfl
@[simp] theorem State.modDie_hubs (d : Nat) (g : Die → Die) : (s.modDie d g).hubs = s.hubs := rfl
@[simp] theorem State.modDie_host (d : Nat) (g : Die → Die) : (s.modDie d g).host = s.host := rfl
@[simp] theorem State.modDie_cores (d : Nat) (g : Die → Die) : (s.modDie d g).cores = s.cores := rfl
@[simp] theorem State.modDie_contexts (d : Nat) (g : Die → Die) : (s.modDie d g).contexts = s.contexts := rfl
@[simp] theorem State.modDie_dies (d : Nat) (g : Die → Die) : (s.modDie d g).dies = tset s.dies d (g (s.die d)) := rfl
@[simp] theorem State.modDie_links (d : Nat) (g : Die → Die) : (s.modDie d g).links = s.links := rfl
@[simp] theorem State.modDie_clap (d : Nat) (g : Die → Die) : (s.modDie d g).clap = s.clap := rfl
@[simp] theorem State.modDie_sec (d : Nat) (g : Die → Die) : (s.modDie d g).sec = s.sec := rfl
@[simp] theorem State.modDie_pwr (d : Nat) (g : Die → Die) : (s.modDie d g).pwr = s.pwr := rfl
@[simp] theorem State.modDie_jtag (d : Nat) (g : Die → Die) : (s.modDie d g).jtag = s.jtag := rfl
@[simp] theorem State.modDie_fresh (d : Nat) (g : Die → Die) : (s.modDie d g).fresh = s.fresh := rfl
@[simp] theorem State.modDie_out (d : Nat) (g : Die → Die) : (s.modDie d g).out = s.out := rfl

@[simp] theorem State.modCue_pending (d : Nat) (g : Cue → Cue) : (s.modCue d g).pending = s.pending := rfl
@[simp] theorem State.modCue_glb (d : Nat) (g : Cue → Cue) : (s.modCue d g).glb = s.glb := rfl
@[simp] theorem State.modCue_boot (d : Nat) (g : Cue → Cue) : (s.modCue d g).boot = s.boot := rfl
@[simp] theorem State.modCue_cds (d : Nat) (g : Cue → Cue) : (s.modCue d g).cds = s.cds := rfl
@[simp] theorem State.modCue_reels (d : Nat) (g : Cue → Cue) : (s.modCue d g).reels = s.reels := rfl
@[simp] theorem State.modCue_lastServed (d : Nat) (g : Cue → Cue) : (s.modCue d g).lastServed = s.lastServed := rfl
@[simp] theorem State.modCue_tracked (d : Nat) (g : Cue → Cue) : (s.modCue d g).tracked = s.tracked := rfl
@[simp] theorem State.modCue_journal (d : Nat) (g : Cue → Cue) : (s.modCue d g).journal = s.journal := rfl
@[simp] theorem State.modCue_jobs (d : Nat) (g : Cue → Cue) : (s.modCue d g).jobs = s.jobs := rfl
@[simp] theorem State.modCue_ckpt (d : Nat) (g : Cue → Cue) : (s.modCue d g).ckpt = s.ckpt := rfl
@[simp] theorem State.modCue_restore (d : Nat) (g : Cue → Cue) : (s.modCue d g).restore = s.restore := rfl
@[simp] theorem State.modCue_mbox (d : Nat) (g : Cue → Cue) : (s.modCue d g).mbox = s.mbox := rfl
@[simp] theorem State.modCue_pcie (d : Nat) (g : Cue → Cue) : (s.modCue d g).pcie = s.pcie := rfl
@[simp] theorem State.modCue_hbm (d : Nat) (g : Cue → Cue) : (s.modCue d g).hbm = s.hbm := rfl
@[simp] theorem State.modCue_hubs (d : Nat) (g : Cue → Cue) : (s.modCue d g).hubs = s.hubs := rfl
@[simp] theorem State.modCue_host (d : Nat) (g : Cue → Cue) : (s.modCue d g).host = s.host := rfl
@[simp] theorem State.modCue_cores (d : Nat) (g : Cue → Cue) : (s.modCue d g).cores = s.cores := rfl
@[simp] theorem State.modCue_contexts (d : Nat) (g : Cue → Cue) : (s.modCue d g).contexts = s.contexts := rfl
@[simp] theorem State.modCue_dies (d : Nat) (g : Cue → Cue) : (s.modCue d g).dies = tset s.dies d { s.die d with cue := g (s.die d).cue } := rfl
@[simp] theorem State.modCue_links (d : Nat) (g : Cue → Cue) : (s.modCue d g).links = s.links := rfl
@[simp] theorem State.modCue_clap (d : Nat) (g : Cue → Cue) : (s.modCue d g).clap = s.clap := rfl
@[simp] theorem State.modCue_sec (d : Nat) (g : Cue → Cue) : (s.modCue d g).sec = s.sec := rfl
@[simp] theorem State.modCue_pwr (d : Nat) (g : Cue → Cue) : (s.modCue d g).pwr = s.pwr := rfl
@[simp] theorem State.modCue_jtag (d : Nat) (g : Cue → Cue) : (s.modCue d g).jtag = s.jtag := rfl
@[simp] theorem State.modCue_fresh (d : Nat) (g : Cue → Cue) : (s.modCue d g).fresh = s.fresh := rfl
@[simp] theorem State.modCue_out (d : Nat) (g : Cue → Cue) : (s.modCue d g).out = s.out := rfl

@[simp] theorem State.modHub_pending (h : Nat) (g : Hub → Hub) : (s.modHub h g).pending = s.pending := rfl
@[simp] theorem State.modHub_glb (h : Nat) (g : Hub → Hub) : (s.modHub h g).glb = s.glb := rfl
@[simp] theorem State.modHub_boot (h : Nat) (g : Hub → Hub) : (s.modHub h g).boot = s.boot := rfl
@[simp] theorem State.modHub_cds (h : Nat) (g : Hub → Hub) : (s.modHub h g).cds = s.cds := rfl
@[simp] theorem State.modHub_reels (h : Nat) (g : Hub → Hub) : (s.modHub h g).reels = s.reels := rfl
@[simp] theorem State.modHub_lastServed (h : Nat) (g : Hub → Hub) : (s.modHub h g).lastServed = s.lastServed := rfl
@[simp] theorem State.modHub_tracked (h : Nat) (g : Hub → Hub) : (s.modHub h g).tracked = s.tracked := rfl
@[simp] theorem State.modHub_journal (h : Nat) (g : Hub → Hub) : (s.modHub h g).journal = s.journal := rfl
@[simp] theorem State.modHub_jobs (h : Nat) (g : Hub → Hub) : (s.modHub h g).jobs = s.jobs := rfl
@[simp] theorem State.modHub_ckpt (h : Nat) (g : Hub → Hub) : (s.modHub h g).ckpt = s.ckpt := rfl
@[simp] theorem State.modHub_restore (h : Nat) (g : Hub → Hub) : (s.modHub h g).restore = s.restore := rfl
@[simp] theorem State.modHub_mbox (h : Nat) (g : Hub → Hub) : (s.modHub h g).mbox = s.mbox := rfl
@[simp] theorem State.modHub_pcie (h : Nat) (g : Hub → Hub) : (s.modHub h g).pcie = s.pcie := rfl
@[simp] theorem State.modHub_hbm (h : Nat) (g : Hub → Hub) : (s.modHub h g).hbm = s.hbm := rfl
@[simp] theorem State.modHub_hubs (h : Nat) (g : Hub → Hub) : (s.modHub h g).hubs = tset s.hubs h (g (s.hub h)) := rfl
@[simp] theorem State.modHub_host (h : Nat) (g : Hub → Hub) : (s.modHub h g).host = s.host := rfl
@[simp] theorem State.modHub_cores (h : Nat) (g : Hub → Hub) : (s.modHub h g).cores = s.cores := rfl
@[simp] theorem State.modHub_contexts (h : Nat) (g : Hub → Hub) : (s.modHub h g).contexts = s.contexts := rfl
@[simp] theorem State.modHub_dies (h : Nat) (g : Hub → Hub) : (s.modHub h g).dies = s.dies := rfl
@[simp] theorem State.modHub_links (h : Nat) (g : Hub → Hub) : (s.modHub h g).links = s.links := rfl
@[simp] theorem State.modHub_clap (h : Nat) (g : Hub → Hub) : (s.modHub h g).clap = s.clap := rfl
@[simp] theorem State.modHub_sec (h : Nat) (g : Hub → Hub) : (s.modHub h g).sec = s.sec := rfl
@[simp] theorem State.modHub_pwr (h : Nat) (g : Hub → Hub) : (s.modHub h g).pwr = s.pwr := rfl
@[simp] theorem State.modHub_jtag (h : Nat) (g : Hub → Hub) : (s.modHub h g).jtag = s.jtag := rfl
@[simp] theorem State.modHub_fresh (h : Nat) (g : Hub → Hub) : (s.modHub h g).fresh = s.fresh := rfl
@[simp] theorem State.modHub_out (h : Nat) (g : Hub → Hub) : (s.modHub h g).out = s.out := rfl

@[simp] theorem State.modCd_pending (n : Nat) (g : ControlDie → ControlDie) : (s.modCd n g).pending = s.pending := rfl
@[simp] theorem State.modCd_glb (n : Nat) (g : ControlDie → ControlDie) : (s.modCd n g).glb = s.glb := rfl
@[simp] theorem State.modCd_boot (n : Nat) (g : ControlDie → ControlDie) : (s.modCd n g).boot = s.boot := rfl
@[simp] theorem State.modCd_cds (n : Nat) (g : ControlDie → ControlDie) : (s.modCd n g).cds = tset s.cds n (g (s.cd n)) := rfl
@[simp] theorem State.modCd_reels (n : Nat) (g : ControlDie → ControlDie) : (s.modCd n g).reels = s.reels := rfl
@[simp] theorem State.modCd_lastServed (n : Nat) (g : ControlDie → ControlDie) : (s.modCd n g).lastServed = s.lastServed := rfl
@[simp] theorem State.modCd_tracked (n : Nat) (g : ControlDie → ControlDie) : (s.modCd n g).tracked = s.tracked := rfl
@[simp] theorem State.modCd_journal (n : Nat) (g : ControlDie → ControlDie) : (s.modCd n g).journal = s.journal := rfl
@[simp] theorem State.modCd_jobs (n : Nat) (g : ControlDie → ControlDie) : (s.modCd n g).jobs = s.jobs := rfl
@[simp] theorem State.modCd_ckpt (n : Nat) (g : ControlDie → ControlDie) : (s.modCd n g).ckpt = s.ckpt := rfl
@[simp] theorem State.modCd_restore (n : Nat) (g : ControlDie → ControlDie) : (s.modCd n g).restore = s.restore := rfl
@[simp] theorem State.modCd_mbox (n : Nat) (g : ControlDie → ControlDie) : (s.modCd n g).mbox = s.mbox := rfl
@[simp] theorem State.modCd_pcie (n : Nat) (g : ControlDie → ControlDie) : (s.modCd n g).pcie = s.pcie := rfl
@[simp] theorem State.modCd_hbm (n : Nat) (g : ControlDie → ControlDie) : (s.modCd n g).hbm = s.hbm := rfl
@[simp] theorem State.modCd_hubs (n : Nat) (g : ControlDie → ControlDie) : (s.modCd n g).hubs = s.hubs := rfl
@[simp] theorem State.modCd_host (n : Nat) (g : ControlDie → ControlDie) : (s.modCd n g).host = s.host := rfl
@[simp] theorem State.modCd_cores (n : Nat) (g : ControlDie → ControlDie) : (s.modCd n g).cores = s.cores := rfl
@[simp] theorem State.modCd_contexts (n : Nat) (g : ControlDie → ControlDie) : (s.modCd n g).contexts = s.contexts := rfl
@[simp] theorem State.modCd_dies (n : Nat) (g : ControlDie → ControlDie) : (s.modCd n g).dies = s.dies := rfl
@[simp] theorem State.modCd_links (n : Nat) (g : ControlDie → ControlDie) : (s.modCd n g).links = s.links := rfl
@[simp] theorem State.modCd_clap (n : Nat) (g : ControlDie → ControlDie) : (s.modCd n g).clap = s.clap := rfl
@[simp] theorem State.modCd_sec (n : Nat) (g : ControlDie → ControlDie) : (s.modCd n g).sec = s.sec := rfl
@[simp] theorem State.modCd_pwr (n : Nat) (g : ControlDie → ControlDie) : (s.modCd n g).pwr = s.pwr := rfl
@[simp] theorem State.modCd_jtag (n : Nat) (g : ControlDie → ControlDie) : (s.modCd n g).jtag = s.jtag := rfl
@[simp] theorem State.modCd_fresh (n : Nat) (g : ControlDie → ControlDie) : (s.modCd n g).fresh = s.fresh := rfl
@[simp] theorem State.modCd_out (n : Nat) (g : ControlDie → ControlDie) : (s.modCd n g).out = s.out := rfl

@[simp] theorem State.modMb_pending (m : Nat) (g : Mailbox → Mailbox) : (s.modMb m g).pending = s.pending := rfl
@[simp] theorem State.modMb_glb (m : Nat) (g : Mailbox → Mailbox) : (s.modMb m g).glb = s.glb := rfl
@[simp] theorem State.modMb_boot (m : Nat) (g : Mailbox → Mailbox) : (s.modMb m g).boot = s.boot := rfl
@[simp] theorem State.modMb_cds (m : Nat) (g : Mailbox → Mailbox) : (s.modMb m g).cds = s.cds := rfl
@[simp] theorem State.modMb_reels (m : Nat) (g : Mailbox → Mailbox) : (s.modMb m g).reels = s.reels := rfl
@[simp] theorem State.modMb_lastServed (m : Nat) (g : Mailbox → Mailbox) : (s.modMb m g).lastServed = s.lastServed := rfl
@[simp] theorem State.modMb_tracked (m : Nat) (g : Mailbox → Mailbox) : (s.modMb m g).tracked = s.tracked := rfl
@[simp] theorem State.modMb_journal (m : Nat) (g : Mailbox → Mailbox) : (s.modMb m g).journal = s.journal := rfl
@[simp] theorem State.modMb_jobs (m : Nat) (g : Mailbox → Mailbox) : (s.modMb m g).jobs = s.jobs := rfl
@[simp] theorem State.modMb_ckpt (m : Nat) (g : Mailbox → Mailbox) : (s.modMb m g).ckpt = s.ckpt := rfl
@[simp] theorem State.modMb_restore (m : Nat) (g : Mailbox → Mailbox) : (s.modMb m g).restore = s.restore := rfl
@[simp] theorem State.modMb_mbox (m : Nat) (g : Mailbox → Mailbox) : (s.modMb m g).mbox = tset s.mbox m (g (s.mb m)) := rfl
@[simp] theorem State.modMb_pcie (m : Nat) (g : Mailbox → Mailbox) : (s.modMb m g).pcie = s.pcie := rfl
@[simp] theorem State.modMb_hbm (m : Nat) (g : Mailbox → Mailbox) : (s.modMb m g).hbm = s.hbm := rfl
@[simp] theorem State.modMb_hubs (m : Nat) (g : Mailbox → Mailbox) : (s.modMb m g).hubs = s.hubs := rfl
@[simp] theorem State.modMb_host (m : Nat) (g : Mailbox → Mailbox) : (s.modMb m g).host = s.host := rfl
@[simp] theorem State.modMb_cores (m : Nat) (g : Mailbox → Mailbox) : (s.modMb m g).cores = s.cores := rfl
@[simp] theorem State.modMb_contexts (m : Nat) (g : Mailbox → Mailbox) : (s.modMb m g).contexts = s.contexts := rfl
@[simp] theorem State.modMb_dies (m : Nat) (g : Mailbox → Mailbox) : (s.modMb m g).dies = s.dies := rfl
@[simp] theorem State.modMb_links (m : Nat) (g : Mailbox → Mailbox) : (s.modMb m g).links = s.links := rfl
@[simp] theorem State.modMb_clap (m : Nat) (g : Mailbox → Mailbox) : (s.modMb m g).clap = s.clap := rfl
@[simp] theorem State.modMb_sec (m : Nat) (g : Mailbox → Mailbox) : (s.modMb m g).sec = s.sec := rfl
@[simp] theorem State.modMb_pwr (m : Nat) (g : Mailbox → Mailbox) : (s.modMb m g).pwr = s.pwr := rfl
@[simp] theorem State.modMb_jtag (m : Nat) (g : Mailbox → Mailbox) : (s.modMb m g).jtag = s.jtag := rfl
@[simp] theorem State.modMb_fresh (m : Nat) (g : Mailbox → Mailbox) : (s.modMb m g).fresh = s.fresh := rfl
@[simp] theorem State.modMb_out (m : Nat) (g : Mailbox → Mailbox) : (s.modMb m g).out = s.out := rfl

@[simp] theorem State.modPf_pending (p : Nat) (g : PcieFn → PcieFn) : (s.modPf p g).pending = s.pending := rfl
@[simp] theorem State.modPf_glb (p : Nat) (g : PcieFn → PcieFn) : (s.modPf p g).glb = s.glb := rfl
@[simp] theorem State.modPf_boot (p : Nat) (g : PcieFn → PcieFn) : (s.modPf p g).boot = s.boot := rfl
@[simp] theorem State.modPf_cds (p : Nat) (g : PcieFn → PcieFn) : (s.modPf p g).cds = s.cds := rfl
@[simp] theorem State.modPf_reels (p : Nat) (g : PcieFn → PcieFn) : (s.modPf p g).reels = s.reels := rfl
@[simp] theorem State.modPf_lastServed (p : Nat) (g : PcieFn → PcieFn) : (s.modPf p g).lastServed = s.lastServed := rfl
@[simp] theorem State.modPf_tracked (p : Nat) (g : PcieFn → PcieFn) : (s.modPf p g).tracked = s.tracked := rfl
@[simp] theorem State.modPf_journal (p : Nat) (g : PcieFn → PcieFn) : (s.modPf p g).journal = s.journal := rfl
@[simp] theorem State.modPf_jobs (p : Nat) (g : PcieFn → PcieFn) : (s.modPf p g).jobs = s.jobs := rfl
@[simp] theorem State.modPf_ckpt (p : Nat) (g : PcieFn → PcieFn) : (s.modPf p g).ckpt = s.ckpt := rfl
@[simp] theorem State.modPf_restore (p : Nat) (g : PcieFn → PcieFn) : (s.modPf p g).restore = s.restore := rfl
@[simp] theorem State.modPf_mbox (p : Nat) (g : PcieFn → PcieFn) : (s.modPf p g).mbox = s.mbox := rfl
@[simp] theorem State.modPf_pcie (p : Nat) (g : PcieFn → PcieFn) : (s.modPf p g).pcie = tset s.pcie p (g (s.pf p)) := rfl
@[simp] theorem State.modPf_hbm (p : Nat) (g : PcieFn → PcieFn) : (s.modPf p g).hbm = s.hbm := rfl
@[simp] theorem State.modPf_hubs (p : Nat) (g : PcieFn → PcieFn) : (s.modPf p g).hubs = s.hubs := rfl
@[simp] theorem State.modPf_host (p : Nat) (g : PcieFn → PcieFn) : (s.modPf p g).host = s.host := rfl
@[simp] theorem State.modPf_cores (p : Nat) (g : PcieFn → PcieFn) : (s.modPf p g).cores = s.cores := rfl
@[simp] theorem State.modPf_contexts (p : Nat) (g : PcieFn → PcieFn) : (s.modPf p g).contexts = s.contexts := rfl
@[simp] theorem State.modPf_dies (p : Nat) (g : PcieFn → PcieFn) : (s.modPf p g).dies = s.dies := rfl
@[simp] theorem State.modPf_links (p : Nat) (g : PcieFn → PcieFn) : (s.modPf p g).links = s.links := rfl
@[simp] theorem State.modPf_clap (p : Nat) (g : PcieFn → PcieFn) : (s.modPf p g).clap = s.clap := rfl
@[simp] theorem State.modPf_sec (p : Nat) (g : PcieFn → PcieFn) : (s.modPf p g).sec = s.sec := rfl
@[simp] theorem State.modPf_pwr (p : Nat) (g : PcieFn → PcieFn) : (s.modPf p g).pwr = s.pwr := rfl
@[simp] theorem State.modPf_jtag (p : Nat) (g : PcieFn → PcieFn) : (s.modPf p g).jtag = s.jtag := rfl
@[simp] theorem State.modPf_fresh (p : Nat) (g : PcieFn → PcieFn) : (s.modPf p g).fresh = s.fresh := rfl
@[simp] theorem State.modPf_out (p : Nat) (g : PcieFn → PcieFn) : (s.modPf p g).out = s.out := rfl

@[simp] theorem State.modLinks_pending (g : Links → Links) : (s.modLinks g).pending = s.pending := rfl
@[simp] theorem State.modLinks_glb (g : Links → Links) : (s.modLinks g).glb = s.glb := rfl
@[simp] theorem State.modLinks_boot (g : Links → Links) : (s.modLinks g).boot = s.boot := rfl
@[simp] theorem State.modLinks_cds (g : Links → Links) : (s.modLinks g).cds = s.cds := rfl
@[simp] theorem State.modLinks_reels (g : Links → Links) : (s.modLinks g).reels = s.reels := rfl
@[simp] theorem State.modLinks_lastServed (g : Links → Links) : (s.modLinks g).lastServed = s.lastServed := rfl
@[simp] theorem State.modLinks_tracked (g : Links → Links) : (s.modLinks g).tracked = s.tracked := rfl
@[simp] theorem State.modLinks_journal (g : Links → Links) : (s.modLinks g).journal = s.journal := rfl
@[simp] theorem State.modLinks_jobs (g : Links → Links) : (s.modLinks g).jobs = s.jobs := rfl
@[simp] theorem State.modLinks_ckpt (g : Links → Links) : (s.modLinks g).ckpt = s.ckpt := rfl
@[simp] theorem State.modLinks_restore (g : Links → Links) : (s.modLinks g).restore = s.restore := rfl
@[simp] theorem State.modLinks_mbox (g : Links → Links) : (s.modLinks g).mbox = s.mbox := rfl
@[simp] theorem State.modLinks_pcie (g : Links → Links) : (s.modLinks g).pcie = s.pcie := rfl
@[simp] theorem State.modLinks_hbm (g : Links → Links) : (s.modLinks g).hbm = s.hbm := rfl
@[simp] theorem State.modLinks_hubs (g : Links → Links) : (s.modLinks g).hubs = s.hubs := rfl
@[simp] theorem State.modLinks_host (g : Links → Links) : (s.modLinks g).host = s.host := rfl
@[simp] theorem State.modLinks_cores (g : Links → Links) : (s.modLinks g).cores = s.cores := rfl
@[simp] theorem State.modLinks_contexts (g : Links → Links) : (s.modLinks g).contexts = s.contexts := rfl
@[simp] theorem State.modLinks_dies (g : Links → Links) : (s.modLinks g).dies = s.dies := rfl
@[simp] theorem State.modLinks_links (g : Links → Links) : (s.modLinks g).links = g s.links := rfl
@[simp] theorem State.modLinks_clap (g : Links → Links) : (s.modLinks g).clap = s.clap := rfl
@[simp] theorem State.modLinks_sec (g : Links → Links) : (s.modLinks g).sec = s.sec := rfl
@[simp] theorem State.modLinks_pwr (g : Links → Links) : (s.modLinks g).pwr = s.pwr := rfl
@[simp] theorem State.modLinks_jtag (g : Links → Links) : (s.modLinks g).jtag = s.jtag := rfl
@[simp] theorem State.modLinks_fresh (g : Links → Links) : (s.modLinks g).fresh = s.fresh := rfl
@[simp] theorem State.modLinks_out (g : Links → Links) : (s.modLinks g).out = s.out := rfl

@[simp] theorem State.modPort_pending (p : Nat) (g : Port → Port) : (s.modPort p g).pending = s.pending := rfl
@[simp] theorem State.modPort_glb (p : Nat) (g : Port → Port) : (s.modPort p g).glb = s.glb := rfl
@[simp] theorem State.modPort_boot (p : Nat) (g : Port → Port) : (s.modPort p g).boot = s.boot := rfl
@[simp] theorem State.modPort_cds (p : Nat) (g : Port → Port) : (s.modPort p g).cds = s.cds := rfl
@[simp] theorem State.modPort_reels (p : Nat) (g : Port → Port) : (s.modPort p g).reels = s.reels := rfl
@[simp] theorem State.modPort_lastServed (p : Nat) (g : Port → Port) : (s.modPort p g).lastServed = s.lastServed := rfl
@[simp] theorem State.modPort_tracked (p : Nat) (g : Port → Port) : (s.modPort p g).tracked = s.tracked := rfl
@[simp] theorem State.modPort_journal (p : Nat) (g : Port → Port) : (s.modPort p g).journal = s.journal := rfl
@[simp] theorem State.modPort_jobs (p : Nat) (g : Port → Port) : (s.modPort p g).jobs = s.jobs := rfl
@[simp] theorem State.modPort_ckpt (p : Nat) (g : Port → Port) : (s.modPort p g).ckpt = s.ckpt := rfl
@[simp] theorem State.modPort_restore (p : Nat) (g : Port → Port) : (s.modPort p g).restore = s.restore := rfl
@[simp] theorem State.modPort_mbox (p : Nat) (g : Port → Port) : (s.modPort p g).mbox = s.mbox := rfl
@[simp] theorem State.modPort_pcie (p : Nat) (g : Port → Port) : (s.modPort p g).pcie = s.pcie := rfl
@[simp] theorem State.modPort_hbm (p : Nat) (g : Port → Port) : (s.modPort p g).hbm = s.hbm := rfl
@[simp] theorem State.modPort_hubs (p : Nat) (g : Port → Port) : (s.modPort p g).hubs = s.hubs := rfl
@[simp] theorem State.modPort_host (p : Nat) (g : Port → Port) : (s.modPort p g).host = s.host := rfl
@[simp] theorem State.modPort_cores (p : Nat) (g : Port → Port) : (s.modPort p g).cores = s.cores := rfl
@[simp] theorem State.modPort_contexts (p : Nat) (g : Port → Port) : (s.modPort p g).contexts = s.contexts := rfl
@[simp] theorem State.modPort_dies (p : Nat) (g : Port → Port) : (s.modPort p g).dies = s.dies := rfl
@[simp] theorem State.modPort_links (p : Nat) (g : Port → Port) : (s.modPort p g).links = { s.links with ports := tset s.links.ports p (g (s.port p)) } := rfl
@[simp] theorem State.modPort_clap (p : Nat) (g : Port → Port) : (s.modPort p g).clap = s.clap := rfl
@[simp] theorem State.modPort_sec (p : Nat) (g : Port → Port) : (s.modPort p g).sec = s.sec := rfl
@[simp] theorem State.modPort_pwr (p : Nat) (g : Port → Port) : (s.modPort p g).pwr = s.pwr := rfl
@[simp] theorem State.modPort_jtag (p : Nat) (g : Port → Port) : (s.modPort p g).jtag = s.jtag := rfl
@[simp] theorem State.modPort_fresh (p : Nat) (g : Port → Port) : (s.modPort p g).fresh = s.fresh := rfl
@[simp] theorem State.modPort_out (p : Nat) (g : Port → Port) : (s.modPort p g).out = s.out := rfl

@[simp] theorem State.modRoute_pending (i : Nat) (g : Route → Route) : (s.modRoute i g).pending = s.pending := rfl
@[simp] theorem State.modRoute_glb (i : Nat) (g : Route → Route) : (s.modRoute i g).glb = s.glb := rfl
@[simp] theorem State.modRoute_boot (i : Nat) (g : Route → Route) : (s.modRoute i g).boot = s.boot := rfl
@[simp] theorem State.modRoute_cds (i : Nat) (g : Route → Route) : (s.modRoute i g).cds = s.cds := rfl
@[simp] theorem State.modRoute_reels (i : Nat) (g : Route → Route) : (s.modRoute i g).reels = s.reels := rfl
@[simp] theorem State.modRoute_lastServed (i : Nat) (g : Route → Route) : (s.modRoute i g).lastServed = s.lastServed := rfl
@[simp] theorem State.modRoute_tracked (i : Nat) (g : Route → Route) : (s.modRoute i g).tracked = s.tracked := rfl
@[simp] theorem State.modRoute_journal (i : Nat) (g : Route → Route) : (s.modRoute i g).journal = s.journal := rfl
@[simp] theorem State.modRoute_jobs (i : Nat) (g : Route → Route) : (s.modRoute i g).jobs = s.jobs := rfl
@[simp] theorem State.modRoute_ckpt (i : Nat) (g : Route → Route) : (s.modRoute i g).ckpt = s.ckpt := rfl
@[simp] theorem State.modRoute_restore (i : Nat) (g : Route → Route) : (s.modRoute i g).restore = s.restore := rfl
@[simp] theorem State.modRoute_mbox (i : Nat) (g : Route → Route) : (s.modRoute i g).mbox = s.mbox := rfl
@[simp] theorem State.modRoute_pcie (i : Nat) (g : Route → Route) : (s.modRoute i g).pcie = s.pcie := rfl
@[simp] theorem State.modRoute_hbm (i : Nat) (g : Route → Route) : (s.modRoute i g).hbm = s.hbm := rfl
@[simp] theorem State.modRoute_hubs (i : Nat) (g : Route → Route) : (s.modRoute i g).hubs = s.hubs := rfl
@[simp] theorem State.modRoute_host (i : Nat) (g : Route → Route) : (s.modRoute i g).host = s.host := rfl
@[simp] theorem State.modRoute_cores (i : Nat) (g : Route → Route) : (s.modRoute i g).cores = s.cores := rfl
@[simp] theorem State.modRoute_contexts (i : Nat) (g : Route → Route) : (s.modRoute i g).contexts = s.contexts := rfl
@[simp] theorem State.modRoute_dies (i : Nat) (g : Route → Route) : (s.modRoute i g).dies = s.dies := rfl
@[simp] theorem State.modRoute_links (i : Nat) (g : Route → Route) : (s.modRoute i g).links = { s.links with routes := tset s.links.routes i (g (s.route i)) } := rfl
@[simp] theorem State.modRoute_clap (i : Nat) (g : Route → Route) : (s.modRoute i g).clap = s.clap := rfl
@[simp] theorem State.modRoute_sec (i : Nat) (g : Route → Route) : (s.modRoute i g).sec = s.sec := rfl
@[simp] theorem State.modRoute_pwr (i : Nat) (g : Route → Route) : (s.modRoute i g).pwr = s.pwr := rfl
@[simp] theorem State.modRoute_jtag (i : Nat) (g : Route → Route) : (s.modRoute i g).jtag = s.jtag := rfl
@[simp] theorem State.modRoute_fresh (i : Nat) (g : Route → Route) : (s.modRoute i g).fresh = s.fresh := rfl
@[simp] theorem State.modRoute_out (i : Nat) (g : Route → Route) : (s.modRoute i g).out = s.out := rfl

@[simp] theorem State.modEth_pending (e : Nat) (g : EthPort → EthPort) : (s.modEth e g).pending = s.pending := rfl
@[simp] theorem State.modEth_glb (e : Nat) (g : EthPort → EthPort) : (s.modEth e g).glb = s.glb := rfl
@[simp] theorem State.modEth_boot (e : Nat) (g : EthPort → EthPort) : (s.modEth e g).boot = s.boot := rfl
@[simp] theorem State.modEth_cds (e : Nat) (g : EthPort → EthPort) : (s.modEth e g).cds = s.cds := rfl
@[simp] theorem State.modEth_reels (e : Nat) (g : EthPort → EthPort) : (s.modEth e g).reels = s.reels := rfl
@[simp] theorem State.modEth_lastServed (e : Nat) (g : EthPort → EthPort) : (s.modEth e g).lastServed = s.lastServed := rfl
@[simp] theorem State.modEth_tracked (e : Nat) (g : EthPort → EthPort) : (s.modEth e g).tracked = s.tracked := rfl
@[simp] theorem State.modEth_journal (e : Nat) (g : EthPort → EthPort) : (s.modEth e g).journal = s.journal := rfl
@[simp] theorem State.modEth_jobs (e : Nat) (g : EthPort → EthPort) : (s.modEth e g).jobs = s.jobs := rfl
@[simp] theorem State.modEth_ckpt (e : Nat) (g : EthPort → EthPort) : (s.modEth e g).ckpt = s.ckpt := rfl
@[simp] theorem State.modEth_restore (e : Nat) (g : EthPort → EthPort) : (s.modEth e g).restore = s.restore := rfl
@[simp] theorem State.modEth_mbox (e : Nat) (g : EthPort → EthPort) : (s.modEth e g).mbox = s.mbox := rfl
@[simp] theorem State.modEth_pcie (e : Nat) (g : EthPort → EthPort) : (s.modEth e g).pcie = s.pcie := rfl
@[simp] theorem State.modEth_hbm (e : Nat) (g : EthPort → EthPort) : (s.modEth e g).hbm = s.hbm := rfl
@[simp] theorem State.modEth_hubs (e : Nat) (g : EthPort → EthPort) : (s.modEth e g).hubs = s.hubs := rfl
@[simp] theorem State.modEth_host (e : Nat) (g : EthPort → EthPort) : (s.modEth e g).host = s.host := rfl
@[simp] theorem State.modEth_cores (e : Nat) (g : EthPort → EthPort) : (s.modEth e g).cores = s.cores := rfl
@[simp] theorem State.modEth_contexts (e : Nat) (g : EthPort → EthPort) : (s.modEth e g).contexts = s.contexts := rfl
@[simp] theorem State.modEth_dies (e : Nat) (g : EthPort → EthPort) : (s.modEth e g).dies = s.dies := rfl
@[simp] theorem State.modEth_links (e : Nat) (g : EthPort → EthPort) : (s.modEth e g).links = { s.links with eth := tset s.links.eth e (g (s.eth e)) } := rfl
@[simp] theorem State.modEth_clap (e : Nat) (g : EthPort → EthPort) : (s.modEth e g).clap = s.clap := rfl
@[simp] theorem State.modEth_sec (e : Nat) (g : EthPort → EthPort) : (s.modEth e g).sec = s.sec := rfl
@[simp] theorem State.modEth_pwr (e : Nat) (g : EthPort → EthPort) : (s.modEth e g).pwr = s.pwr := rfl
@[simp] theorem State.modEth_jtag (e : Nat) (g : EthPort → EthPort) : (s.modEth e g).jtag = s.jtag := rfl
@[simp] theorem State.modEth_fresh (e : Nat) (g : EthPort → EthPort) : (s.modEth e g).fresh = s.fresh := rfl
@[simp] theorem State.modEth_out (e : Nat) (g : EthPort → EthPort) : (s.modEth e g).out = s.out := rfl

@[simp] theorem State.modCast_pending (i : Nat) (g : Cast → Cast) : (s.modCast i g).pending = s.pending := rfl
@[simp] theorem State.modCast_glb (i : Nat) (g : Cast → Cast) : (s.modCast i g).glb = s.glb := rfl
@[simp] theorem State.modCast_boot (i : Nat) (g : Cast → Cast) : (s.modCast i g).boot = s.boot := rfl
@[simp] theorem State.modCast_cds (i : Nat) (g : Cast → Cast) : (s.modCast i g).cds = s.cds := rfl
@[simp] theorem State.modCast_reels (i : Nat) (g : Cast → Cast) : (s.modCast i g).reels = s.reels := rfl
@[simp] theorem State.modCast_lastServed (i : Nat) (g : Cast → Cast) : (s.modCast i g).lastServed = s.lastServed := rfl
@[simp] theorem State.modCast_tracked (i : Nat) (g : Cast → Cast) : (s.modCast i g).tracked = s.tracked := rfl
@[simp] theorem State.modCast_journal (i : Nat) (g : Cast → Cast) : (s.modCast i g).journal = s.journal := rfl
@[simp] theorem State.modCast_jobs (i : Nat) (g : Cast → Cast) : (s.modCast i g).jobs = s.jobs := rfl
@[simp] theorem State.modCast_ckpt (i : Nat) (g : Cast → Cast) : (s.modCast i g).ckpt = s.ckpt := rfl
@[simp] theorem State.modCast_restore (i : Nat) (g : Cast → Cast) : (s.modCast i g).restore = s.restore := rfl
@[simp] theorem State.modCast_mbox (i : Nat) (g : Cast → Cast) : (s.modCast i g).mbox = s.mbox := rfl
@[simp] theorem State.modCast_pcie (i : Nat) (g : Cast → Cast) : (s.modCast i g).pcie = s.pcie := rfl
@[simp] theorem State.modCast_hbm (i : Nat) (g : Cast → Cast) : (s.modCast i g).hbm = s.hbm := rfl
@[simp] theorem State.modCast_hubs (i : Nat) (g : Cast → Cast) : (s.modCast i g).hubs = s.hubs := rfl
@[simp] theorem State.modCast_host (i : Nat) (g : Cast → Cast) : (s.modCast i g).host = s.host := rfl
@[simp] theorem State.modCast_cores (i : Nat) (g : Cast → Cast) : (s.modCast i g).cores = s.cores := rfl
@[simp] theorem State.modCast_contexts (i : Nat) (g : Cast → Cast) : (s.modCast i g).contexts = s.contexts := rfl
@[simp] theorem State.modCast_dies (i : Nat) (g : Cast → Cast) : (s.modCast i g).dies = s.dies := rfl
@[simp] theorem State.modCast_links (i : Nat) (g : Cast → Cast) : (s.modCast i g).links = { s.links with casts := tset s.links.casts i (g (s.cast i)) } := rfl
@[simp] theorem State.modCast_clap (i : Nat) (g : Cast → Cast) : (s.modCast i g).clap = s.clap := rfl
@[simp] theorem State.modCast_sec (i : Nat) (g : Cast → Cast) : (s.modCast i g).sec = s.sec := rfl
@[simp] theorem State.modCast_pwr (i : Nat) (g : Cast → Cast) : (s.modCast i g).pwr = s.pwr := rfl
@[simp] theorem State.modCast_jtag (i : Nat) (g : Cast → Cast) : (s.modCast i g).jtag = s.jtag := rfl
@[simp] theorem State.modCast_fresh (i : Nat) (g : Cast → Cast) : (s.modCast i g).fresh = s.fresh := rfl
@[simp] theorem State.modCast_out (i : Nat) (g : Cast → Cast) : (s.modCast i g).out = s.out := rfl

@[simp] theorem State.modJob_pending (j : Word) (g : Job → Job) : (s.modJob j g).pending = s.pending := rfl
@[simp] theorem State.modJob_glb (j : Word) (g : Job → Job) : (s.modJob j g).glb = s.glb := rfl
@[simp] theorem State.modJob_boot (j : Word) (g : Job → Job) : (s.modJob j g).boot = s.boot := rfl
@[simp] theorem State.modJob_cds (j : Word) (g : Job → Job) : (s.modJob j g).cds = s.cds := rfl
@[simp] theorem State.modJob_reels (j : Word) (g : Job → Job) : (s.modJob j g).reels = s.reels := rfl
@[simp] theorem State.modJob_lastServed (j : Word) (g : Job → Job) : (s.modJob j g).lastServed = s.lastServed := rfl
@[simp] theorem State.modJob_tracked (j : Word) (g : Job → Job) : (s.modJob j g).tracked = s.tracked := rfl
@[simp] theorem State.modJob_journal (j : Word) (g : Job → Job) : (s.modJob j g).journal = s.journal := rfl
@[simp] theorem State.modJob_jobs (j : Word) (g : Job → Job) : (s.modJob j g).jobs = tset s.jobs j.toNat (g (s.job j)) := rfl
@[simp] theorem State.modJob_ckpt (j : Word) (g : Job → Job) : (s.modJob j g).ckpt = s.ckpt := rfl
@[simp] theorem State.modJob_restore (j : Word) (g : Job → Job) : (s.modJob j g).restore = s.restore := rfl
@[simp] theorem State.modJob_mbox (j : Word) (g : Job → Job) : (s.modJob j g).mbox = s.mbox := rfl
@[simp] theorem State.modJob_pcie (j : Word) (g : Job → Job) : (s.modJob j g).pcie = s.pcie := rfl
@[simp] theorem State.modJob_hbm (j : Word) (g : Job → Job) : (s.modJob j g).hbm = s.hbm := rfl
@[simp] theorem State.modJob_hubs (j : Word) (g : Job → Job) : (s.modJob j g).hubs = s.hubs := rfl
@[simp] theorem State.modJob_host (j : Word) (g : Job → Job) : (s.modJob j g).host = s.host := rfl
@[simp] theorem State.modJob_cores (j : Word) (g : Job → Job) : (s.modJob j g).cores = s.cores := rfl
@[simp] theorem State.modJob_contexts (j : Word) (g : Job → Job) : (s.modJob j g).contexts = s.contexts := rfl
@[simp] theorem State.modJob_dies (j : Word) (g : Job → Job) : (s.modJob j g).dies = s.dies := rfl
@[simp] theorem State.modJob_links (j : Word) (g : Job → Job) : (s.modJob j g).links = s.links := rfl
@[simp] theorem State.modJob_clap (j : Word) (g : Job → Job) : (s.modJob j g).clap = s.clap := rfl
@[simp] theorem State.modJob_sec (j : Word) (g : Job → Job) : (s.modJob j g).sec = s.sec := rfl
@[simp] theorem State.modJob_pwr (j : Word) (g : Job → Job) : (s.modJob j g).pwr = s.pwr := rfl
@[simp] theorem State.modJob_jtag (j : Word) (g : Job → Job) : (s.modJob j g).jtag = s.jtag := rfl
@[simp] theorem State.modJob_fresh (j : Word) (g : Job → Job) : (s.modJob j g).fresh = s.fresh := rfl
@[simp] theorem State.modJob_out (j : Word) (g : Job → Job) : (s.modJob j g).out = s.out := rfl

@[simp] theorem State.modSec_pending (g : Sec → Sec) : (s.modSec g).pending = s.pending := rfl
@[simp] theorem State.modSec_glb (g : Sec → Sec) : (s.modSec g).glb = s.glb := rfl
@[simp] theorem State.modSec_boot (g : Sec → Sec) : (s.modSec g).boot = s.boot := rfl
@[simp] theorem State.modSec_cds (g : Sec → Sec) : (s.modSec g).cds = s.cds := rfl
@[simp] theorem State.modSec_reels (g : Sec → Sec) : (s.modSec g).reels = s.reels := rfl
@[simp] theorem State.modSec_lastServed (g : Sec → Sec) : (s.modSec g).lastServed = s.lastServed := rfl
@[simp] theorem State.modSec_tracked (g : Sec → Sec) : (s.modSec g).tracked = s.tracked := rfl
@[simp] theorem State.modSec_journal (g : Sec → Sec) : (s.modSec g).journal = s.journal := rfl
@[simp] theorem State.modSec_jobs (g : Sec → Sec) : (s.modSec g).jobs = s.jobs := rfl
@[simp] theorem State.modSec_ckpt (g : Sec → Sec) : (s.modSec g).ckpt = s.ckpt := rfl
@[simp] theorem State.modSec_restore (g : Sec → Sec) : (s.modSec g).restore = s.restore := rfl
@[simp] theorem State.modSec_mbox (g : Sec → Sec) : (s.modSec g).mbox = s.mbox := rfl
@[simp] theorem State.modSec_pcie (g : Sec → Sec) : (s.modSec g).pcie = s.pcie := rfl
@[simp] theorem State.modSec_hbm (g : Sec → Sec) : (s.modSec g).hbm = s.hbm := rfl
@[simp] theorem State.modSec_hubs (g : Sec → Sec) : (s.modSec g).hubs = s.hubs := rfl
@[simp] theorem State.modSec_host (g : Sec → Sec) : (s.modSec g).host = s.host := rfl
@[simp] theorem State.modSec_cores (g : Sec → Sec) : (s.modSec g).cores = s.cores := rfl
@[simp] theorem State.modSec_contexts (g : Sec → Sec) : (s.modSec g).contexts = s.contexts := rfl
@[simp] theorem State.modSec_dies (g : Sec → Sec) : (s.modSec g).dies = s.dies := rfl
@[simp] theorem State.modSec_links (g : Sec → Sec) : (s.modSec g).links = s.links := rfl
@[simp] theorem State.modSec_clap (g : Sec → Sec) : (s.modSec g).clap = s.clap := rfl
@[simp] theorem State.modSec_sec (g : Sec → Sec) : (s.modSec g).sec = g s.sec := rfl
@[simp] theorem State.modSec_pwr (g : Sec → Sec) : (s.modSec g).pwr = s.pwr := rfl
@[simp] theorem State.modSec_jtag (g : Sec → Sec) : (s.modSec g).jtag = s.jtag := rfl
@[simp] theorem State.modSec_fresh (g : Sec → Sec) : (s.modSec g).fresh = s.fresh := rfl
@[simp] theorem State.modSec_out (g : Sec → Sec) : (s.modSec g).out = s.out := rfl

@[simp] theorem State.modTenant_pending (t : Nat) (g : Tenant → Tenant) : (s.modTenant t g).pending = s.pending := rfl
@[simp] theorem State.modTenant_glb (t : Nat) (g : Tenant → Tenant) : (s.modTenant t g).glb = s.glb := rfl
@[simp] theorem State.modTenant_boot (t : Nat) (g : Tenant → Tenant) : (s.modTenant t g).boot = s.boot := rfl
@[simp] theorem State.modTenant_cds (t : Nat) (g : Tenant → Tenant) : (s.modTenant t g).cds = s.cds := rfl
@[simp] theorem State.modTenant_reels (t : Nat) (g : Tenant → Tenant) : (s.modTenant t g).reels = s.reels := rfl
@[simp] theorem State.modTenant_lastServed (t : Nat) (g : Tenant → Tenant) : (s.modTenant t g).lastServed = s.lastServed := rfl
@[simp] theorem State.modTenant_tracked (t : Nat) (g : Tenant → Tenant) : (s.modTenant t g).tracked = s.tracked := rfl
@[simp] theorem State.modTenant_journal (t : Nat) (g : Tenant → Tenant) : (s.modTenant t g).journal = s.journal := rfl
@[simp] theorem State.modTenant_jobs (t : Nat) (g : Tenant → Tenant) : (s.modTenant t g).jobs = s.jobs := rfl
@[simp] theorem State.modTenant_ckpt (t : Nat) (g : Tenant → Tenant) : (s.modTenant t g).ckpt = s.ckpt := rfl
@[simp] theorem State.modTenant_restore (t : Nat) (g : Tenant → Tenant) : (s.modTenant t g).restore = s.restore := rfl
@[simp] theorem State.modTenant_mbox (t : Nat) (g : Tenant → Tenant) : (s.modTenant t g).mbox = s.mbox := rfl
@[simp] theorem State.modTenant_pcie (t : Nat) (g : Tenant → Tenant) : (s.modTenant t g).pcie = s.pcie := rfl
@[simp] theorem State.modTenant_hbm (t : Nat) (g : Tenant → Tenant) : (s.modTenant t g).hbm = s.hbm := rfl
@[simp] theorem State.modTenant_hubs (t : Nat) (g : Tenant → Tenant) : (s.modTenant t g).hubs = s.hubs := rfl
@[simp] theorem State.modTenant_host (t : Nat) (g : Tenant → Tenant) : (s.modTenant t g).host = s.host := rfl
@[simp] theorem State.modTenant_cores (t : Nat) (g : Tenant → Tenant) : (s.modTenant t g).cores = s.cores := rfl
@[simp] theorem State.modTenant_contexts (t : Nat) (g : Tenant → Tenant) : (s.modTenant t g).contexts = s.contexts := rfl
@[simp] theorem State.modTenant_dies (t : Nat) (g : Tenant → Tenant) : (s.modTenant t g).dies = s.dies := rfl
@[simp] theorem State.modTenant_links (t : Nat) (g : Tenant → Tenant) : (s.modTenant t g).links = s.links := rfl
@[simp] theorem State.modTenant_clap (t : Nat) (g : Tenant → Tenant) : (s.modTenant t g).clap = s.clap := rfl
@[simp] theorem State.modTenant_sec (t : Nat) (g : Tenant → Tenant) : (s.modTenant t g).sec = { s.sec with tenants := tset s.sec.tenants t (g (s.tenant t)) } := rfl
@[simp] theorem State.modTenant_pwr (t : Nat) (g : Tenant → Tenant) : (s.modTenant t g).pwr = s.pwr := rfl
@[simp] theorem State.modTenant_jtag (t : Nat) (g : Tenant → Tenant) : (s.modTenant t g).jtag = s.jtag := rfl
@[simp] theorem State.modTenant_fresh (t : Nat) (g : Tenant → Tenant) : (s.modTenant t g).fresh = s.fresh := rfl
@[simp] theorem State.modTenant_out (t : Nat) (g : Tenant → Tenant) : (s.modTenant t g).out = s.out := rfl

@[simp] theorem State.modGlb_pending (g : Glb → Glb) : (s.modGlb g).pending = s.pending := rfl
@[simp] theorem State.modGlb_glb (g : Glb → Glb) : (s.modGlb g).glb = g s.glb := rfl
@[simp] theorem State.modGlb_boot (g : Glb → Glb) : (s.modGlb g).boot = s.boot := rfl
@[simp] theorem State.modGlb_cds (g : Glb → Glb) : (s.modGlb g).cds = s.cds := rfl
@[simp] theorem State.modGlb_reels (g : Glb → Glb) : (s.modGlb g).reels = s.reels := rfl
@[simp] theorem State.modGlb_lastServed (g : Glb → Glb) : (s.modGlb g).lastServed = s.lastServed := rfl
@[simp] theorem State.modGlb_tracked (g : Glb → Glb) : (s.modGlb g).tracked = s.tracked := rfl
@[simp] theorem State.modGlb_journal (g : Glb → Glb) : (s.modGlb g).journal = s.journal := rfl
@[simp] theorem State.modGlb_jobs (g : Glb → Glb) : (s.modGlb g).jobs = s.jobs := rfl
@[simp] theorem State.modGlb_ckpt (g : Glb → Glb) : (s.modGlb g).ckpt = s.ckpt := rfl
@[simp] theorem State.modGlb_restore (g : Glb → Glb) : (s.modGlb g).restore = s.restore := rfl
@[simp] theorem State.modGlb_mbox (g : Glb → Glb) : (s.modGlb g).mbox = s.mbox := rfl
@[simp] theorem State.modGlb_pcie (g : Glb → Glb) : (s.modGlb g).pcie = s.pcie := rfl
@[simp] theorem State.modGlb_hbm (g : Glb → Glb) : (s.modGlb g).hbm = s.hbm := rfl
@[simp] theorem State.modGlb_hubs (g : Glb → Glb) : (s.modGlb g).hubs = s.hubs := rfl
@[simp] theorem State.modGlb_host (g : Glb → Glb) : (s.modGlb g).host = s.host := rfl
@[simp] theorem State.modGlb_cores (g : Glb → Glb) : (s.modGlb g).cores = s.cores := rfl
@[simp] theorem State.modGlb_contexts (g : Glb → Glb) : (s.modGlb g).contexts = s.contexts := rfl
@[simp] theorem State.modGlb_dies (g : Glb → Glb) : (s.modGlb g).dies = s.dies := rfl
@[simp] theorem State.modGlb_links (g : Glb → Glb) : (s.modGlb g).links = s.links := rfl
@[simp] theorem State.modGlb_clap (g : Glb → Glb) : (s.modGlb g).clap = s.clap := rfl
@[simp] theorem State.modGlb_sec (g : Glb → Glb) : (s.modGlb g).sec = s.sec := rfl
@[simp] theorem State.modGlb_pwr (g : Glb → Glb) : (s.modGlb g).pwr = s.pwr := rfl
@[simp] theorem State.modGlb_jtag (g : Glb → Glb) : (s.modGlb g).jtag = s.jtag := rfl
@[simp] theorem State.modGlb_fresh (g : Glb → Glb) : (s.modGlb g).fresh = s.fresh := rfl
@[simp] theorem State.modGlb_out (g : Glb → Glb) : (s.modGlb g).out = s.out := rfl

@[simp] theorem State.modBoot_pending (g : Boot → Boot) : (s.modBoot g).pending = s.pending := rfl
@[simp] theorem State.modBoot_glb (g : Boot → Boot) : (s.modBoot g).glb = s.glb := rfl
@[simp] theorem State.modBoot_boot (g : Boot → Boot) : (s.modBoot g).boot = g s.boot := rfl
@[simp] theorem State.modBoot_cds (g : Boot → Boot) : (s.modBoot g).cds = s.cds := rfl
@[simp] theorem State.modBoot_reels (g : Boot → Boot) : (s.modBoot g).reels = s.reels := rfl
@[simp] theorem State.modBoot_lastServed (g : Boot → Boot) : (s.modBoot g).lastServed = s.lastServed := rfl
@[simp] theorem State.modBoot_tracked (g : Boot → Boot) : (s.modBoot g).tracked = s.tracked := rfl
@[simp] theorem State.modBoot_journal (g : Boot → Boot) : (s.modBoot g).journal = s.journal := rfl
@[simp] theorem State.modBoot_jobs (g : Boot → Boot) : (s.modBoot g).jobs = s.jobs := rfl
@[simp] theorem State.modBoot_ckpt (g : Boot → Boot) : (s.modBoot g).ckpt = s.ckpt := rfl
@[simp] theorem State.modBoot_restore (g : Boot → Boot) : (s.modBoot g).restore = s.restore := rfl
@[simp] theorem State.modBoot_mbox (g : Boot → Boot) : (s.modBoot g).mbox = s.mbox := rfl
@[simp] theorem State.modBoot_pcie (g : Boot → Boot) : (s.modBoot g).pcie = s.pcie := rfl
@[simp] theorem State.modBoot_hbm (g : Boot → Boot) : (s.modBoot g).hbm = s.hbm := rfl
@[simp] theorem State.modBoot_hubs (g : Boot → Boot) : (s.modBoot g).hubs = s.hubs := rfl
@[simp] theorem State.modBoot_host (g : Boot → Boot) : (s.modBoot g).host = s.host := rfl
@[simp] theorem State.modBoot_cores (g : Boot → Boot) : (s.modBoot g).cores = s.cores := rfl
@[simp] theorem State.modBoot_contexts (g : Boot → Boot) : (s.modBoot g).contexts = s.contexts := rfl
@[simp] theorem State.modBoot_dies (g : Boot → Boot) : (s.modBoot g).dies = s.dies := rfl
@[simp] theorem State.modBoot_links (g : Boot → Boot) : (s.modBoot g).links = s.links := rfl
@[simp] theorem State.modBoot_clap (g : Boot → Boot) : (s.modBoot g).clap = s.clap := rfl
@[simp] theorem State.modBoot_sec (g : Boot → Boot) : (s.modBoot g).sec = s.sec := rfl
@[simp] theorem State.modBoot_pwr (g : Boot → Boot) : (s.modBoot g).pwr = s.pwr := rfl
@[simp] theorem State.modBoot_jtag (g : Boot → Boot) : (s.modBoot g).jtag = s.jtag := rfl
@[simp] theorem State.modBoot_fresh (g : Boot → Boot) : (s.modBoot g).fresh = s.fresh := rfl
@[simp] theorem State.modBoot_out (g : Boot → Boot) : (s.modBoot g).out = s.out := rfl

@[simp] theorem State.modClap_pending (g : Clapper → Clapper) : (s.modClap g).pending = s.pending := rfl
@[simp] theorem State.modClap_glb (g : Clapper → Clapper) : (s.modClap g).glb = s.glb := rfl
@[simp] theorem State.modClap_boot (g : Clapper → Clapper) : (s.modClap g).boot = s.boot := rfl
@[simp] theorem State.modClap_cds (g : Clapper → Clapper) : (s.modClap g).cds = s.cds := rfl
@[simp] theorem State.modClap_reels (g : Clapper → Clapper) : (s.modClap g).reels = s.reels := rfl
@[simp] theorem State.modClap_lastServed (g : Clapper → Clapper) : (s.modClap g).lastServed = s.lastServed := rfl
@[simp] theorem State.modClap_tracked (g : Clapper → Clapper) : (s.modClap g).tracked = s.tracked := rfl
@[simp] theorem State.modClap_journal (g : Clapper → Clapper) : (s.modClap g).journal = s.journal := rfl
@[simp] theorem State.modClap_jobs (g : Clapper → Clapper) : (s.modClap g).jobs = s.jobs := rfl
@[simp] theorem State.modClap_ckpt (g : Clapper → Clapper) : (s.modClap g).ckpt = s.ckpt := rfl
@[simp] theorem State.modClap_restore (g : Clapper → Clapper) : (s.modClap g).restore = s.restore := rfl
@[simp] theorem State.modClap_mbox (g : Clapper → Clapper) : (s.modClap g).mbox = s.mbox := rfl
@[simp] theorem State.modClap_pcie (g : Clapper → Clapper) : (s.modClap g).pcie = s.pcie := rfl
@[simp] theorem State.modClap_hbm (g : Clapper → Clapper) : (s.modClap g).hbm = s.hbm := rfl
@[simp] theorem State.modClap_hubs (g : Clapper → Clapper) : (s.modClap g).hubs = s.hubs := rfl
@[simp] theorem State.modClap_host (g : Clapper → Clapper) : (s.modClap g).host = s.host := rfl
@[simp] theorem State.modClap_cores (g : Clapper → Clapper) : (s.modClap g).cores = s.cores := rfl
@[simp] theorem State.modClap_contexts (g : Clapper → Clapper) : (s.modClap g).contexts = s.contexts := rfl
@[simp] theorem State.modClap_dies (g : Clapper → Clapper) : (s.modClap g).dies = s.dies := rfl
@[simp] theorem State.modClap_links (g : Clapper → Clapper) : (s.modClap g).links = s.links := rfl
@[simp] theorem State.modClap_clap (g : Clapper → Clapper) : (s.modClap g).clap = g s.clap := rfl
@[simp] theorem State.modClap_sec (g : Clapper → Clapper) : (s.modClap g).sec = s.sec := rfl
@[simp] theorem State.modClap_pwr (g : Clapper → Clapper) : (s.modClap g).pwr = s.pwr := rfl
@[simp] theorem State.modClap_jtag (g : Clapper → Clapper) : (s.modClap g).jtag = s.jtag := rfl
@[simp] theorem State.modClap_fresh (g : Clapper → Clapper) : (s.modClap g).fresh = s.fresh := rfl
@[simp] theorem State.modClap_out (g : Clapper → Clapper) : (s.modClap g).out = s.out := rfl

@[simp] theorem State.modPwr_pending (g : Power → Power) : (s.modPwr g).pending = s.pending := rfl
@[simp] theorem State.modPwr_glb (g : Power → Power) : (s.modPwr g).glb = s.glb := rfl
@[simp] theorem State.modPwr_boot (g : Power → Power) : (s.modPwr g).boot = s.boot := rfl
@[simp] theorem State.modPwr_cds (g : Power → Power) : (s.modPwr g).cds = s.cds := rfl
@[simp] theorem State.modPwr_reels (g : Power → Power) : (s.modPwr g).reels = s.reels := rfl
@[simp] theorem State.modPwr_lastServed (g : Power → Power) : (s.modPwr g).lastServed = s.lastServed := rfl
@[simp] theorem State.modPwr_tracked (g : Power → Power) : (s.modPwr g).tracked = s.tracked := rfl
@[simp] theorem State.modPwr_journal (g : Power → Power) : (s.modPwr g).journal = s.journal := rfl
@[simp] theorem State.modPwr_jobs (g : Power → Power) : (s.modPwr g).jobs = s.jobs := rfl
@[simp] theorem State.modPwr_ckpt (g : Power → Power) : (s.modPwr g).ckpt = s.ckpt := rfl
@[simp] theorem State.modPwr_restore (g : Power → Power) : (s.modPwr g).restore = s.restore := rfl
@[simp] theorem State.modPwr_mbox (g : Power → Power) : (s.modPwr g).mbox = s.mbox := rfl
@[simp] theorem State.modPwr_pcie (g : Power → Power) : (s.modPwr g).pcie = s.pcie := rfl
@[simp] theorem State.modPwr_hbm (g : Power → Power) : (s.modPwr g).hbm = s.hbm := rfl
@[simp] theorem State.modPwr_hubs (g : Power → Power) : (s.modPwr g).hubs = s.hubs := rfl
@[simp] theorem State.modPwr_host (g : Power → Power) : (s.modPwr g).host = s.host := rfl
@[simp] theorem State.modPwr_cores (g : Power → Power) : (s.modPwr g).cores = s.cores := rfl
@[simp] theorem State.modPwr_contexts (g : Power → Power) : (s.modPwr g).contexts = s.contexts := rfl
@[simp] theorem State.modPwr_dies (g : Power → Power) : (s.modPwr g).dies = s.dies := rfl
@[simp] theorem State.modPwr_links (g : Power → Power) : (s.modPwr g).links = s.links := rfl
@[simp] theorem State.modPwr_clap (g : Power → Power) : (s.modPwr g).clap = s.clap := rfl
@[simp] theorem State.modPwr_sec (g : Power → Power) : (s.modPwr g).sec = s.sec := rfl
@[simp] theorem State.modPwr_pwr (g : Power → Power) : (s.modPwr g).pwr = g s.pwr := rfl
@[simp] theorem State.modPwr_jtag (g : Power → Power) : (s.modPwr g).jtag = s.jtag := rfl
@[simp] theorem State.modPwr_fresh (g : Power → Power) : (s.modPwr g).fresh = s.fresh := rfl
@[simp] theorem State.modPwr_out (g : Power → Power) : (s.modPwr g).out = s.out := rfl

@[simp] theorem State.modHbm_pending (g : Hbm → Hbm) : (s.modHbm g).pending = s.pending := rfl
@[simp] theorem State.modHbm_glb (g : Hbm → Hbm) : (s.modHbm g).glb = s.glb := rfl
@[simp] theorem State.modHbm_boot (g : Hbm → Hbm) : (s.modHbm g).boot = s.boot := rfl
@[simp] theorem State.modHbm_cds (g : Hbm → Hbm) : (s.modHbm g).cds = s.cds := rfl
@[simp] theorem State.modHbm_reels (g : Hbm → Hbm) : (s.modHbm g).reels = s.reels := rfl
@[simp] theorem State.modHbm_lastServed (g : Hbm → Hbm) : (s.modHbm g).lastServed = s.lastServed := rfl
@[simp] theorem State.modHbm_tracked (g : Hbm → Hbm) : (s.modHbm g).tracked = s.tracked := rfl
@[simp] theorem State.modHbm_journal (g : Hbm → Hbm) : (s.modHbm g).journal = s.journal := rfl
@[simp] theorem State.modHbm_jobs (g : Hbm → Hbm) : (s.modHbm g).jobs = s.jobs := rfl
@[simp] theorem State.modHbm_ckpt (g : Hbm → Hbm) : (s.modHbm g).ckpt = s.ckpt := rfl
@[simp] theorem State.modHbm_restore (g : Hbm → Hbm) : (s.modHbm g).restore = s.restore := rfl
@[simp] theorem State.modHbm_mbox (g : Hbm → Hbm) : (s.modHbm g).mbox = s.mbox := rfl
@[simp] theorem State.modHbm_pcie (g : Hbm → Hbm) : (s.modHbm g).pcie = s.pcie := rfl
@[simp] theorem State.modHbm_hbm (g : Hbm → Hbm) : (s.modHbm g).hbm = g s.hbm := rfl
@[simp] theorem State.modHbm_hubs (g : Hbm → Hbm) : (s.modHbm g).hubs = s.hubs := rfl
@[simp] theorem State.modHbm_host (g : Hbm → Hbm) : (s.modHbm g).host = s.host := rfl
@[simp] theorem State.modHbm_cores (g : Hbm → Hbm) : (s.modHbm g).cores = s.cores := rfl
@[simp] theorem State.modHbm_contexts (g : Hbm → Hbm) : (s.modHbm g).contexts = s.contexts := rfl
@[simp] theorem State.modHbm_dies (g : Hbm → Hbm) : (s.modHbm g).dies = s.dies := rfl
@[simp] theorem State.modHbm_links (g : Hbm → Hbm) : (s.modHbm g).links = s.links := rfl
@[simp] theorem State.modHbm_clap (g : Hbm → Hbm) : (s.modHbm g).clap = s.clap := rfl
@[simp] theorem State.modHbm_sec (g : Hbm → Hbm) : (s.modHbm g).sec = s.sec := rfl
@[simp] theorem State.modHbm_pwr (g : Hbm → Hbm) : (s.modHbm g).pwr = s.pwr := rfl
@[simp] theorem State.modHbm_jtag (g : Hbm → Hbm) : (s.modHbm g).jtag = s.jtag := rfl
@[simp] theorem State.modHbm_fresh (g : Hbm → Hbm) : (s.modHbm g).fresh = s.fresh := rfl
@[simp] theorem State.modHbm_out (g : Hbm → Hbm) : (s.modHbm g).out = s.out := rfl

@[simp] theorem State.emit_pending (o : OutMsg) : (s.emit o).pending = s.pending := rfl
@[simp] theorem State.emit_glb (o : OutMsg) : (s.emit o).glb = s.glb := rfl
@[simp] theorem State.emit_boot (o : OutMsg) : (s.emit o).boot = s.boot := rfl
@[simp] theorem State.emit_cds (o : OutMsg) : (s.emit o).cds = s.cds := rfl
@[simp] theorem State.emit_reels (o : OutMsg) : (s.emit o).reels = s.reels := rfl
@[simp] theorem State.emit_lastServed (o : OutMsg) : (s.emit o).lastServed = s.lastServed := rfl
@[simp] theorem State.emit_tracked (o : OutMsg) : (s.emit o).tracked = s.tracked := rfl
@[simp] theorem State.emit_journal (o : OutMsg) : (s.emit o).journal = s.journal := rfl
@[simp] theorem State.emit_jobs (o : OutMsg) : (s.emit o).jobs = s.jobs := rfl
@[simp] theorem State.emit_ckpt (o : OutMsg) : (s.emit o).ckpt = s.ckpt := rfl
@[simp] theorem State.emit_restore (o : OutMsg) : (s.emit o).restore = s.restore := rfl
@[simp] theorem State.emit_mbox (o : OutMsg) : (s.emit o).mbox = s.mbox := rfl
@[simp] theorem State.emit_pcie (o : OutMsg) : (s.emit o).pcie = s.pcie := rfl
@[simp] theorem State.emit_hbm (o : OutMsg) : (s.emit o).hbm = s.hbm := rfl
@[simp] theorem State.emit_hubs (o : OutMsg) : (s.emit o).hubs = s.hubs := rfl
@[simp] theorem State.emit_host (o : OutMsg) : (s.emit o).host = s.host := rfl
@[simp] theorem State.emit_cores (o : OutMsg) : (s.emit o).cores = s.cores := rfl
@[simp] theorem State.emit_contexts (o : OutMsg) : (s.emit o).contexts = s.contexts := rfl
@[simp] theorem State.emit_dies (o : OutMsg) : (s.emit o).dies = s.dies := rfl
@[simp] theorem State.emit_links (o : OutMsg) : (s.emit o).links = s.links := rfl
@[simp] theorem State.emit_clap (o : OutMsg) : (s.emit o).clap = s.clap := rfl
@[simp] theorem State.emit_sec (o : OutMsg) : (s.emit o).sec = s.sec := rfl
@[simp] theorem State.emit_pwr (o : OutMsg) : (s.emit o).pwr = s.pwr := rfl
@[simp] theorem State.emit_jtag (o : OutMsg) : (s.emit o).jtag = s.jtag := rfl
@[simp] theorem State.emit_fresh (o : OutMsg) : (s.emit o).fresh = s.fresh := rfl
@[simp] theorem State.emit_out (o : OutMsg) : (s.emit o).out = o :: s.out := rfl

@[simp] theorem State.tick_pending : (s.tick).pending = s.pending := rfl
@[simp] theorem State.tick_glb : (s.tick).glb = s.glb := rfl
@[simp] theorem State.tick_boot : (s.tick).boot = s.boot := rfl
@[simp] theorem State.tick_cds : (s.tick).cds = s.cds := rfl
@[simp] theorem State.tick_reels : (s.tick).reels = s.reels := rfl
@[simp] theorem State.tick_lastServed : (s.tick).lastServed = s.lastServed := rfl
@[simp] theorem State.tick_tracked : (s.tick).tracked = s.tracked := rfl
@[simp] theorem State.tick_journal : (s.tick).journal = s.journal := rfl
@[simp] theorem State.tick_jobs : (s.tick).jobs = s.jobs := rfl
@[simp] theorem State.tick_ckpt : (s.tick).ckpt = s.ckpt := rfl
@[simp] theorem State.tick_restore : (s.tick).restore = s.restore := rfl
@[simp] theorem State.tick_mbox : (s.tick).mbox = s.mbox := rfl
@[simp] theorem State.tick_pcie : (s.tick).pcie = s.pcie := rfl
@[simp] theorem State.tick_hbm : (s.tick).hbm = s.hbm := rfl
@[simp] theorem State.tick_hubs : (s.tick).hubs = s.hubs := rfl
@[simp] theorem State.tick_host : (s.tick).host = s.host := rfl
@[simp] theorem State.tick_cores : (s.tick).cores = s.cores := rfl
@[simp] theorem State.tick_contexts : (s.tick).contexts = s.contexts := rfl
@[simp] theorem State.tick_dies : (s.tick).dies = s.dies := rfl
@[simp] theorem State.tick_links : (s.tick).links = s.links := rfl
@[simp] theorem State.tick_clap : (s.tick).clap = s.clap := rfl
@[simp] theorem State.tick_sec : (s.tick).sec = s.sec := rfl
@[simp] theorem State.tick_pwr : (s.tick).pwr = s.pwr := rfl
@[simp] theorem State.tick_jtag : (s.tick).jtag = s.jtag := rfl
@[simp] theorem State.tick_fresh : (s.tick).fresh = s.fresh + 1 := rfl
@[simp] theorem State.tick_out : (s.tick).out = s.out := rfl

@[simp] theorem State.rsv_pending : (s.rsv).pending = s.pending := rfl
@[simp] theorem State.rsv_glb : (s.rsv).glb = { s.glb with rsvWrites := satInc s.glb.rsvWrites } := rfl
@[simp] theorem State.rsv_boot : (s.rsv).boot = s.boot := rfl
@[simp] theorem State.rsv_cds : (s.rsv).cds = s.cds := rfl
@[simp] theorem State.rsv_reels : (s.rsv).reels = s.reels := rfl
@[simp] theorem State.rsv_lastServed : (s.rsv).lastServed = s.lastServed := rfl
@[simp] theorem State.rsv_tracked : (s.rsv).tracked = s.tracked := rfl
@[simp] theorem State.rsv_journal : (s.rsv).journal = s.journal := rfl
@[simp] theorem State.rsv_jobs : (s.rsv).jobs = s.jobs := rfl
@[simp] theorem State.rsv_ckpt : (s.rsv).ckpt = s.ckpt := rfl
@[simp] theorem State.rsv_restore : (s.rsv).restore = s.restore := rfl
@[simp] theorem State.rsv_mbox : (s.rsv).mbox = s.mbox := rfl
@[simp] theorem State.rsv_pcie : (s.rsv).pcie = s.pcie := rfl
@[simp] theorem State.rsv_hbm : (s.rsv).hbm = s.hbm := rfl
@[simp] theorem State.rsv_hubs : (s.rsv).hubs = s.hubs := rfl
@[simp] theorem State.rsv_host : (s.rsv).host = s.host := rfl
@[simp] theorem State.rsv_cores : (s.rsv).cores = s.cores := rfl
@[simp] theorem State.rsv_contexts : (s.rsv).contexts = s.contexts := rfl
@[simp] theorem State.rsv_dies : (s.rsv).dies = s.dies := rfl
@[simp] theorem State.rsv_links : (s.rsv).links = s.links := rfl
@[simp] theorem State.rsv_clap : (s.rsv).clap = s.clap := rfl
@[simp] theorem State.rsv_sec : (s.rsv).sec = s.sec := rfl
@[simp] theorem State.rsv_pwr : (s.rsv).pwr = s.pwr := rfl
@[simp] theorem State.rsv_jtag : (s.rsv).jtag = s.jtag := rfl
@[simp] theorem State.rsv_fresh : (s.rsv).fresh = s.fresh := rfl
@[simp] theorem State.rsv_out : (s.rsv).out = s.out := rfl

end Sys2Proof.Machine
end

