-- ==== Sys2Proof/Laws/Tab.lean ====
section
/-!
SUPPORT. The laws of the sparse table: what a read answers after a write, and that every write keeps the canonical form.
-/
namespace Sys2Proof

variable {α : Type}

/-- An unlisted key reads as its default. -/
@[simp] theorem tget_nil (f : Nat → α) (k : Nat) : tget f [] k = f k := rfl

theorem tget_cons (f : Nat → α) (e : Nat × α) (t : Tab α) (k : Nat) : tget f (e :: t) k = if e.1 = k then e.2 else tget f t k := by
  by_cases h : e.1 = k <;> simp [tget, h]

/-- What follows a table that does not list key k answers for k. -/
theorem tget_append_left (f : Nat → α) (t u : Tab α) (k : Nat) (h : t.any (fun e => e.1 == k) = false) : tget f (t ++ u) k = tget f u k := by
  induction t with
  | nil => rfl
  | cons e t ih =>
    simp only [List.any_cons, Bool.or_eq_false_iff, beq_eq_false_iff_ne, ne_eq] at h
    rw [List.cons_append, tget_cons, if_neg h.1, ih h.2]

/-- A table followed by one that reads key k as its default reads k as it did. -/
theorem tget_append_right (f : Nat → α) (t u : Tab α) (k : Nat) (h : tget f u k = f k) : tget f (t ++ u) k = tget f t k := by
  induction t with
  | nil => simpa using h
  | cons e t ih => rw [List.cons_append, tget_cons, tget_cons, ih]

/-- A filter that keeps key k does not change what k reads as. -/
theorem tget_filter_keep (f : Nat → α) (p : Nat → Bool) (t : Tab α) (k : Nat) (h : p k = true) :
    tget f (t.filter (fun e => p e.1)) k = tget f t k := by
  induction t with
  | nil => rfl
  | cons e t ih =>
    by_cases hp : p e.1 = true
    · simp [hp, tget_cons, ih]
    · have hk : e.1 ≠ k := fun x => hp (x ▸ h)
      simp [hp, tget_cons, ih, hk]

/-- A filter that drops key k leaves it unlisted. -/
theorem filter_drops (p : Nat → Bool) (t : Tab α) (k : Nat) (h : p k = false) :
    (t.filter (fun e => p e.1)).any (fun e => e.1 == k) = false := by
  simp only [List.any_eq_false, List.mem_filter, beq_iff_eq]
  rintro e ⟨-, he⟩ rfl
  simp [h] at he

theorem tget_filter_drop (f : Nat → α) (p : Nat → Bool) (t : Tab α) (k : Nat) (h : p k = false) :
    tget f (t.filter (fun e => p e.1)) k = f k := by
  have := tget_append_left f (t.filter (fun e => p e.1)) [] k (filter_drops p t k h)
  simpa using this

/-! ## Units -/

@[simp] theorem tget_tset_same (f : Nat → α) (t : Tab α) (k : Nat) (a : α) : tget f (tset t k a) k = a := by
  rw [tset, tget_append_left _ _ _ _ (filter_drops (fun x => decide (x < k)) t k (by simp)), tget_cons, if_pos rfl]

theorem tget_tset_ne (f : Nat → α) (t : Tab α) (a : α) {j k : Nat} (h : j ≠ k) : tget f (tset t k a) j = tget f t j := by
  have hc : ∀ u : Tab α, tget f ((k, a) :: u) j = tget f u j := fun u => by rw [tget_cons, if_neg (Ne.symm h)]
  rcases Nat.lt_or_gt_of_ne h with hlt | hgt
  · rw [tset, tget_append_right _ _ _ _ (by rw [hc]; exact tget_filter_drop f (fun x => decide (k < x)) t j (by simp; omega))]
    exact tget_filter_keep f (fun x => decide (x < k)) t j (by simpa using hlt)
  · rw [tset, tget_append_left _ _ _ _ (filter_drops (fun x => decide (x < k)) t j (by simp; omega)), hc]
    exact tget_filter_keep f (fun x => decide (k < x)) t j (by simpa using hgt)

/-- The last write of a key wins. -/
@[simp] theorem tset_tset (t : Tab α) (k : Nat) (a b : α) : tset (tset t k a) k b = tset t k b := by
  have h1 : ∀ u : Tab α, (u.filter (fun e => decide (e.1 < k))).filter (fun e => decide (k < e.1)) = [] := by
    intro u; simp only [List.filter_filter, List.filter_eq_nil_iff]; intro e _; simp; omega
  have h2 : ∀ u : Tab α, (u.filter (fun e => decide (k < e.1))).filter (fun e => decide (e.1 < k)) = [] := by
    intro u; simp only [List.filter_filter, List.filter_eq_nil_iff]; intro e _; simp; omega
  simp [tset, List.filter_append, h1, h2, List.filter_filter]

/-! ## The canonical form -/

theorem TabWf.nil (f : Nat → α) : TabWf f ([] : Tab α) := by simp [TabWf]

theorem TabWf.filter {f : Nat → α} {t : Tab α} (h : TabWf f t) (p : Nat × α → Bool) : TabWf f (t.filter p) :=
  ⟨h.1.filter p, fun e he => h.2 e (List.mem_filter.1 he).1⟩

/-- Entries below k, entries of a run [k, n) and entries from n on make a canonical table. -/
theorem TabWf.splice {f : Nat → α} {t u : Tab α} {k n : Nat} (h : TabWf f t) (hu : TabWf f u) (hk : k ≤ n)
    (hr : ∀ e ∈ u, k ≤ e.1 ∧ e.1 < n) :
    TabWf f (t.filter (fun e => decide (e.1 < k)) ++ (u ++ t.filter (fun e => decide (n ≤ e.1)))) := by
  refine ⟨?_, ?_⟩
  · refine List.pairwise_append.2 ⟨h.1.filter _, List.pairwise_append.2 ⟨hu.1, h.1.filter _, ?_⟩, ?_⟩
    · intro a ha b hb; have := hr a ha; simp at hb; omega
    · intro a ha b hb
      simp only [List.mem_filter, decide_eq_true_eq, List.mem_append] at ha hb
      rcases hb with hb | hb
      · have := hr b hb; omega
      · omega
  · intro e he
    simp only [List.mem_append, List.mem_filter] at he
    rcases he with he | he | he
    · exact h.2 e he.1
    · exact hu.2 e he
    · exact h.2 e he.1

theorem TabWf.cset [DecidableEq α] {f : Nat → α} {t : Tab α} (h : TabWf f t) (k : Nat) (a : α) : TabWf f (cset f t k a) := by
  have hu : TabWf f (if a = f k then [] else [(k, a)]) := by split <;> simp [TabWf, *]
  have := h.splice hu (Nat.le_succ k) (by intro e he; split at he <;> simp_all)
  simpa [Sys2Proof.cset, Nat.succ_le_iff] using this

theorem cellsOf_range (a : Nat) (bs : List Byte) : ∀ e ∈ cellsOf a bs, a ≤ e.1 ∧ e.1 < a + bs.length := by
  induction bs generalizing a with
  | nil => simp [cellsOf]
  | cons b bs ih =>
    intro e he
    simp only [cellsOf, List.mem_append, List.length_cons] at he ⊢
    rcases he with he | he
    · unfold cellOf at he; split at he <;> simp_all
    · have := ih (a + 1) e he; omega

theorem cellsOf_wf (a : Nat) (bs : List Byte) : TabWf zeroByte (cellsOf a bs) := by
  induction bs generalizing a with
  | nil => exact TabWf.nil _
  | cons b bs ih =>
    have hr := cellsOf_range (a + 1) bs
    unfold cellsOf cellOf
    split
    · simpa using ih (a + 1)
    · next hb =>
      refine ⟨?_, ?_⟩
      · simp only [List.cons_append, List.nil_append, List.pairwise_cons]
        exact ⟨fun e he => by have := hr e he; simp; omega, (ih (a + 1)).1⟩
      · intro e he
        simp only [List.cons_append, List.nil_append, List.mem_cons] at he
        rcases he with rfl | he
        · simpa [zeroByte] using hb
        · exact (ih (a + 1)).2 e he

/-- Writing a run of bytes keeps the canonical form. -/
theorem TabWf.tput {t : Tab Byte} (h : TabWf zeroByte t) (a : Nat) (bs : List Byte) : TabWf zeroByte (tput t a bs) :=
  h.splice (cellsOf_wf a bs) (by omega) (cellsOf_range a bs)

/-! ## Bytes -/

theorem tget_cellsOf (a : Nat) (bs : List Byte) (y : Nat) :
    tget zeroByte (cellsOf a bs) y = if a ≤ y then bs.getD (y - a) 0 else 0 := by
  induction bs generalizing a with
  | nil => simp [cellsOf, zeroByte]
  | cons b bs ih =>
    unfold cellsOf cellOf
    by_cases hy : y = a
    · subst hy
      by_cases hb : b = 0
      · rw [if_pos hb, List.nil_append, ih, if_neg (by omega), if_pos (Nat.le_refl _)]; simp [hb]
      · rw [if_neg hb, List.cons_append, tget_cons, if_pos rfl, if_pos (Nat.le_refl _)]; simp
    · have hs : ∀ h : a ≤ y, y - a = (y - (a + 1)) + 1 := by omega
      by_cases hb : b = 0
      · by_cases h : a ≤ y
        · rw [if_pos hb, List.nil_append, ih, if_pos (by omega), if_pos h, hs h]; simp
        · rw [if_pos hb, List.nil_append, ih, if_neg (by omega), if_neg h]
      · rw [if_neg hb]
        by_cases h : a ≤ y
        · rw [List.cons_append, List.nil_append, tget_cons, if_neg (by simpa using Ne.symm hy), ih, if_pos (by omega), if_pos h, hs h]; simp
        · rw [List.cons_append, List.nil_append, tget_cons, if_neg (by simpa using Ne.symm hy), ih, if_neg (by omega), if_neg h]

/-- A byte of a written run reads as written, every other byte as before. -/
theorem tget_tput (t : Tab Byte) (a : Nat) (bs : List Byte) (y : Nat) :
    tget zeroByte (tput t a bs) y = if a ≤ y ∧ y < a + bs.length then bs.getD (y - a) 0 else tget zeroByte t y := by
  have hout : ¬ (a ≤ y ∧ y < a + bs.length) → (cellsOf a bs).any (fun e => e.1 == y) = false := by
    intro h; simp only [List.any_eq_false, beq_iff_eq]; rintro e he rfl; exact h (cellsOf_range a bs e he)
  by_cases h1 : y < a
  · rw [if_neg (by omega), tput, tget_append_right _ _ _ _ (by
      rw [tget_append_left _ _ _ _ (hout (by omega))]
      exact tget_filter_drop zeroByte (fun x => decide (a + bs.length ≤ x)) t y (by simp; omega))]
    exact tget_filter_keep zeroByte (fun x => decide (x < a)) t y (by simpa using h1)
  · rw [tput, tget_append_left _ _ _ _ (filter_drops (fun x => decide (x < a)) t y (by simpa using h1))]
    by_cases h2 : y < a + bs.length
    · rw [if_pos ⟨by omega, h2⟩, tget_append_right _ _ _ _
        (tget_filter_drop zeroByte (fun x => decide (a + bs.length ≤ x)) t y (by simp; omega)), tget_cellsOf, if_pos (by omega)]
    · rw [if_neg (by omega), tget_append_left _ _ _ _ (hout (by omega))]
      exact tget_filter_keep zeroByte (fun x => decide (a + bs.length ≤ x)) t y (by simp; omega)

@[simp] theorem tread_length (t : Tab Byte) (a n : Nat) : (tread t a n).length = n := by
  induction n generalizing a with
  | zero => rfl
  | succ n ih => simp [tread, ih]

theorem tread_getD (t : Tab Byte) (a n i : Nat) (h : i < n) : (tread t a n).getD i 0 = tget zeroByte t (a + i) := by
  induction n generalizing a i with
  | zero => omega
  | succ n ih =>
    cases i with
    | zero => simp [tread]
    | succ i => simp only [tread, List.getD_cons_succ]; rw [ih (a + 1) i (by omega)]; congr 1; omega

/-- A run of bytes reads back as it was written. -/
theorem tread_tput (t : Tab Byte) (a : Nat) (bs : List Byte) : tread (tput t a bs) a bs.length = bs := by
  apply List.ext_getElem (by simp)
  intro i h1 h2
  have hg := tread_getD (tput t a bs) a bs.length i h2
  rw [tget_tput, if_pos ⟨by omega, by omega⟩] at hg
  simpa [List.getD_eq_getElem?_getD, List.getElem?_eq_getElem h1, List.getElem?_eq_getElem h2] using hg

end Sys2Proof
end

