-- ==== Sys2Proof/Laws/Units.lean ====
section
/-!
SUPPORT. What each named update of the state does to what the readers of units answer: the unit written reads as written, and every
other unit as before.
-/
namespace Sys2Proof.Machine

variable (s : State)

@[simp] theorem State.setReel_get_core (n : Nat) (r : Reel) (x : CoreId) : (s.setReel n r).core x = s.core x := rfl
@[simp] theorem State.setReel_get_coreK (n : Nat) (r : Reel) (x : Nat) : (s.setReel n r).coreK x = s.coreK x := rfl
@[simp] theorem State.setReel_get_die (n : Nat) (r : Reel) (x : Nat) : (s.setReel n r).die x = s.die x := rfl
@[simp] theorem State.setReel_get_hub (n : Nat) (r : Reel) (x : Nat) : (s.setReel n r).hub x = s.hub x := rfl
@[simp] theorem State.setReel_get_cd (n : Nat) (r : Reel) (x : Nat) : (s.setReel n r).cd x = s.cd x := rfl
@[simp] theorem State.setReel_get_mb (n : Nat) (r : Reel) (x : Nat) : (s.setReel n r).mb x = s.mb x := rfl
@[simp] theorem State.setReel_get_pf (n : Nat) (r : Reel) (x : Nat) : (s.setReel n r).pf x = s.pf x := rfl
@[simp] theorem State.setReel_get_port (n : Nat) (r : Reel) (x : Nat) : (s.setReel n r).port x = s.port x := rfl
@[simp] theorem State.setReel_get_route (n : Nat) (r : Reel) (x : Nat) : (s.setReel n r).route x = s.route x := rfl
@[simp] theorem State.setReel_get_eth (n : Nat) (r : Reel) (x : Nat) : (s.setReel n r).eth x = s.eth x := rfl
@[simp] theorem State.setReel_get_cast (n : Nat) (r : Reel) (x : Nat) : (s.setReel n r).cast x = s.cast x := rfl
@[simp] theorem State.setReel_get_job (n : Nat) (r : Reel) (x : Word) : (s.setReel n r).job x = s.job x := rfl
@[simp] theorem State.setReel_get_tenant (n : Nat) (r : Reel) (x : Nat) : (s.setReel n r).tenant x = s.tenant x := rfl
@[simp] theorem State.setReel_get_slate (n : Nat) (r : Reel) (x : Nat) : (s.setReel n r).slate x = s.slate x := rfl
@[simp] theorem State.setReel_get_block (n : Nat) (r : Reel) (x : Nat) : (s.setReel n r).block x = s.block x := rfl
@[simp] theorem State.setReel_get_region (n : Nat) (r : Reel) (x : Nat) : (s.setReel n r).region x = s.region x := rfl
@[simp] theorem State.setReel_get_ownerOf (n : Nat) (r : Reel) (x : Nat) : (s.setReel n r).ownerOf x = s.ownerOf x := rfl
@[simp] theorem State.setReel_get_wkey (n : Nat) (r : Reel) (x : Nat) : (s.setReel n r).wkey x = s.wkey x := rfl
@[simp] theorem State.setReel_get_ebtor (n : Nat) (r : Reel) : (s.setReel n r).ebtor = s.ebtor := rfl
@[simp] theorem State.setReel_get_clocks (n : Nat) (r : Reel) : (s.setReel n r).clocks = s.clocks := rfl
@[simp] theorem State.setReel_get_activeCd (n : Nat) (r : Reel) : (s.setReel n r).activeCd = s.activeCd := rfl
@[simp] theorem State.setReel_get_poisoned (n : Nat) (r : Reel) (x : Nat) : (s.setReel n r).poisoned x = s.poisoned x := rfl
@[simp] theorem State.setReel_get_unlisted (n : Nat) (r : Reel) (x : Nat) : (s.setReel n r).unlisted x = s.unlisted x := rfl
@[simp] theorem State.setReel_get_freeVal (n : Nat) (r : Reel) : (s.setReel n r).freeVal = s.freeVal := rfl
@[simp] theorem State.setReel_same (n : Nat) (r : Reel) : (s.setReel n r).reel n = r := tget_tset_same ..
theorem State.setReel_other (n : Nat) (r : Reel) {x : Nat} (hx : x ≠ n) : (s.setReel n r).reel x = s.reel x := tget_tset_ne _ _ _ hx

@[simp] theorem State.modReel_get_core (n : Nat) (g : Reel → Reel) (x : CoreId) : (s.modReel n g).core x = s.core x := rfl
@[simp] theorem State.modReel_get_coreK (n : Nat) (g : Reel → Reel) (x : Nat) : (s.modReel n g).coreK x = s.coreK x := rfl
@[simp] theorem State.modReel_get_die (n : Nat) (g : Reel → Reel) (x : Nat) : (s.modReel n g).die x = s.die x := rfl
@[simp] theorem State.modReel_get_hub (n : Nat) (g : Reel → Reel) (x : Nat) : (s.modReel n g).hub x = s.hub x := rfl
@[simp] theorem State.modReel_get_cd (n : Nat) (g : Reel → Reel) (x : Nat) : (s.modReel n g).cd x = s.cd x := rfl
@[simp] theorem State.modReel_get_mb (n : Nat) (g : Reel → Reel) (x : Nat) : (s.modReel n g).mb x = s.mb x := rfl
@[simp] theorem State.modReel_get_pf (n : Nat) (g : Reel → Reel) (x : Nat) : (s.modReel n g).pf x = s.pf x := rfl
@[simp] theorem State.modReel_get_port (n : Nat) (g : Reel → Reel) (x : Nat) : (s.modReel n g).port x = s.port x := rfl
@[simp] theorem State.modReel_get_route (n : Nat) (g : Reel → Reel) (x : Nat) : (s.modReel n g).route x = s.route x := rfl
@[simp] theorem State.modReel_get_eth (n : Nat) (g : Reel → Reel) (x : Nat) : (s.modReel n g).eth x = s.eth x := rfl
@[simp] theorem State.modReel_get_cast (n : Nat) (g : Reel → Reel) (x : Nat) : (s.modReel n g).cast x = s.cast x := rfl
@[simp] theorem State.modReel_get_job (n : Nat) (g : Reel → Reel) (x : Word) : (s.modReel n g).job x = s.job x := rfl
@[simp] theorem State.modReel_get_tenant (n : Nat) (g : Reel → Reel) (x : Nat) : (s.modReel n g).tenant x = s.tenant x := rfl
@[simp] theorem State.modReel_get_slate (n : Nat) (g : Reel → Reel) (x : Nat) : (s.modReel n g).slate x = s.slate x := rfl
@[simp] theorem State.modReel_get_block (n : Nat) (g : Reel → Reel) (x : Nat) : (s.modReel n g).block x = s.block x := rfl
@[simp] theorem State.modReel_get_region (n : Nat) (g : Reel → Reel) (x : Nat) : (s.modReel n g).region x = s.region x := rfl
@[simp] theorem State.modReel_get_ownerOf (n : Nat) (g : Reel → Reel) (x : Nat) : (s.modReel n g).ownerOf x = s.ownerOf x := rfl
@[simp] theorem State.modReel_get_wkey (n : Nat) (g : Reel → Reel) (x : Nat) : (s.modReel n g).wkey x = s.wkey x := rfl
@[simp] theorem State.modReel_get_ebtor (n : Nat) (g : Reel → Reel) : (s.modReel n g).ebtor = s.ebtor := rfl
@[simp] theorem State.modReel_get_clocks (n : Nat) (g : Reel → Reel) : (s.modReel n g).clocks = s.clocks := rfl
@[simp] theorem State.modReel_get_activeCd (n : Nat) (g : Reel → Reel) : (s.modReel n g).activeCd = s.activeCd := rfl
@[simp] theorem State.modReel_get_poisoned (n : Nat) (g : Reel → Reel) (x : Nat) : (s.modReel n g).poisoned x = s.poisoned x := rfl
@[simp] theorem State.modReel_get_unlisted (n : Nat) (g : Reel → Reel) (x : Nat) : (s.modReel n g).unlisted x = s.unlisted x := rfl
@[simp] theorem State.modReel_get_freeVal (n : Nat) (g : Reel → Reel) : (s.modReel n g).freeVal = s.freeVal := rfl
@[simp] theorem State.modReel_same (n : Nat) (g : Reel → Reel) : (s.modReel n g).reel n = g (s.reel n) := tget_tset_same ..
theorem State.modReel_other (n : Nat) (g : Reel → Reel) {x : Nat} (hx : x ≠ n) : (s.modReel n g).reel x = s.reel x := tget_tset_ne _ _ _ hx

@[simp] theorem State.setCore_get_reel (c : CoreId) (v : Core) (x : Nat) : (s.setCore c v).reel x = s.reel x := rfl
@[simp] theorem State.setCore_get_die (c : CoreId) (v : Core) (x : Nat) : (s.setCore c v).die x = s.die x := rfl
@[simp] theorem State.setCore_get_hub (c : CoreId) (v : Core) (x : Nat) : (s.setCore c v).hub x = s.hub x := rfl
@[simp] theorem State.setCore_get_cd (c : CoreId) (v : Core) (x : Nat) : (s.setCore c v).cd x = s.cd x := rfl
@[simp] theorem State.setCore_get_mb (c : CoreId) (v : Core) (x : Nat) : (s.setCore c v).mb x = s.mb x := rfl
@[simp] theorem State.setCore_get_pf (c : CoreId) (v : Core) (x : Nat) : (s.setCore c v).pf x = s.pf x := rfl
@[simp] theorem State.setCore_get_port (c : CoreId) (v : Core) (x : Nat) : (s.setCore c v).port x = s.port x := rfl
@[simp] theorem State.setCore_get_route (c : CoreId) (v : Core) (x : Nat) : (s.setCore c v).route x = s.route x := rfl
@[simp] theorem State.setCore_get_eth (c : CoreId) (v : Core) (x : Nat) : (s.setCore c v).eth x = s.eth x := rfl
@[simp] theorem State.setCore_get_cast (c : CoreId) (v : Core) (x : Nat) : (s.setCore c v).cast x = s.cast x := rfl
@[simp] theorem State.setCore_get_job (c : CoreId) (v : Core) (x : Word) : (s.setCore c v).job x = s.job x := rfl
@[simp] theorem State.setCore_get_tenant (c : CoreId) (v : Core) (x : Nat) : (s.setCore c v).tenant x = s.tenant x := rfl
@[simp] theorem State.setCore_get_slate (c : CoreId) (v : Core) (x : Nat) : (s.setCore c v).slate x = s.slate x := rfl
@[simp] theorem State.setCore_get_block (c : CoreId) (v : Core) (x : Nat) : (s.setCore c v).block x = s.block x := rfl
@[simp] theorem State.setCore_get_region (c : CoreId) (v : Core) (x : Nat) : (s.setCore c v).region x = s.region x := rfl
@[simp] theorem State.setCore_get_ownerOf (c : CoreId) (v : Core) (x : Nat) : (s.setCore c v).ownerOf x = s.ownerOf x := rfl
@[simp] theorem State.setCore_get_wkey (c : CoreId) (v : Core) (x : Nat) : (s.setCore c v).wkey x = s.wkey x := rfl
@[simp] theorem State.setCore_get_ebtor (c : CoreId) (v : Core) : (s.setCore c v).ebtor = s.ebtor := rfl
@[simp] theorem State.setCore_get_clocks (c : CoreId) (v : Core) : (s.setCore c v).clocks = s.clocks := rfl
@[simp] theorem State.setCore_get_activeCd (c : CoreId) (v : Core) : (s.setCore c v).activeCd = s.activeCd := rfl
@[simp] theorem State.setCore_get_poisoned (c : CoreId) (v : Core) (x : Nat) : (s.setCore c v).poisoned x = s.poisoned x := rfl
@[simp] theorem State.setCore_get_unlisted (c : CoreId) (v : Core) (x : Nat) : (s.setCore c v).unlisted x = s.unlisted x := rfl
@[simp] theorem State.setCore_get_freeVal (c : CoreId) (v : Core) : (s.setCore c v).freeVal = s.freeVal := rfl
@[simp] theorem State.setCore_same (c : CoreId) (v : Core) : (s.setCore c v).core c = v := tget_tset_same ..
theorem State.setCore_other (c : CoreId) (v : Core) {x : CoreId} (hx : x.key ≠ c.key) : (s.setCore c v).core x = s.core x := tget_tset_ne _ _ _ hx

@[simp] theorem State.modCore_get_reel (c : CoreId) (g : Core → Core) (x : Nat) : (s.modCore c g).reel x = s.reel x := rfl
@[simp] theorem State.modCore_get_die (c : CoreId) (g : Core → Core) (x : Nat) : (s.modCore c g).die x = s.die x := rfl
@[simp] theorem State.modCore_get_hub (c : CoreId) (g : Core → Core) (x : Nat) : (s.modCore c g).hub x = s.hub x := rfl
@[simp] theorem State.modCore_get_cd (c : CoreId) (g : Core → Core) (x : Nat) : (s.modCore c g).cd x = s.cd x := rfl
@[simp] theorem State.modCore_get_mb (c : CoreId) (g : Core → Core) (x : Nat) : (s.modCore c g).mb x = s.mb x := rfl
@[simp] theorem State.modCore_get_pf (c : CoreId) (g : Core → Core) (x : Nat) : (s.modCore c g).pf x = s.pf x := rfl
@[simp] theorem State.modCore_get_port (c : CoreId) (g : Core → Core) (x : Nat) : (s.modCore c g).port x = s.port x := rfl
@[simp] theorem State.modCore_get_route (c : CoreId) (g : Core → Core) (x : Nat) : (s.modCore c g).route x = s.route x := rfl
@[simp] theorem State.modCore_get_eth (c : CoreId) (g : Core → Core) (x : Nat) : (s.modCore c g).eth x = s.eth x := rfl
@[simp] theorem State.modCore_get_cast (c : CoreId) (g : Core → Core) (x : Nat) : (s.modCore c g).cast x = s.cast x := rfl
@[simp] theorem State.modCore_get_job (c : CoreId) (g : Core → Core) (x : Word) : (s.modCore c g).job x = s.job x := rfl
@[simp] theorem State.modCore_get_tenant (c : CoreId) (g : Core → Core) (x : Nat) : (s.modCore c g).tenant x = s.tenant x := rfl
@[simp] theorem State.modCore_get_slate (c : CoreId) (g : Core → Core) (x : Nat) : (s.modCore c g).slate x = s.slate x := rfl
@[simp] theorem State.modCore_get_block (c : CoreId) (g : Core → Core) (x : Nat) : (s.modCore c g).block x = s.block x := rfl
@[simp] theorem State.modCore_get_region (c : CoreId) (g : Core → Core) (x : Nat) : (s.modCore c g).region x = s.region x := rfl
@[simp] theorem State.modCore_get_ownerOf (c : CoreId) (g : Core → Core) (x : Nat) : (s.modCore c g).ownerOf x = s.ownerOf x := rfl
@[simp] theorem State.modCore_get_wkey (c : CoreId) (g : Core → Core) (x : Nat) : (s.modCore c g).wkey x = s.wkey x := rfl
@[simp] theorem State.modCore_get_ebtor (c : CoreId) (g : Core → Core) : (s.modCore c g).ebtor = s.ebtor := rfl
@[simp] theorem State.modCore_get_clocks (c : CoreId) (g : Core → Core) : (s.modCore c g).clocks = s.clocks := rfl
@[simp] theorem State.modCore_get_activeCd (c : CoreId) (g : Core → Core) : (s.modCore c g).activeCd = s.activeCd := rfl
@[simp] theorem State.modCore_get_poisoned (c : CoreId) (g : Core → Core) (x : Nat) : (s.modCore c g).poisoned x = s.poisoned x := rfl
@[simp] theorem State.modCore_get_unlisted (c : CoreId) (g : Core → Core) (x : Nat) : (s.modCore c g).unlisted x = s.unlisted x := rfl
@[simp] theorem State.modCore_get_freeVal (c : CoreId) (g : Core → Core) : (s.modCore c g).freeVal = s.freeVal := rfl
@[simp] theorem State.modCore_same (c : CoreId) (g : Core → Core) : (s.modCore c g).core c = g (s.core c) := tget_tset_same ..
theorem State.modCore_other (c : CoreId) (g : Core → Core) {x : CoreId} (hx : x.key ≠ c.key) : (s.modCore c g).core x = s.core x := tget_tset_ne _ _ _ hx

@[simp] theorem State.modCoreK_get_reel (k : Nat) (g : Core → Core) (x : Nat) : (s.modCoreK k g).reel x = s.reel x := rfl
@[simp] theorem State.modCoreK_get_die (k : Nat) (g : Core → Core) (x : Nat) : (s.modCoreK k g).die x = s.die x := rfl
@[simp] theorem State.modCoreK_get_hub (k : Nat) (g : Core → Core) (x : Nat) : (s.modCoreK k g).hub x = s.hub x := rfl
@[simp] theorem State.modCoreK_get_cd (k : Nat) (g : Core → Core) (x : Nat) : (s.modCoreK k g).cd x = s.cd x := rfl
@[simp] theorem State.modCoreK_get_mb (k : Nat) (g : Core → Core) (x : Nat) : (s.modCoreK k g).mb x = s.mb x := rfl
@[simp] theorem State.modCoreK_get_pf (k : Nat) (g : Core → Core) (x : Nat) : (s.modCoreK k g).pf x = s.pf x := rfl
@[simp] theorem State.modCoreK_get_port (k : Nat) (g : Core → Core) (x : Nat) : (s.modCoreK k g).port x = s.port x := rfl
@[simp] theorem State.modCoreK_get_route (k : Nat) (g : Core → Core) (x : Nat) : (s.modCoreK k g).route x = s.route x := rfl
@[simp] theorem State.modCoreK_get_eth (k : Nat) (g : Core → Core) (x : Nat) : (s.modCoreK k g).eth x = s.eth x := rfl
@[simp] theorem State.modCoreK_get_cast (k : Nat) (g : Core → Core) (x : Nat) : (s.modCoreK k g).cast x = s.cast x := rfl
@[simp] theorem State.modCoreK_get_job (k : Nat) (g : Core → Core) (x : Word) : (s.modCoreK k g).job x = s.job x := rfl
@[simp] theorem State.modCoreK_get_tenant (k : Nat) (g : Core → Core) (x : Nat) : (s.modCoreK k g).tenant x = s.tenant x := rfl
@[simp] theorem State.modCoreK_get_slate (k : Nat) (g : Core → Core) (x : Nat) : (s.modCoreK k g).slate x = s.slate x := rfl
@[simp] theorem State.modCoreK_get_block (k : Nat) (g : Core → Core) (x : Nat) : (s.modCoreK k g).block x = s.block x := rfl
@[simp] theorem State.modCoreK_get_region (k : Nat) (g : Core → Core) (x : Nat) : (s.modCoreK k g).region x = s.region x := rfl
@[simp] theorem State.modCoreK_get_ownerOf (k : Nat) (g : Core → Core) (x : Nat) : (s.modCoreK k g).ownerOf x = s.ownerOf x := rfl
@[simp] theorem State.modCoreK_get_wkey (k : Nat) (g : Core → Core) (x : Nat) : (s.modCoreK k g).wkey x = s.wkey x := rfl
@[simp] theorem State.modCoreK_get_ebtor (k : Nat) (g : Core → Core) : (s.modCoreK k g).ebtor = s.ebtor := rfl
@[simp] theorem State.modCoreK_get_clocks (k : Nat) (g : Core → Core) : (s.modCoreK k g).clocks = s.clocks := rfl
@[simp] theorem State.modCoreK_get_activeCd (k : Nat) (g : Core → Core) : (s.modCoreK k g).activeCd = s.activeCd := rfl
@[simp] theorem State.modCoreK_get_poisoned (k : Nat) (g : Core → Core) (x : Nat) : (s.modCoreK k g).poisoned x = s.poisoned x := rfl
@[simp] theorem State.modCoreK_get_unlisted (k : Nat) (g : Core → Core) (x : Nat) : (s.modCoreK k g).unlisted x = s.unlisted x := rfl
@[simp] theorem State.modCoreK_get_freeVal (k : Nat) (g : Core → Core) : (s.modCoreK k g).freeVal = s.freeVal := rfl
@[simp] theorem State.modCoreK_same (k : Nat) (g : Core → Core) : (s.modCoreK k g).coreK k = g (s.coreK k) := tget_tset_same ..
theorem State.modCoreK_other (k : Nat) (g : Core → Core) {x : Nat} (hx : x ≠ k) : (s.modCoreK k g).coreK x = s.coreK x := tget_tset_ne _ _ _ hx

@[simp] theorem State.modMx_get_reel (c : CoreId) (g : Mx → Mx) (x : Nat) : (s.modMx c g).reel x = s.reel x := rfl
@[simp] theorem State.modMx_get_die (c : CoreId) (g : Mx → Mx) (x : Nat) : (s.modMx c g).die x = s.die x := rfl
@[simp] theorem State.modMx_get_hub (c : CoreId) (g : Mx → Mx) (x : Nat) : (s.modMx c g).hub x = s.hub x := rfl
@[simp] theorem State.modMx_get_cd (c : CoreId) (g : Mx → Mx) (x : Nat) : (s.modMx c g).cd x = s.cd x := rfl
@[simp] theorem State.modMx_get_mb (c : CoreId) (g : Mx → Mx) (x : Nat) : (s.modMx c g).mb x = s.mb x := rfl
@[simp] theorem State.modMx_get_pf (c : CoreId) (g : Mx → Mx) (x : Nat) : (s.modMx c g).pf x = s.pf x := rfl
@[simp] theorem State.modMx_get_port (c : CoreId) (g : Mx → Mx) (x : Nat) : (s.modMx c g).port x = s.port x := rfl
@[simp] theorem State.modMx_get_route (c : CoreId) (g : Mx → Mx) (x : Nat) : (s.modMx c g).route x = s.route x := rfl
@[simp] theorem State.modMx_get_eth (c : CoreId) (g : Mx → Mx) (x : Nat) : (s.modMx c g).eth x = s.eth x := rfl
@[simp] theorem State.modMx_get_cast (c : CoreId) (g : Mx → Mx) (x : Nat) : (s.modMx c g).cast x = s.cast x := rfl
@[simp] theorem State.modMx_get_job (c : CoreId) (g : Mx → Mx) (x : Word) : (s.modMx c g).job x = s.job x := rfl
@[simp] theorem State.modMx_get_tenant (c : CoreId) (g : Mx → Mx) (x : Nat) : (s.modMx c g).tenant x = s.tenant x := rfl
@[simp] theorem State.modMx_get_slate (c : CoreId) (g : Mx → Mx) (x : Nat) : (s.modMx c g).slate x = s.slate x := rfl
@[simp] theorem State.modMx_get_block (c : CoreId) (g : Mx → Mx) (x : Nat) : (s.modMx c g).block x = s.block x := rfl
@[simp] theorem State.modMx_get_region (c : CoreId) (g : Mx → Mx) (x : Nat) : (s.modMx c g).region x = s.region x := rfl
@[simp] theorem State.modMx_get_ownerOf (c : CoreId) (g : Mx → Mx) (x : Nat) : (s.modMx c g).ownerOf x = s.ownerOf x := rfl
@[simp] theorem State.modMx_get_wkey (c : CoreId) (g : Mx → Mx) (x : Nat) : (s.modMx c g).wkey x = s.wkey x := rfl
@[simp] theorem State.modMx_get_ebtor (c : CoreId) (g : Mx → Mx) : (s.modMx c g).ebtor = s.ebtor := rfl
@[simp] theorem State.modMx_get_clocks (c : CoreId) (g : Mx → Mx) : (s.modMx c g).clocks = s.clocks := rfl
@[simp] theorem State.modMx_get_activeCd (c : CoreId) (g : Mx → Mx) : (s.modMx c g).activeCd = s.activeCd := rfl
@[simp] theorem State.modMx_get_poisoned (c : CoreId) (g : Mx → Mx) (x : Nat) : (s.modMx c g).poisoned x = s.poisoned x := rfl
@[simp] theorem State.modMx_get_unlisted (c : CoreId) (g : Mx → Mx) (x : Nat) : (s.modMx c g).unlisted x = s.unlisted x := rfl
@[simp] theorem State.modMx_get_freeVal (c : CoreId) (g : Mx → Mx) : (s.modMx c g).freeVal = s.freeVal := rfl

@[simp] theorem State.modDie_get_reel (d : Nat) (g : Die → Die) (x : Nat) : (s.modDie d g).reel x = s.reel x := rfl
@[simp] theorem State.modDie_get_core (d : Nat) (g : Die → Die) (x : CoreId) : (s.modDie d g).core x = s.core x := rfl
@[simp] theorem State.modDie_get_coreK (d : Nat) (g : Die → Die) (x : Nat) : (s.modDie d g).coreK x = s.coreK x := rfl
@[simp] theorem State.modDie_get_hub (d : Nat) (g : Die → Die) (x : Nat) : (s.modDie d g).hub x = s.hub x := rfl
@[simp] theorem State.modDie_get_cd (d : Nat) (g : Die → Die) (x : Nat) : (s.modDie d g).cd x = s.cd x := rfl
@[simp] theorem State.modDie_get_mb (d : Nat) (g : Die → Die) (x : Nat) : (s.modDie d g).mb x = s.mb x := rfl
@[simp] theorem State.modDie_get_pf (d : Nat) (g : Die → Die) (x : Nat) : (s.modDie d g).pf x = s.pf x := rfl
@[simp] theorem State.modDie_get_port (d : Nat) (g : Die → Die) (x : Nat) : (s.modDie d g).port x = s.port x := rfl
@[simp] theorem State.modDie_get_route (d : Nat) (g : Die → Die) (x : Nat) : (s.modDie d g).route x = s.route x := rfl
@[simp] theorem State.modDie_get_eth (d : Nat) (g : Die → Die) (x : Nat) : (s.modDie d g).eth x = s.eth x := rfl
@[simp] theorem State.modDie_get_cast (d : Nat) (g : Die → Die) (x : Nat) : (s.modDie d g).cast x = s.cast x := rfl
@[simp] theorem State.modDie_get_job (d : Nat) (g : Die → Die) (x : Word) : (s.modDie d g).job x = s.job x := rfl
@[simp] theorem State.modDie_get_tenant (d : Nat) (g : Die → Die) (x : Nat) : (s.modDie d g).tenant x = s.tenant x := rfl
@[simp] theorem State.modDie_get_slate (d : Nat) (g : Die → Die) (x : Nat) : (s.modDie d g).slate x = s.slate x := rfl
@[simp] theorem State.modDie_get_block (d : Nat) (g : Die → Die) (x : Nat) : (s.modDie d g).block x = s.block x := rfl
@[simp] theorem State.modDie_get_region (d : Nat) (g : Die → Die) (x : Nat) : (s.modDie d g).region x = s.region x := rfl
@[simp] theorem State.modDie_get_ownerOf (d : Nat) (g : Die → Die) (x : Nat) : (s.modDie d g).ownerOf x = s.ownerOf x := rfl
@[simp] theorem State.modDie_get_wkey (d : Nat) (g : Die → Die) (x : Nat) : (s.modDie d g).wkey x = s.wkey x := rfl
@[simp] theorem State.modDie_get_ebtor (d : Nat) (g : Die → Die) : (s.modDie d g).ebtor = s.ebtor := rfl
@[simp] theorem State.modDie_get_clocks (d : Nat) (g : Die → Die) : (s.modDie d g).clocks = s.clocks := rfl
@[simp] theorem State.modDie_get_activeCd (d : Nat) (g : Die → Die) : (s.modDie d g).activeCd = s.activeCd := rfl
@[simp] theorem State.modDie_get_poisoned (d : Nat) (g : Die → Die) (x : Nat) : (s.modDie d g).poisoned x = s.poisoned x := rfl
@[simp] theorem State.modDie_get_unlisted (d : Nat) (g : Die → Die) (x : Nat) : (s.modDie d g).unlisted x = s.unlisted x := rfl
@[simp] theorem State.modDie_get_freeVal (d : Nat) (g : Die → Die) : (s.modDie d g).freeVal = s.freeVal := rfl
@[simp] theorem State.modDie_same (d : Nat) (g : Die → Die) : (s.modDie d g).die d = g (s.die d) := tget_tset_same ..
theorem State.modDie_other (d : Nat) (g : Die → Die) {x : Nat} (hx : x ≠ d) : (s.modDie d g).die x = s.die x := tget_tset_ne _ _ _ hx

@[simp] theorem State.modCue_get_reel (d : Nat) (g : Cue → Cue) (x : Nat) : (s.modCue d g).reel x = s.reel x := rfl
@[simp] theorem State.modCue_get_core (d : Nat) (g : Cue → Cue) (x : CoreId) : (s.modCue d g).core x = s.core x := rfl
@[simp] theorem State.modCue_get_coreK (d : Nat) (g : Cue → Cue) (x : Nat) : (s.modCue d g).coreK x = s.coreK x := rfl
@[simp] theorem State.modCue_get_hub (d : Nat) (g : Cue → Cue) (x : Nat) : (s.modCue d g).hub x = s.hub x := rfl
@[simp] theorem State.modCue_get_cd (d : Nat) (g : Cue → Cue) (x : Nat) : (s.modCue d g).cd x = s.cd x := rfl
@[simp] theorem State.modCue_get_mb (d : Nat) (g : Cue → Cue) (x : Nat) : (s.modCue d g).mb x = s.mb x := rfl
@[simp] theorem State.modCue_get_pf (d : Nat) (g : Cue → Cue) (x : Nat) : (s.modCue d g).pf x = s.pf x := rfl
@[simp] theorem State.modCue_get_port (d : Nat) (g : Cue → Cue) (x : Nat) : (s.modCue d g).port x = s.port x := rfl
@[simp] theorem State.modCue_get_route (d : Nat) (g : Cue → Cue) (x : Nat) : (s.modCue d g).route x = s.route x := rfl
@[simp] theorem State.modCue_get_eth (d : Nat) (g : Cue → Cue) (x : Nat) : (s.modCue d g).eth x = s.eth x := rfl
@[simp] theorem State.modCue_get_cast (d : Nat) (g : Cue → Cue) (x : Nat) : (s.modCue d g).cast x = s.cast x := rfl
@[simp] theorem State.modCue_get_job (d : Nat) (g : Cue → Cue) (x : Word) : (s.modCue d g).job x = s.job x := rfl
@[simp] theorem State.modCue_get_tenant (d : Nat) (g : Cue → Cue) (x : Nat) : (s.modCue d g).tenant x = s.tenant x := rfl
@[simp] theorem State.modCue_get_slate (d : Nat) (g : Cue → Cue) (x : Nat) : (s.modCue d g).slate x = s.slate x := rfl
@[simp] theorem State.modCue_get_block (d : Nat) (g : Cue → Cue) (x : Nat) : (s.modCue d g).block x = s.block x := rfl
@[simp] theorem State.modCue_get_region (d : Nat) (g : Cue → Cue) (x : Nat) : (s.modCue d g).region x = s.region x := rfl
@[simp] theorem State.modCue_get_ownerOf (d : Nat) (g : Cue → Cue) (x : Nat) : (s.modCue d g).ownerOf x = s.ownerOf x := rfl
@[simp] theorem State.modCue_get_wkey (d : Nat) (g : Cue → Cue) (x : Nat) : (s.modCue d g).wkey x = s.wkey x := rfl
@[simp] theorem State.modCue_get_ebtor (d : Nat) (g : Cue → Cue) : (s.modCue d g).ebtor = s.ebtor := rfl
@[simp] theorem State.modCue_get_clocks (d : Nat) (g : Cue → Cue) : (s.modCue d g).clocks = s.clocks := rfl
@[simp] theorem State.modCue_get_activeCd (d : Nat) (g : Cue → Cue) : (s.modCue d g).activeCd = s.activeCd := rfl
@[simp] theorem State.modCue_get_poisoned (d : Nat) (g : Cue → Cue) (x : Nat) : (s.modCue d g).poisoned x = s.poisoned x := rfl
@[simp] theorem State.modCue_get_unlisted (d : Nat) (g : Cue → Cue) (x : Nat) : (s.modCue d g).unlisted x = s.unlisted x := rfl
@[simp] theorem State.modCue_get_freeVal (d : Nat) (g : Cue → Cue) : (s.modCue d g).freeVal = s.freeVal := rfl

@[simp] theorem State.modHub_get_reel (h : Nat) (g : Hub → Hub) (x : Nat) : (s.modHub h g).reel x = s.reel x := rfl
@[simp] theorem State.modHub_get_core (h : Nat) (g : Hub → Hub) (x : CoreId) : (s.modHub h g).core x = s.core x := rfl
@[simp] theorem State.modHub_get_coreK (h : Nat) (g : Hub → Hub) (x : Nat) : (s.modHub h g).coreK x = s.coreK x := rfl
@[simp] theorem State.modHub_get_die (h : Nat) (g : Hub → Hub) (x : Nat) : (s.modHub h g).die x = s.die x := rfl
@[simp] theorem State.modHub_get_cd (h : Nat) (g : Hub → Hub) (x : Nat) : (s.modHub h g).cd x = s.cd x := rfl
@[simp] theorem State.modHub_get_mb (h : Nat) (g : Hub → Hub) (x : Nat) : (s.modHub h g).mb x = s.mb x := rfl
@[simp] theorem State.modHub_get_pf (h : Nat) (g : Hub → Hub) (x : Nat) : (s.modHub h g).pf x = s.pf x := rfl
@[simp] theorem State.modHub_get_port (h : Nat) (g : Hub → Hub) (x : Nat) : (s.modHub h g).port x = s.port x := rfl
@[simp] theorem State.modHub_get_route (h : Nat) (g : Hub → Hub) (x : Nat) : (s.modHub h g).route x = s.route x := rfl
@[simp] theorem State.modHub_get_eth (h : Nat) (g : Hub → Hub) (x : Nat) : (s.modHub h g).eth x = s.eth x := rfl
@[simp] theorem State.modHub_get_cast (h : Nat) (g : Hub → Hub) (x : Nat) : (s.modHub h g).cast x = s.cast x := rfl
@[simp] theorem State.modHub_get_job (h : Nat) (g : Hub → Hub) (x : Word) : (s.modHub h g).job x = s.job x := rfl
@[simp] theorem State.modHub_get_tenant (h : Nat) (g : Hub → Hub) (x : Nat) : (s.modHub h g).tenant x = s.tenant x := rfl
@[simp] theorem State.modHub_get_slate (h : Nat) (g : Hub → Hub) (x : Nat) : (s.modHub h g).slate x = s.slate x := rfl
@[simp] theorem State.modHub_get_block (h : Nat) (g : Hub → Hub) (x : Nat) : (s.modHub h g).block x = s.block x := rfl
@[simp] theorem State.modHub_get_region (h : Nat) (g : Hub → Hub) (x : Nat) : (s.modHub h g).region x = s.region x := rfl
@[simp] theorem State.modHub_get_ownerOf (h : Nat) (g : Hub → Hub) (x : Nat) : (s.modHub h g).ownerOf x = s.ownerOf x := rfl
@[simp] theorem State.modHub_get_wkey (h : Nat) (g : Hub → Hub) (x : Nat) : (s.modHub h g).wkey x = s.wkey x := rfl
@[simp] theorem State.modHub_get_ebtor (h : Nat) (g : Hub → Hub) : (s.modHub h g).ebtor = s.ebtor := rfl
@[simp] theorem State.modHub_get_clocks (h : Nat) (g : Hub → Hub) : (s.modHub h g).clocks = s.clocks := rfl
@[simp] theorem State.modHub_get_activeCd (h : Nat) (g : Hub → Hub) : (s.modHub h g).activeCd = s.activeCd := rfl
@[simp] theorem State.modHub_get_freeVal (h : Nat) (g : Hub → Hub) : (s.modHub h g).freeVal = s.freeVal := rfl
@[simp] theorem State.modHub_same (h : Nat) (g : Hub → Hub) : (s.modHub h g).hub h = g (s.hub h) := tget_tset_same ..
theorem State.modHub_other (h : Nat) (g : Hub → Hub) {x : Nat} (hx : x ≠ h) : (s.modHub h g).hub x = s.hub x := tget_tset_ne _ _ _ hx

@[simp] theorem State.modCd_get_reel (n : Nat) (g : ControlDie → ControlDie) (x : Nat) : (s.modCd n g).reel x = s.reel x := rfl
@[simp] theorem State.modCd_get_core (n : Nat) (g : ControlDie → ControlDie) (x : CoreId) : (s.modCd n g).core x = s.core x := rfl
@[simp] theorem State.modCd_get_coreK (n : Nat) (g : ControlDie → ControlDie) (x : Nat) : (s.modCd n g).coreK x = s.coreK x := rfl
@[simp] theorem State.modCd_get_die (n : Nat) (g : ControlDie → ControlDie) (x : Nat) : (s.modCd n g).die x = s.die x := rfl
@[simp] theorem State.modCd_get_hub (n : Nat) (g : ControlDie → ControlDie) (x : Nat) : (s.modCd n g).hub x = s.hub x := rfl
@[simp] theorem State.modCd_get_mb (n : Nat) (g : ControlDie → ControlDie) (x : Nat) : (s.modCd n g).mb x = s.mb x := rfl
@[simp] theorem State.modCd_get_pf (n : Nat) (g : ControlDie → ControlDie) (x : Nat) : (s.modCd n g).pf x = s.pf x := rfl
@[simp] theorem State.modCd_get_port (n : Nat) (g : ControlDie → ControlDie) (x : Nat) : (s.modCd n g).port x = s.port x := rfl
@[simp] theorem State.modCd_get_route (n : Nat) (g : ControlDie → ControlDie) (x : Nat) : (s.modCd n g).route x = s.route x := rfl
@[simp] theorem State.modCd_get_eth (n : Nat) (g : ControlDie → ControlDie) (x : Nat) : (s.modCd n g).eth x = s.eth x := rfl
@[simp] theorem State.modCd_get_cast (n : Nat) (g : ControlDie → ControlDie) (x : Nat) : (s.modCd n g).cast x = s.cast x := rfl
@[simp] theorem State.modCd_get_job (n : Nat) (g : ControlDie → ControlDie) (x : Word) : (s.modCd n g).job x = s.job x := rfl
@[simp] theorem State.modCd_get_tenant (n : Nat) (g : ControlDie → ControlDie) (x : Nat) : (s.modCd n g).tenant x = s.tenant x := rfl
@[simp] theorem State.modCd_get_slate (n : Nat) (g : ControlDie → ControlDie) (x : Nat) : (s.modCd n g).slate x = s.slate x := rfl
@[simp] theorem State.modCd_get_block (n : Nat) (g : ControlDie → ControlDie) (x : Nat) : (s.modCd n g).block x = s.block x := rfl
@[simp] theorem State.modCd_get_region (n : Nat) (g : ControlDie → ControlDie) (x : Nat) : (s.modCd n g).region x = s.region x := rfl
@[simp] theorem State.modCd_get_ownerOf (n : Nat) (g : ControlDie → ControlDie) (x : Nat) : (s.modCd n g).ownerOf x = s.ownerOf x := rfl
@[simp] theorem State.modCd_get_wkey (n : Nat) (g : ControlDie → ControlDie) (x : Nat) : (s.modCd n g).wkey x = s.wkey x := rfl
@[simp] theorem State.modCd_get_ebtor (n : Nat) (g : ControlDie → ControlDie) : (s.modCd n g).ebtor = s.ebtor := rfl
@[simp] theorem State.modCd_get_clocks (n : Nat) (g : ControlDie → ControlDie) : (s.modCd n g).clocks = s.clocks := rfl
@[simp] theorem State.modCd_get_activeCd (n : Nat) (g : ControlDie → ControlDie) : (s.modCd n g).activeCd = s.activeCd := rfl
@[simp] theorem State.modCd_get_poisoned (n : Nat) (g : ControlDie → ControlDie) (x : Nat) : (s.modCd n g).poisoned x = s.poisoned x := rfl
@[simp] theorem State.modCd_get_unlisted (n : Nat) (g : ControlDie → ControlDie) (x : Nat) : (s.modCd n g).unlisted x = s.unlisted x := rfl
@[simp] theorem State.modCd_get_freeVal (n : Nat) (g : ControlDie → ControlDie) : (s.modCd n g).freeVal = s.freeVal := rfl
@[simp] theorem State.modCd_same (n : Nat) (g : ControlDie → ControlDie) : (s.modCd n g).cd n = g (s.cd n) := tget_tset_same ..
theorem State.modCd_other (n : Nat) (g : ControlDie → ControlDie) {x : Nat} (hx : x ≠ n) : (s.modCd n g).cd x = s.cd x := tget_tset_ne _ _ _ hx

@[simp] theorem State.modMb_get_reel (m : Nat) (g : Mailbox → Mailbox) (x : Nat) : (s.modMb m g).reel x = s.reel x := rfl
@[simp] theorem State.modMb_get_core (m : Nat) (g : Mailbox → Mailbox) (x : CoreId) : (s.modMb m g).core x = s.core x := rfl
@[simp] theorem State.modMb_get_coreK (m : Nat) (g : Mailbox → Mailbox) (x : Nat) : (s.modMb m g).coreK x = s.coreK x := rfl
@[simp] theorem State.modMb_get_die (m : Nat) (g : Mailbox → Mailbox) (x : Nat) : (s.modMb m g).die x = s.die x := rfl
@[simp] theorem State.modMb_get_hub (m : Nat) (g : Mailbox → Mailbox) (x : Nat) : (s.modMb m g).hub x = s.hub x := rfl
@[simp] theorem State.modMb_get_cd (m : Nat) (g : Mailbox → Mailbox) (x : Nat) : (s.modMb m g).cd x = s.cd x := rfl
@[simp] theorem State.modMb_get_pf (m : Nat) (g : Mailbox → Mailbox) (x : Nat) : (s.modMb m g).pf x = s.pf x := rfl
@[simp] theorem State.modMb_get_port (m : Nat) (g : Mailbox → Mailbox) (x : Nat) : (s.modMb m g).port x = s.port x := rfl
@[simp] theorem State.modMb_get_route (m : Nat) (g : Mailbox → Mailbox) (x : Nat) : (s.modMb m g).route x = s.route x := rfl
@[simp] theorem State.modMb_get_eth (m : Nat) (g : Mailbox → Mailbox) (x : Nat) : (s.modMb m g).eth x = s.eth x := rfl
@[simp] theorem State.modMb_get_cast (m : Nat) (g : Mailbox → Mailbox) (x : Nat) : (s.modMb m g).cast x = s.cast x := rfl
@[simp] theorem State.modMb_get_job (m : Nat) (g : Mailbox → Mailbox) (x : Word) : (s.modMb m g).job x = s.job x := rfl
@[simp] theorem State.modMb_get_tenant (m : Nat) (g : Mailbox → Mailbox) (x : Nat) : (s.modMb m g).tenant x = s.tenant x := rfl
@[simp] theorem State.modMb_get_slate (m : Nat) (g : Mailbox → Mailbox) (x : Nat) : (s.modMb m g).slate x = s.slate x := rfl
@[simp] theorem State.modMb_get_block (m : Nat) (g : Mailbox → Mailbox) (x : Nat) : (s.modMb m g).block x = s.block x := rfl
@[simp] theorem State.modMb_get_region (m : Nat) (g : Mailbox → Mailbox) (x : Nat) : (s.modMb m g).region x = s.region x := rfl
@[simp] theorem State.modMb_get_ownerOf (m : Nat) (g : Mailbox → Mailbox) (x : Nat) : (s.modMb m g).ownerOf x = s.ownerOf x := rfl
@[simp] theorem State.modMb_get_wkey (m : Nat) (g : Mailbox → Mailbox) (x : Nat) : (s.modMb m g).wkey x = s.wkey x := rfl
@[simp] theorem State.modMb_get_ebtor (m : Nat) (g : Mailbox → Mailbox) : (s.modMb m g).ebtor = s.ebtor := rfl
@[simp] theorem State.modMb_get_clocks (m : Nat) (g : Mailbox → Mailbox) : (s.modMb m g).clocks = s.clocks := rfl
@[simp] theorem State.modMb_get_activeCd (m : Nat) (g : Mailbox → Mailbox) : (s.modMb m g).activeCd = s.activeCd := rfl
@[simp] theorem State.modMb_get_poisoned (m : Nat) (g : Mailbox → Mailbox) (x : Nat) : (s.modMb m g).poisoned x = s.poisoned x := rfl
@[simp] theorem State.modMb_get_unlisted (m : Nat) (g : Mailbox → Mailbox) (x : Nat) : (s.modMb m g).unlisted x = s.unlisted x := rfl
@[simp] theorem State.modMb_get_freeVal (m : Nat) (g : Mailbox → Mailbox) : (s.modMb m g).freeVal = s.freeVal := rfl
@[simp] theorem State.modMb_same (m : Nat) (g : Mailbox → Mailbox) : (s.modMb m g).mb m = g (s.mb m) := tget_tset_same ..
theorem State.modMb_other (m : Nat) (g : Mailbox → Mailbox) {x : Nat} (hx : x ≠ m) : (s.modMb m g).mb x = s.mb x := tget_tset_ne _ _ _ hx

@[simp] theorem State.modPf_get_reel (p : Nat) (g : PcieFn → PcieFn) (x : Nat) : (s.modPf p g).reel x = s.reel x := rfl
@[simp] theorem State.modPf_get_core (p : Nat) (g : PcieFn → PcieFn) (x : CoreId) : (s.modPf p g).core x = s.core x := rfl
@[simp] theorem State.modPf_get_coreK (p : Nat) (g : PcieFn → PcieFn) (x : Nat) : (s.modPf p g).coreK x = s.coreK x := rfl
@[simp] theorem State.modPf_get_die (p : Nat) (g : PcieFn → PcieFn) (x : Nat) : (s.modPf p g).die x = s.die x := rfl
@[simp] theorem State.modPf_get_hub (p : Nat) (g : PcieFn → PcieFn) (x : Nat) : (s.modPf p g).hub x = s.hub x := rfl
@[simp] theorem State.modPf_get_cd (p : Nat) (g : PcieFn → PcieFn) (x : Nat) : (s.modPf p g).cd x = s.cd x := rfl
@[simp] theorem State.modPf_get_mb (p : Nat) (g : PcieFn → PcieFn) (x : Nat) : (s.modPf p g).mb x = s.mb x := rfl
@[simp] theorem State.modPf_get_port (p : Nat) (g : PcieFn → PcieFn) (x : Nat) : (s.modPf p g).port x = s.port x := rfl
@[simp] theorem State.modPf_get_route (p : Nat) (g : PcieFn → PcieFn) (x : Nat) : (s.modPf p g).route x = s.route x := rfl
@[simp] theorem State.modPf_get_eth (p : Nat) (g : PcieFn → PcieFn) (x : Nat) : (s.modPf p g).eth x = s.eth x := rfl
@[simp] theorem State.modPf_get_cast (p : Nat) (g : PcieFn → PcieFn) (x : Nat) : (s.modPf p g).cast x = s.cast x := rfl
@[simp] theorem State.modPf_get_job (p : Nat) (g : PcieFn → PcieFn) (x : Word) : (s.modPf p g).job x = s.job x := rfl
@[simp] theorem State.modPf_get_tenant (p : Nat) (g : PcieFn → PcieFn) (x : Nat) : (s.modPf p g).tenant x = s.tenant x := rfl
@[simp] theorem State.modPf_get_slate (p : Nat) (g : PcieFn → PcieFn) (x : Nat) : (s.modPf p g).slate x = s.slate x := rfl
@[simp] theorem State.modPf_get_block (p : Nat) (g : PcieFn → PcieFn) (x : Nat) : (s.modPf p g).block x = s.block x := rfl
@[simp] theorem State.modPf_get_region (p : Nat) (g : PcieFn → PcieFn) (x : Nat) : (s.modPf p g).region x = s.region x := rfl
@[simp] theorem State.modPf_get_ownerOf (p : Nat) (g : PcieFn → PcieFn) (x : Nat) : (s.modPf p g).ownerOf x = s.ownerOf x := rfl
@[simp] theorem State.modPf_get_wkey (p : Nat) (g : PcieFn → PcieFn) (x : Nat) : (s.modPf p g).wkey x = s.wkey x := rfl
@[simp] theorem State.modPf_get_ebtor (p : Nat) (g : PcieFn → PcieFn) : (s.modPf p g).ebtor = s.ebtor := rfl
@[simp] theorem State.modPf_get_clocks (p : Nat) (g : PcieFn → PcieFn) : (s.modPf p g).clocks = s.clocks := rfl
@[simp] theorem State.modPf_get_activeCd (p : Nat) (g : PcieFn → PcieFn) : (s.modPf p g).activeCd = s.activeCd := rfl
@[simp] theorem State.modPf_get_poisoned (p : Nat) (g : PcieFn → PcieFn) (x : Nat) : (s.modPf p g).poisoned x = s.poisoned x := rfl
@[simp] theorem State.modPf_get_unlisted (p : Nat) (g : PcieFn → PcieFn) (x : Nat) : (s.modPf p g).unlisted x = s.unlisted x := rfl
@[simp] theorem State.modPf_get_freeVal (p : Nat) (g : PcieFn → PcieFn) : (s.modPf p g).freeVal = s.freeVal := rfl
@[simp] theorem State.modPf_same (p : Nat) (g : PcieFn → PcieFn) : (s.modPf p g).pf p = g (s.pf p) := tget_tset_same ..
theorem State.modPf_other (p : Nat) (g : PcieFn → PcieFn) {x : Nat} (hx : x ≠ p) : (s.modPf p g).pf x = s.pf x := tget_tset_ne _ _ _ hx

@[simp] theorem State.modLinks_get_reel (g : Links → Links) (x : Nat) : (s.modLinks g).reel x = s.reel x := rfl
@[simp] theorem State.modLinks_get_core (g : Links → Links) (x : CoreId) : (s.modLinks g).core x = s.core x := rfl
@[simp] theorem State.modLinks_get_coreK (g : Links → Links) (x : Nat) : (s.modLinks g).coreK x = s.coreK x := rfl
@[simp] theorem State.modLinks_get_die (g : Links → Links) (x : Nat) : (s.modLinks g).die x = s.die x := rfl
@[simp] theorem State.modLinks_get_hub (g : Links → Links) (x : Nat) : (s.modLinks g).hub x = s.hub x := rfl
@[simp] theorem State.modLinks_get_cd (g : Links → Links) (x : Nat) : (s.modLinks g).cd x = s.cd x := rfl
@[simp] theorem State.modLinks_get_mb (g : Links → Links) (x : Nat) : (s.modLinks g).mb x = s.mb x := rfl
@[simp] theorem State.modLinks_get_pf (g : Links → Links) (x : Nat) : (s.modLinks g).pf x = s.pf x := rfl
@[simp] theorem State.modLinks_get_job (g : Links → Links) (x : Word) : (s.modLinks g).job x = s.job x := rfl
@[simp] theorem State.modLinks_get_tenant (g : Links → Links) (x : Nat) : (s.modLinks g).tenant x = s.tenant x := rfl
@[simp] theorem State.modLinks_get_slate (g : Links → Links) (x : Nat) : (s.modLinks g).slate x = s.slate x := rfl
@[simp] theorem State.modLinks_get_block (g : Links → Links) (x : Nat) : (s.modLinks g).block x = s.block x := rfl
@[simp] theorem State.modLinks_get_region (g : Links → Links) (x : Nat) : (s.modLinks g).region x = s.region x := rfl
@[simp] theorem State.modLinks_get_ownerOf (g : Links → Links) (x : Nat) : (s.modLinks g).ownerOf x = s.ownerOf x := rfl
@[simp] theorem State.modLinks_get_wkey (g : Links → Links) (x : Nat) : (s.modLinks g).wkey x = s.wkey x := rfl
@[simp] theorem State.modLinks_get_ebtor (g : Links → Links) : (s.modLinks g).ebtor = s.ebtor := rfl
@[simp] theorem State.modLinks_get_clocks (g : Links → Links) : (s.modLinks g).clocks = s.clocks := rfl
@[simp] theorem State.modLinks_get_activeCd (g : Links → Links) : (s.modLinks g).activeCd = s.activeCd := rfl
@[simp] theorem State.modLinks_get_poisoned (g : Links → Links) (x : Nat) : (s.modLinks g).poisoned x = s.poisoned x := rfl
@[simp] theorem State.modLinks_get_unlisted (g : Links → Links) (x : Nat) : (s.modLinks g).unlisted x = s.unlisted x := rfl
@[simp] theorem State.modLinks_get_freeVal (g : Links → Links) : (s.modLinks g).freeVal = s.freeVal := rfl

@[simp] theorem State.modPort_get_reel (p : Nat) (g : Port → Port) (x : Nat) : (s.modPort p g).reel x = s.reel x := rfl
@[simp] theorem State.modPort_get_core (p : Nat) (g : Port → Port) (x : CoreId) : (s.modPort p g).core x = s.core x := rfl
@[simp] theorem State.modPort_get_coreK (p : Nat) (g : Port → Port) (x : Nat) : (s.modPort p g).coreK x = s.coreK x := rfl
@[simp] theorem State.modPort_get_die (p : Nat) (g : Port → Port) (x : Nat) : (s.modPort p g).die x = s.die x := rfl
@[simp] theorem State.modPort_get_hub (p : Nat) (g : Port → Port) (x : Nat) : (s.modPort p g).hub x = s.hub x := rfl
@[simp] theorem State.modPort_get_cd (p : Nat) (g : Port → Port) (x : Nat) : (s.modPort p g).cd x = s.cd x := rfl
@[simp] theorem State.modPort_get_mb (p : Nat) (g : Port → Port) (x : Nat) : (s.modPort p g).mb x = s.mb x := rfl
@[simp] theorem State.modPort_get_pf (p : Nat) (g : Port → Port) (x : Nat) : (s.modPort p g).pf x = s.pf x := rfl
@[simp] theorem State.modPort_get_job (p : Nat) (g : Port → Port) (x : Word) : (s.modPort p g).job x = s.job x := rfl
@[simp] theorem State.modPort_get_tenant (p : Nat) (g : Port → Port) (x : Nat) : (s.modPort p g).tenant x = s.tenant x := rfl
@[simp] theorem State.modPort_get_slate (p : Nat) (g : Port → Port) (x : Nat) : (s.modPort p g).slate x = s.slate x := rfl
@[simp] theorem State.modPort_get_block (p : Nat) (g : Port → Port) (x : Nat) : (s.modPort p g).block x = s.block x := rfl
@[simp] theorem State.modPort_get_region (p : Nat) (g : Port → Port) (x : Nat) : (s.modPort p g).region x = s.region x := rfl
@[simp] theorem State.modPort_get_ownerOf (p : Nat) (g : Port → Port) (x : Nat) : (s.modPort p g).ownerOf x = s.ownerOf x := rfl
@[simp] theorem State.modPort_get_wkey (p : Nat) (g : Port → Port) (x : Nat) : (s.modPort p g).wkey x = s.wkey x := rfl
@[simp] theorem State.modPort_get_ebtor (p : Nat) (g : Port → Port) : (s.modPort p g).ebtor = s.ebtor := rfl
@[simp] theorem State.modPort_get_clocks (p : Nat) (g : Port → Port) : (s.modPort p g).clocks = s.clocks := rfl
@[simp] theorem State.modPort_get_activeCd (p : Nat) (g : Port → Port) : (s.modPort p g).activeCd = s.activeCd := rfl
@[simp] theorem State.modPort_get_poisoned (p : Nat) (g : Port → Port) (x : Nat) : (s.modPort p g).poisoned x = s.poisoned x := rfl
@[simp] theorem State.modPort_get_unlisted (p : Nat) (g : Port → Port) (x : Nat) : (s.modPort p g).unlisted x = s.unlisted x := rfl
@[simp] theorem State.modPort_get_freeVal (p : Nat) (g : Port → Port) : (s.modPort p g).freeVal = s.freeVal := rfl
@[simp] theorem State.modPort_same (p : Nat) (g : Port → Port) : (s.modPort p g).port p = g (s.port p) := tget_tset_same ..
theorem State.modPort_other (p : Nat) (g : Port → Port) {x : Nat} (hx : x ≠ p) : (s.modPort p g).port x = s.port x := tget_tset_ne _ _ _ hx

@[simp] theorem State.modRoute_get_reel (i : Nat) (g : Route → Route) (x : Nat) : (s.modRoute i g).reel x = s.reel x := rfl
@[simp] theorem State.modRoute_get_core (i : Nat) (g : Route → Route) (x : CoreId) : (s.modRoute i g).core x = s.core x := rfl
@[simp] theorem State.modRoute_get_coreK (i : Nat) (g : Route → Route) (x : Nat) : (s.modRoute i g).coreK x = s.coreK x := rfl
@[simp] theorem State.modRoute_get_die (i : Nat) (g : Route → Route) (x : Nat) : (s.modRoute i g).die x = s.die x := rfl
@[simp] theorem State.modRoute_get_hub (i : Nat) (g : Route → Route) (x : Nat) : (s.modRoute i g).hub x = s.hub x := rfl
@[simp] theorem State.modRoute_get_cd (i : Nat) (g : Route → Route) (x : Nat) : (s.modRoute i g).cd x = s.cd x := rfl
@[simp] theorem State.modRoute_get_mb (i : Nat) (g : Route → Route) (x : Nat) : (s.modRoute i g).mb x = s.mb x := rfl
@[simp] theorem State.modRoute_get_pf (i : Nat) (g : Route → Route) (x : Nat) : (s.modRoute i g).pf x = s.pf x := rfl
@[simp] theorem State.modRoute_get_job (i : Nat) (g : Route → Route) (x : Word) : (s.modRoute i g).job x = s.job x := rfl
@[simp] theorem State.modRoute_get_tenant (i : Nat) (g : Route → Route) (x : Nat) : (s.modRoute i g).tenant x = s.tenant x := rfl
@[simp] theorem State.modRoute_get_slate (i : Nat) (g : Route → Route) (x : Nat) : (s.modRoute i g).slate x = s.slate x := rfl
@[simp] theorem State.modRoute_get_block (i : Nat) (g : Route → Route) (x : Nat) : (s.modRoute i g).block x = s.block x := rfl
@[simp] theorem State.modRoute_get_region (i : Nat) (g : Route → Route) (x : Nat) : (s.modRoute i g).region x = s.region x := rfl
@[simp] theorem State.modRoute_get_ownerOf (i : Nat) (g : Route → Route) (x : Nat) : (s.modRoute i g).ownerOf x = s.ownerOf x := rfl
@[simp] theorem State.modRoute_get_wkey (i : Nat) (g : Route → Route) (x : Nat) : (s.modRoute i g).wkey x = s.wkey x := rfl
@[simp] theorem State.modRoute_get_ebtor (i : Nat) (g : Route → Route) : (s.modRoute i g).ebtor = s.ebtor := rfl
@[simp] theorem State.modRoute_get_clocks (i : Nat) (g : Route → Route) : (s.modRoute i g).clocks = s.clocks := rfl
@[simp] theorem State.modRoute_get_activeCd (i : Nat) (g : Route → Route) : (s.modRoute i g).activeCd = s.activeCd := rfl
@[simp] theorem State.modRoute_get_poisoned (i : Nat) (g : Route → Route) (x : Nat) : (s.modRoute i g).poisoned x = s.poisoned x := rfl
@[simp] theorem State.modRoute_get_unlisted (i : Nat) (g : Route → Route) (x : Nat) : (s.modRoute i g).unlisted x = s.unlisted x := rfl
@[simp] theorem State.modRoute_get_freeVal (i : Nat) (g : Route → Route) : (s.modRoute i g).freeVal = s.freeVal := rfl
@[simp] theorem State.modRoute_same (i : Nat) (g : Route → Route) : (s.modRoute i g).route i = g (s.route i) := tget_tset_same ..
theorem State.modRoute_other (i : Nat) (g : Route → Route) {x : Nat} (hx : x ≠ i) : (s.modRoute i g).route x = s.route x := tget_tset_ne _ _ _ hx

@[simp] theorem State.modEth_get_reel (e : Nat) (g : EthPort → EthPort) (x : Nat) : (s.modEth e g).reel x = s.reel x := rfl
@[simp] theorem State.modEth_get_core (e : Nat) (g : EthPort → EthPort) (x : CoreId) : (s.modEth e g).core x = s.core x := rfl
@[simp] theorem State.modEth_get_coreK (e : Nat) (g : EthPort → EthPort) (x : Nat) : (s.modEth e g).coreK x = s.coreK x := rfl
@[simp] theorem State.modEth_get_die (e : Nat) (g : EthPort → EthPort) (x : Nat) : (s.modEth e g).die x = s.die x := rfl
@[simp] theorem State.modEth_get_hub (e : Nat) (g : EthPort → EthPort) (x : Nat) : (s.modEth e g).hub x = s.hub x := rfl
@[simp] theorem State.modEth_get_cd (e : Nat) (g : EthPort → EthPort) (x : Nat) : (s.modEth e g).cd x = s.cd x := rfl
@[simp] theorem State.modEth_get_mb (e : Nat) (g : EthPort → EthPort) (x : Nat) : (s.modEth e g).mb x = s.mb x := rfl
@[simp] theorem State.modEth_get_pf (e : Nat) (g : EthPort → EthPort) (x : Nat) : (s.modEth e g).pf x = s.pf x := rfl
@[simp] theorem State.modEth_get_job (e : Nat) (g : EthPort → EthPort) (x : Word) : (s.modEth e g).job x = s.job x := rfl
@[simp] theorem State.modEth_get_tenant (e : Nat) (g : EthPort → EthPort) (x : Nat) : (s.modEth e g).tenant x = s.tenant x := rfl
@[simp] theorem State.modEth_get_slate (e : Nat) (g : EthPort → EthPort) (x : Nat) : (s.modEth e g).slate x = s.slate x := rfl
@[simp] theorem State.modEth_get_block (e : Nat) (g : EthPort → EthPort) (x : Nat) : (s.modEth e g).block x = s.block x := rfl
@[simp] theorem State.modEth_get_region (e : Nat) (g : EthPort → EthPort) (x : Nat) : (s.modEth e g).region x = s.region x := rfl
@[simp] theorem State.modEth_get_ownerOf (e : Nat) (g : EthPort → EthPort) (x : Nat) : (s.modEth e g).ownerOf x = s.ownerOf x := rfl
@[simp] theorem State.modEth_get_wkey (e : Nat) (g : EthPort → EthPort) (x : Nat) : (s.modEth e g).wkey x = s.wkey x := rfl
@[simp] theorem State.modEth_get_ebtor (e : Nat) (g : EthPort → EthPort) : (s.modEth e g).ebtor = s.ebtor := rfl
@[simp] theorem State.modEth_get_clocks (e : Nat) (g : EthPort → EthPort) : (s.modEth e g).clocks = s.clocks := rfl
@[simp] theorem State.modEth_get_activeCd (e : Nat) (g : EthPort → EthPort) : (s.modEth e g).activeCd = s.activeCd := rfl
@[simp] theorem State.modEth_get_poisoned (e : Nat) (g : EthPort → EthPort) (x : Nat) : (s.modEth e g).poisoned x = s.poisoned x := rfl
@[simp] theorem State.modEth_get_unlisted (e : Nat) (g : EthPort → EthPort) (x : Nat) : (s.modEth e g).unlisted x = s.unlisted x := rfl
@[simp] theorem State.modEth_get_freeVal (e : Nat) (g : EthPort → EthPort) : (s.modEth e g).freeVal = s.freeVal := rfl
@[simp] theorem State.modEth_same (e : Nat) (g : EthPort → EthPort) : (s.modEth e g).eth e = g (s.eth e) := tget_tset_same ..
theorem State.modEth_other (e : Nat) (g : EthPort → EthPort) {x : Nat} (hx : x ≠ e) : (s.modEth e g).eth x = s.eth x := tget_tset_ne _ _ _ hx

@[simp] theorem State.modCast_get_reel (i : Nat) (g : Cast → Cast) (x : Nat) : (s.modCast i g).reel x = s.reel x := rfl
@[simp] theorem State.modCast_get_core (i : Nat) (g : Cast → Cast) (x : CoreId) : (s.modCast i g).core x = s.core x := rfl
@[simp] theorem State.modCast_get_coreK (i : Nat) (g : Cast → Cast) (x : Nat) : (s.modCast i g).coreK x = s.coreK x := rfl
@[simp] theorem State.modCast_get_die (i : Nat) (g : Cast → Cast) (x : Nat) : (s.modCast i g).die x = s.die x := rfl
@[simp] theorem State.modCast_get_hub (i : Nat) (g : Cast → Cast) (x : Nat) : (s.modCast i g).hub x = s.hub x := rfl
@[simp] theorem State.modCast_get_cd (i : Nat) (g : Cast → Cast) (x : Nat) : (s.modCast i g).cd x = s.cd x := rfl
@[simp] theorem State.modCast_get_mb (i : Nat) (g : Cast → Cast) (x : Nat) : (s.modCast i g).mb x = s.mb x := rfl
@[simp] theorem State.modCast_get_pf (i : Nat) (g : Cast → Cast) (x : Nat) : (s.modCast i g).pf x = s.pf x := rfl
@[simp] theorem State.modCast_get_job (i : Nat) (g : Cast → Cast) (x : Word) : (s.modCast i g).job x = s.job x := rfl
@[simp] theorem State.modCast_get_tenant (i : Nat) (g : Cast → Cast) (x : Nat) : (s.modCast i g).tenant x = s.tenant x := rfl
@[simp] theorem State.modCast_get_slate (i : Nat) (g : Cast → Cast) (x : Nat) : (s.modCast i g).slate x = s.slate x := rfl
@[simp] theorem State.modCast_get_block (i : Nat) (g : Cast → Cast) (x : Nat) : (s.modCast i g).block x = s.block x := rfl
@[simp] theorem State.modCast_get_region (i : Nat) (g : Cast → Cast) (x : Nat) : (s.modCast i g).region x = s.region x := rfl
@[simp] theorem State.modCast_get_ownerOf (i : Nat) (g : Cast → Cast) (x : Nat) : (s.modCast i g).ownerOf x = s.ownerOf x := rfl
@[simp] theorem State.modCast_get_wkey (i : Nat) (g : Cast → Cast) (x : Nat) : (s.modCast i g).wkey x = s.wkey x := rfl
@[simp] theorem State.modCast_get_ebtor (i : Nat) (g : Cast → Cast) : (s.modCast i g).ebtor = s.ebtor := rfl
@[simp] theorem State.modCast_get_clocks (i : Nat) (g : Cast → Cast) : (s.modCast i g).clocks = s.clocks := rfl
@[simp] theorem State.modCast_get_activeCd (i : Nat) (g : Cast → Cast) : (s.modCast i g).activeCd = s.activeCd := rfl
@[simp] theorem State.modCast_get_poisoned (i : Nat) (g : Cast → Cast) (x : Nat) : (s.modCast i g).poisoned x = s.poisoned x := rfl
@[simp] theorem State.modCast_get_unlisted (i : Nat) (g : Cast → Cast) (x : Nat) : (s.modCast i g).unlisted x = s.unlisted x := rfl
@[simp] theorem State.modCast_get_freeVal (i : Nat) (g : Cast → Cast) : (s.modCast i g).freeVal = s.freeVal := rfl
@[simp] theorem State.modCast_same (i : Nat) (g : Cast → Cast) : (s.modCast i g).cast i = g (s.cast i) := tget_tset_same ..
theorem State.modCast_other (i : Nat) (g : Cast → Cast) {x : Nat} (hx : x ≠ i) : (s.modCast i g).cast x = s.cast x := tget_tset_ne _ _ _ hx

@[simp] theorem State.modJob_get_reel (j : Word) (g : Job → Job) (x : Nat) : (s.modJob j g).reel x = s.reel x := rfl
@[simp] theorem State.modJob_get_core (j : Word) (g : Job → Job) (x : CoreId) : (s.modJob j g).core x = s.core x := rfl
@[simp] theorem State.modJob_get_coreK (j : Word) (g : Job → Job) (x : Nat) : (s.modJob j g).coreK x = s.coreK x := rfl
@[simp] theorem State.modJob_get_die (j : Word) (g : Job → Job) (x : Nat) : (s.modJob j g).die x = s.die x := rfl
@[simp] theorem State.modJob_get_hub (j : Word) (g : Job → Job) (x : Nat) : (s.modJob j g).hub x = s.hub x := rfl
@[simp] theorem State.modJob_get_cd (j : Word) (g : Job → Job) (x : Nat) : (s.modJob j g).cd x = s.cd x := rfl
@[simp] theorem State.modJob_get_mb (j : Word) (g : Job → Job) (x : Nat) : (s.modJob j g).mb x = s.mb x := rfl
@[simp] theorem State.modJob_get_pf (j : Word) (g : Job → Job) (x : Nat) : (s.modJob j g).pf x = s.pf x := rfl
@[simp] theorem State.modJob_get_port (j : Word) (g : Job → Job) (x : Nat) : (s.modJob j g).port x = s.port x := rfl
@[simp] theorem State.modJob_get_route (j : Word) (g : Job → Job) (x : Nat) : (s.modJob j g).route x = s.route x := rfl
@[simp] theorem State.modJob_get_eth (j : Word) (g : Job → Job) (x : Nat) : (s.modJob j g).eth x = s.eth x := rfl
@[simp] theorem State.modJob_get_cast (j : Word) (g : Job → Job) (x : Nat) : (s.modJob j g).cast x = s.cast x := rfl
@[simp] theorem State.modJob_get_tenant (j : Word) (g : Job → Job) (x : Nat) : (s.modJob j g).tenant x = s.tenant x := rfl
@[simp] theorem State.modJob_get_slate (j : Word) (g : Job → Job) (x : Nat) : (s.modJob j g).slate x = s.slate x := rfl
@[simp] theorem State.modJob_get_block (j : Word) (g : Job → Job) (x : Nat) : (s.modJob j g).block x = s.block x := rfl
@[simp] theorem State.modJob_get_region (j : Word) (g : Job → Job) (x : Nat) : (s.modJob j g).region x = s.region x := rfl
@[simp] theorem State.modJob_get_ownerOf (j : Word) (g : Job → Job) (x : Nat) : (s.modJob j g).ownerOf x = s.ownerOf x := rfl
@[simp] theorem State.modJob_get_wkey (j : Word) (g : Job → Job) (x : Nat) : (s.modJob j g).wkey x = s.wkey x := rfl
@[simp] theorem State.modJob_get_ebtor (j : Word) (g : Job → Job) : (s.modJob j g).ebtor = s.ebtor := rfl
@[simp] theorem State.modJob_get_clocks (j : Word) (g : Job → Job) : (s.modJob j g).clocks = s.clocks := rfl
@[simp] theorem State.modJob_get_activeCd (j : Word) (g : Job → Job) : (s.modJob j g).activeCd = s.activeCd := rfl
@[simp] theorem State.modJob_get_poisoned (j : Word) (g : Job → Job) (x : Nat) : (s.modJob j g).poisoned x = s.poisoned x := rfl
@[simp] theorem State.modJob_get_unlisted (j : Word) (g : Job → Job) (x : Nat) : (s.modJob j g).unlisted x = s.unlisted x := rfl
@[simp] theorem State.modJob_get_freeVal (j : Word) (g : Job → Job) : (s.modJob j g).freeVal = s.freeVal := rfl

@[simp] theorem State.modSec_get_reel (g : Sec → Sec) (x : Nat) : (s.modSec g).reel x = s.reel x := rfl
@[simp] theorem State.modSec_get_core (g : Sec → Sec) (x : CoreId) : (s.modSec g).core x = s.core x := rfl
@[simp] theorem State.modSec_get_coreK (g : Sec → Sec) (x : Nat) : (s.modSec g).coreK x = s.coreK x := rfl
@[simp] theorem State.modSec_get_die (g : Sec → Sec) (x : Nat) : (s.modSec g).die x = s.die x := rfl
@[simp] theorem State.modSec_get_hub (g : Sec → Sec) (x : Nat) : (s.modSec g).hub x = s.hub x := rfl
@[simp] theorem State.modSec_get_cd (g : Sec → Sec) (x : Nat) : (s.modSec g).cd x = s.cd x := rfl
@[simp] theorem State.modSec_get_mb (g : Sec → Sec) (x : Nat) : (s.modSec g).mb x = s.mb x := rfl
@[simp] theorem State.modSec_get_pf (g : Sec → Sec) (x : Nat) : (s.modSec g).pf x = s.pf x := rfl
@[simp] theorem State.modSec_get_port (g : Sec → Sec) (x : Nat) : (s.modSec g).port x = s.port x := rfl
@[simp] theorem State.modSec_get_route (g : Sec → Sec) (x : Nat) : (s.modSec g).route x = s.route x := rfl
@[simp] theorem State.modSec_get_eth (g : Sec → Sec) (x : Nat) : (s.modSec g).eth x = s.eth x := rfl
@[simp] theorem State.modSec_get_cast (g : Sec → Sec) (x : Nat) : (s.modSec g).cast x = s.cast x := rfl
@[simp] theorem State.modSec_get_job (g : Sec → Sec) (x : Word) : (s.modSec g).job x = s.job x := rfl
@[simp] theorem State.modSec_get_slate (g : Sec → Sec) (x : Nat) : (s.modSec g).slate x = s.slate x := rfl
@[simp] theorem State.modSec_get_block (g : Sec → Sec) (x : Nat) : (s.modSec g).block x = s.block x := rfl
@[simp] theorem State.modSec_get_ebtor (g : Sec → Sec) : (s.modSec g).ebtor = s.ebtor := rfl
@[simp] theorem State.modSec_get_clocks (g : Sec → Sec) : (s.modSec g).clocks = s.clocks := rfl
@[simp] theorem State.modSec_get_activeCd (g : Sec → Sec) : (s.modSec g).activeCd = s.activeCd := rfl
@[simp] theorem State.modSec_get_poisoned (g : Sec → Sec) (x : Nat) : (s.modSec g).poisoned x = s.poisoned x := rfl
@[simp] theorem State.modSec_get_unlisted (g : Sec → Sec) (x : Nat) : (s.modSec g).unlisted x = s.unlisted x := rfl
@[simp] theorem State.modSec_get_freeVal (g : Sec → Sec) : (s.modSec g).freeVal = s.freeVal := rfl

@[simp] theorem State.modTenant_get_reel (t : Nat) (g : Tenant → Tenant) (x : Nat) : (s.modTenant t g).reel x = s.reel x := rfl
@[simp] theorem State.modTenant_get_core (t : Nat) (g : Tenant → Tenant) (x : CoreId) : (s.modTenant t g).core x = s.core x := rfl
@[simp] theorem State.modTenant_get_coreK (t : Nat) (g : Tenant → Tenant) (x : Nat) : (s.modTenant t g).coreK x = s.coreK x := rfl
@[simp] theorem State.modTenant_get_die (t : Nat) (g : Tenant → Tenant) (x : Nat) : (s.modTenant t g).die x = s.die x := rfl
@[simp] theorem State.modTenant_get_hub (t : Nat) (g : Tenant → Tenant) (x : Nat) : (s.modTenant t g).hub x = s.hub x := rfl
@[simp] theorem State.modTenant_get_cd (t : Nat) (g : Tenant → Tenant) (x : Nat) : (s.modTenant t g).cd x = s.cd x := rfl
@[simp] theorem State.modTenant_get_mb (t : Nat) (g : Tenant → Tenant) (x : Nat) : (s.modTenant t g).mb x = s.mb x := rfl
@[simp] theorem State.modTenant_get_pf (t : Nat) (g : Tenant → Tenant) (x : Nat) : (s.modTenant t g).pf x = s.pf x := rfl
@[simp] theorem State.modTenant_get_port (t : Nat) (g : Tenant → Tenant) (x : Nat) : (s.modTenant t g).port x = s.port x := rfl
@[simp] theorem State.modTenant_get_route (t : Nat) (g : Tenant → Tenant) (x : Nat) : (s.modTenant t g).route x = s.route x := rfl
@[simp] theorem State.modTenant_get_eth (t : Nat) (g : Tenant → Tenant) (x : Nat) : (s.modTenant t g).eth x = s.eth x := rfl
@[simp] theorem State.modTenant_get_cast (t : Nat) (g : Tenant → Tenant) (x : Nat) : (s.modTenant t g).cast x = s.cast x := rfl
@[simp] theorem State.modTenant_get_job (t : Nat) (g : Tenant → Tenant) (x : Word) : (s.modTenant t g).job x = s.job x := rfl
@[simp] theorem State.modTenant_get_slate (t : Nat) (g : Tenant → Tenant) (x : Nat) : (s.modTenant t g).slate x = s.slate x := rfl
@[simp] theorem State.modTenant_get_block (t : Nat) (g : Tenant → Tenant) (x : Nat) : (s.modTenant t g).block x = s.block x := rfl
@[simp] theorem State.modTenant_get_ebtor (t : Nat) (g : Tenant → Tenant) : (s.modTenant t g).ebtor = s.ebtor := rfl
@[simp] theorem State.modTenant_get_clocks (t : Nat) (g : Tenant → Tenant) : (s.modTenant t g).clocks = s.clocks := rfl
@[simp] theorem State.modTenant_get_activeCd (t : Nat) (g : Tenant → Tenant) : (s.modTenant t g).activeCd = s.activeCd := rfl
@[simp] theorem State.modTenant_get_poisoned (t : Nat) (g : Tenant → Tenant) (x : Nat) : (s.modTenant t g).poisoned x = s.poisoned x := rfl
@[simp] theorem State.modTenant_get_unlisted (t : Nat) (g : Tenant → Tenant) (x : Nat) : (s.modTenant t g).unlisted x = s.unlisted x := rfl
@[simp] theorem State.modTenant_get_freeVal (t : Nat) (g : Tenant → Tenant) : (s.modTenant t g).freeVal = s.freeVal := rfl
@[simp] theorem State.modTenant_same (t : Nat) (g : Tenant → Tenant) : (s.modTenant t g).tenant t = g (s.tenant t) := tget_tset_same ..
theorem State.modTenant_other (t : Nat) (g : Tenant → Tenant) {x : Nat} (hx : x ≠ t) : (s.modTenant t g).tenant x = s.tenant x := tget_tset_ne _ _ _ hx

@[simp] theorem State.modGlb_get_reel (g : Glb → Glb) (x : Nat) : (s.modGlb g).reel x = s.reel x := rfl
@[simp] theorem State.modGlb_get_core (g : Glb → Glb) (x : CoreId) : (s.modGlb g).core x = s.core x := rfl
@[simp] theorem State.modGlb_get_coreK (g : Glb → Glb) (x : Nat) : (s.modGlb g).coreK x = s.coreK x := rfl
@[simp] theorem State.modGlb_get_die (g : Glb → Glb) (x : Nat) : (s.modGlb g).die x = s.die x := rfl
@[simp] theorem State.modGlb_get_hub (g : Glb → Glb) (x : Nat) : (s.modGlb g).hub x = s.hub x := rfl
@[simp] theorem State.modGlb_get_cd (g : Glb → Glb) (x : Nat) : (s.modGlb g).cd x = s.cd x := rfl
@[simp] theorem State.modGlb_get_mb (g : Glb → Glb) (x : Nat) : (s.modGlb g).mb x = s.mb x := rfl
@[simp] theorem State.modGlb_get_pf (g : Glb → Glb) (x : Nat) : (s.modGlb g).pf x = s.pf x := rfl
@[simp] theorem State.modGlb_get_port (g : Glb → Glb) (x : Nat) : (s.modGlb g).port x = s.port x := rfl
@[simp] theorem State.modGlb_get_route (g : Glb → Glb) (x : Nat) : (s.modGlb g).route x = s.route x := rfl
@[simp] theorem State.modGlb_get_eth (g : Glb → Glb) (x : Nat) : (s.modGlb g).eth x = s.eth x := rfl
@[simp] theorem State.modGlb_get_cast (g : Glb → Glb) (x : Nat) : (s.modGlb g).cast x = s.cast x := rfl
@[simp] theorem State.modGlb_get_job (g : Glb → Glb) (x : Word) : (s.modGlb g).job x = s.job x := rfl
@[simp] theorem State.modGlb_get_tenant (g : Glb → Glb) (x : Nat) : (s.modGlb g).tenant x = s.tenant x := rfl
@[simp] theorem State.modGlb_get_slate (g : Glb → Glb) (x : Nat) : (s.modGlb g).slate x = s.slate x := rfl
@[simp] theorem State.modGlb_get_block (g : Glb → Glb) (x : Nat) : (s.modGlb g).block x = s.block x := rfl
@[simp] theorem State.modGlb_get_region (g : Glb → Glb) (x : Nat) : (s.modGlb g).region x = s.region x := rfl
@[simp] theorem State.modGlb_get_ownerOf (g : Glb → Glb) (x : Nat) : (s.modGlb g).ownerOf x = s.ownerOf x := rfl
@[simp] theorem State.modGlb_get_wkey (g : Glb → Glb) (x : Nat) : (s.modGlb g).wkey x = s.wkey x := rfl
@[simp] theorem State.modGlb_get_clocks (g : Glb → Glb) : (s.modGlb g).clocks = s.clocks := rfl
@[simp] theorem State.modGlb_get_poisoned (g : Glb → Glb) (x : Nat) : (s.modGlb g).poisoned x = s.poisoned x := rfl
@[simp] theorem State.modGlb_get_unlisted (g : Glb → Glb) (x : Nat) : (s.modGlb g).unlisted x = s.unlisted x := rfl
@[simp] theorem State.modGlb_get_freeVal (g : Glb → Glb) : (s.modGlb g).freeVal = s.freeVal := rfl

@[simp] theorem State.modBoot_get_reel (g : Boot → Boot) (x : Nat) : (s.modBoot g).reel x = s.reel x := rfl
@[simp] theorem State.modBoot_get_core (g : Boot → Boot) (x : CoreId) : (s.modBoot g).core x = s.core x := rfl
@[simp] theorem State.modBoot_get_coreK (g : Boot → Boot) (x : Nat) : (s.modBoot g).coreK x = s.coreK x := rfl
@[simp] theorem State.modBoot_get_die (g : Boot → Boot) (x : Nat) : (s.modBoot g).die x = s.die x := rfl
@[simp] theorem State.modBoot_get_hub (g : Boot → Boot) (x : Nat) : (s.modBoot g).hub x = s.hub x := rfl
@[simp] theorem State.modBoot_get_cd (g : Boot → Boot) (x : Nat) : (s.modBoot g).cd x = s.cd x := rfl
@[simp] theorem State.modBoot_get_mb (g : Boot → Boot) (x : Nat) : (s.modBoot g).mb x = s.mb x := rfl
@[simp] theorem State.modBoot_get_pf (g : Boot → Boot) (x : Nat) : (s.modBoot g).pf x = s.pf x := rfl
@[simp] theorem State.modBoot_get_port (g : Boot → Boot) (x : Nat) : (s.modBoot g).port x = s.port x := rfl
@[simp] theorem State.modBoot_get_route (g : Boot → Boot) (x : Nat) : (s.modBoot g).route x = s.route x := rfl
@[simp] theorem State.modBoot_get_eth (g : Boot → Boot) (x : Nat) : (s.modBoot g).eth x = s.eth x := rfl
@[simp] theorem State.modBoot_get_cast (g : Boot → Boot) (x : Nat) : (s.modBoot g).cast x = s.cast x := rfl
@[simp] theorem State.modBoot_get_job (g : Boot → Boot) (x : Word) : (s.modBoot g).job x = s.job x := rfl
@[simp] theorem State.modBoot_get_tenant (g : Boot → Boot) (x : Nat) : (s.modBoot g).tenant x = s.tenant x := rfl
@[simp] theorem State.modBoot_get_slate (g : Boot → Boot) (x : Nat) : (s.modBoot g).slate x = s.slate x := rfl
@[simp] theorem State.modBoot_get_block (g : Boot → Boot) (x : Nat) : (s.modBoot g).block x = s.block x := rfl
@[simp] theorem State.modBoot_get_region (g : Boot → Boot) (x : Nat) : (s.modBoot g).region x = s.region x := rfl
@[simp] theorem State.modBoot_get_ownerOf (g : Boot → Boot) (x : Nat) : (s.modBoot g).ownerOf x = s.ownerOf x := rfl
@[simp] theorem State.modBoot_get_wkey (g : Boot → Boot) (x : Nat) : (s.modBoot g).wkey x = s.wkey x := rfl
@[simp] theorem State.modBoot_get_ebtor (g : Boot → Boot) : (s.modBoot g).ebtor = s.ebtor := rfl
@[simp] theorem State.modBoot_get_clocks (g : Boot → Boot) : (s.modBoot g).clocks = s.clocks := rfl
@[simp] theorem State.modBoot_get_activeCd (g : Boot → Boot) : (s.modBoot g).activeCd = s.activeCd := rfl
@[simp] theorem State.modBoot_get_poisoned (g : Boot → Boot) (x : Nat) : (s.modBoot g).poisoned x = s.poisoned x := rfl
@[simp] theorem State.modBoot_get_unlisted (g : Boot → Boot) (x : Nat) : (s.modBoot g).unlisted x = s.unlisted x := rfl
@[simp] theorem State.modBoot_get_freeVal (g : Boot → Boot) : (s.modBoot g).freeVal = s.freeVal := rfl

@[simp] theorem State.modClap_get_reel (g : Clapper → Clapper) (x : Nat) : (s.modClap g).reel x = s.reel x := rfl
@[simp] theorem State.modClap_get_core (g : Clapper → Clapper) (x : CoreId) : (s.modClap g).core x = s.core x := rfl
@[simp] theorem State.modClap_get_coreK (g : Clapper → Clapper) (x : Nat) : (s.modClap g).coreK x = s.coreK x := rfl
@[simp] theorem State.modClap_get_die (g : Clapper → Clapper) (x : Nat) : (s.modClap g).die x = s.die x := rfl
@[simp] theorem State.modClap_get_hub (g : Clapper → Clapper) (x : Nat) : (s.modClap g).hub x = s.hub x := rfl
@[simp] theorem State.modClap_get_cd (g : Clapper → Clapper) (x : Nat) : (s.modClap g).cd x = s.cd x := rfl
@[simp] theorem State.modClap_get_mb (g : Clapper → Clapper) (x : Nat) : (s.modClap g).mb x = s.mb x := rfl
@[simp] theorem State.modClap_get_pf (g : Clapper → Clapper) (x : Nat) : (s.modClap g).pf x = s.pf x := rfl
@[simp] theorem State.modClap_get_port (g : Clapper → Clapper) (x : Nat) : (s.modClap g).port x = s.port x := rfl
@[simp] theorem State.modClap_get_route (g : Clapper → Clapper) (x : Nat) : (s.modClap g).route x = s.route x := rfl
@[simp] theorem State.modClap_get_eth (g : Clapper → Clapper) (x : Nat) : (s.modClap g).eth x = s.eth x := rfl
@[simp] theorem State.modClap_get_cast (g : Clapper → Clapper) (x : Nat) : (s.modClap g).cast x = s.cast x := rfl
@[simp] theorem State.modClap_get_job (g : Clapper → Clapper) (x : Word) : (s.modClap g).job x = s.job x := rfl
@[simp] theorem State.modClap_get_tenant (g : Clapper → Clapper) (x : Nat) : (s.modClap g).tenant x = s.tenant x := rfl
@[simp] theorem State.modClap_get_slate (g : Clapper → Clapper) (x : Nat) : (s.modClap g).slate x = s.slate x := rfl
@[simp] theorem State.modClap_get_block (g : Clapper → Clapper) (x : Nat) : (s.modClap g).block x = s.block x := rfl
@[simp] theorem State.modClap_get_region (g : Clapper → Clapper) (x : Nat) : (s.modClap g).region x = s.region x := rfl
@[simp] theorem State.modClap_get_ownerOf (g : Clapper → Clapper) (x : Nat) : (s.modClap g).ownerOf x = s.ownerOf x := rfl
@[simp] theorem State.modClap_get_wkey (g : Clapper → Clapper) (x : Nat) : (s.modClap g).wkey x = s.wkey x := rfl
@[simp] theorem State.modClap_get_ebtor (g : Clapper → Clapper) : (s.modClap g).ebtor = s.ebtor := rfl
@[simp] theorem State.modClap_get_clocks (g : Clapper → Clapper) : (s.modClap g).clocks = s.clocks := rfl
@[simp] theorem State.modClap_get_activeCd (g : Clapper → Clapper) : (s.modClap g).activeCd = s.activeCd := rfl
@[simp] theorem State.modClap_get_poisoned (g : Clapper → Clapper) (x : Nat) : (s.modClap g).poisoned x = s.poisoned x := rfl
@[simp] theorem State.modClap_get_unlisted (g : Clapper → Clapper) (x : Nat) : (s.modClap g).unlisted x = s.unlisted x := rfl
@[simp] theorem State.modClap_get_freeVal (g : Clapper → Clapper) : (s.modClap g).freeVal = s.freeVal := rfl

@[simp] theorem State.modPwr_get_reel (g : Power → Power) (x : Nat) : (s.modPwr g).reel x = s.reel x := rfl
@[simp] theorem State.modPwr_get_core (g : Power → Power) (x : CoreId) : (s.modPwr g).core x = s.core x := rfl
@[simp] theorem State.modPwr_get_coreK (g : Power → Power) (x : Nat) : (s.modPwr g).coreK x = s.coreK x := rfl
@[simp] theorem State.modPwr_get_die (g : Power → Power) (x : Nat) : (s.modPwr g).die x = s.die x := rfl
@[simp] theorem State.modPwr_get_hub (g : Power → Power) (x : Nat) : (s.modPwr g).hub x = s.hub x := rfl
@[simp] theorem State.modPwr_get_cd (g : Power → Power) (x : Nat) : (s.modPwr g).cd x = s.cd x := rfl
@[simp] theorem State.modPwr_get_mb (g : Power → Power) (x : Nat) : (s.modPwr g).mb x = s.mb x := rfl
@[simp] theorem State.modPwr_get_pf (g : Power → Power) (x : Nat) : (s.modPwr g).pf x = s.pf x := rfl
@[simp] theorem State.modPwr_get_port (g : Power → Power) (x : Nat) : (s.modPwr g).port x = s.port x := rfl
@[simp] theorem State.modPwr_get_route (g : Power → Power) (x : Nat) : (s.modPwr g).route x = s.route x := rfl
@[simp] theorem State.modPwr_get_eth (g : Power → Power) (x : Nat) : (s.modPwr g).eth x = s.eth x := rfl
@[simp] theorem State.modPwr_get_cast (g : Power → Power) (x : Nat) : (s.modPwr g).cast x = s.cast x := rfl
@[simp] theorem State.modPwr_get_job (g : Power → Power) (x : Word) : (s.modPwr g).job x = s.job x := rfl
@[simp] theorem State.modPwr_get_tenant (g : Power → Power) (x : Nat) : (s.modPwr g).tenant x = s.tenant x := rfl
@[simp] theorem State.modPwr_get_slate (g : Power → Power) (x : Nat) : (s.modPwr g).slate x = s.slate x := rfl
@[simp] theorem State.modPwr_get_block (g : Power → Power) (x : Nat) : (s.modPwr g).block x = s.block x := rfl
@[simp] theorem State.modPwr_get_region (g : Power → Power) (x : Nat) : (s.modPwr g).region x = s.region x := rfl
@[simp] theorem State.modPwr_get_ownerOf (g : Power → Power) (x : Nat) : (s.modPwr g).ownerOf x = s.ownerOf x := rfl
@[simp] theorem State.modPwr_get_wkey (g : Power → Power) (x : Nat) : (s.modPwr g).wkey x = s.wkey x := rfl
@[simp] theorem State.modPwr_get_ebtor (g : Power → Power) : (s.modPwr g).ebtor = s.ebtor := rfl
@[simp] theorem State.modPwr_get_activeCd (g : Power → Power) : (s.modPwr g).activeCd = s.activeCd := rfl
@[simp] theorem State.modPwr_get_poisoned (g : Power → Power) (x : Nat) : (s.modPwr g).poisoned x = s.poisoned x := rfl
@[simp] theorem State.modPwr_get_unlisted (g : Power → Power) (x : Nat) : (s.modPwr g).unlisted x = s.unlisted x := rfl
@[simp] theorem State.modPwr_get_freeVal (g : Power → Power) : (s.modPwr g).freeVal = s.freeVal := rfl

@[simp] theorem State.modHbm_get_reel (g : Hbm → Hbm) (x : Nat) : (s.modHbm g).reel x = s.reel x := rfl
@[simp] theorem State.modHbm_get_core (g : Hbm → Hbm) (x : CoreId) : (s.modHbm g).core x = s.core x := rfl
@[simp] theorem State.modHbm_get_coreK (g : Hbm → Hbm) (x : Nat) : (s.modHbm g).coreK x = s.coreK x := rfl
@[simp] theorem State.modHbm_get_die (g : Hbm → Hbm) (x : Nat) : (s.modHbm g).die x = s.die x := rfl
@[simp] theorem State.modHbm_get_hub (g : Hbm → Hbm) (x : Nat) : (s.modHbm g).hub x = s.hub x := rfl
@[simp] theorem State.modHbm_get_cd (g : Hbm → Hbm) (x : Nat) : (s.modHbm g).cd x = s.cd x := rfl
@[simp] theorem State.modHbm_get_mb (g : Hbm → Hbm) (x : Nat) : (s.modHbm g).mb x = s.mb x := rfl
@[simp] theorem State.modHbm_get_pf (g : Hbm → Hbm) (x : Nat) : (s.modHbm g).pf x = s.pf x := rfl
@[simp] theorem State.modHbm_get_port (g : Hbm → Hbm) (x : Nat) : (s.modHbm g).port x = s.port x := rfl
@[simp] theorem State.modHbm_get_route (g : Hbm → Hbm) (x : Nat) : (s.modHbm g).route x = s.route x := rfl
@[simp] theorem State.modHbm_get_eth (g : Hbm → Hbm) (x : Nat) : (s.modHbm g).eth x = s.eth x := rfl
@[simp] theorem State.modHbm_get_cast (g : Hbm → Hbm) (x : Nat) : (s.modHbm g).cast x = s.cast x := rfl
@[simp] theorem State.modHbm_get_job (g : Hbm → Hbm) (x : Word) : (s.modHbm g).job x = s.job x := rfl
@[simp] theorem State.modHbm_get_tenant (g : Hbm → Hbm) (x : Nat) : (s.modHbm g).tenant x = s.tenant x := rfl
@[simp] theorem State.modHbm_get_region (g : Hbm → Hbm) (x : Nat) : (s.modHbm g).region x = s.region x := rfl
@[simp] theorem State.modHbm_get_ownerOf (g : Hbm → Hbm) (x : Nat) : (s.modHbm g).ownerOf x = s.ownerOf x := rfl
@[simp] theorem State.modHbm_get_wkey (g : Hbm → Hbm) (x : Nat) : (s.modHbm g).wkey x = s.wkey x := rfl
@[simp] theorem State.modHbm_get_ebtor (g : Hbm → Hbm) : (s.modHbm g).ebtor = s.ebtor := rfl
@[simp] theorem State.modHbm_get_clocks (g : Hbm → Hbm) : (s.modHbm g).clocks = s.clocks := rfl
@[simp] theorem State.modHbm_get_activeCd (g : Hbm → Hbm) : (s.modHbm g).activeCd = s.activeCd := rfl
@[simp] theorem State.modHbm_get_poisoned (g : Hbm → Hbm) (x : Nat) : (s.modHbm g).poisoned x = s.poisoned x := rfl
@[simp] theorem State.modHbm_get_unlisted (g : Hbm → Hbm) (x : Nat) : (s.modHbm g).unlisted x = s.unlisted x := rfl
@[simp] theorem State.modHbm_get_freeVal (g : Hbm → Hbm) : (s.modHbm g).freeVal = s.freeVal := rfl

@[simp] theorem State.emit_get_reel (o : OutMsg) (x : Nat) : (s.emit o).reel x = s.reel x := rfl
@[simp] theorem State.emit_get_core (o : OutMsg) (x : CoreId) : (s.emit o).core x = s.core x := rfl
@[simp] theorem State.emit_get_coreK (o : OutMsg) (x : Nat) : (s.emit o).coreK x = s.coreK x := rfl
@[simp] theorem State.emit_get_die (o : OutMsg) (x : Nat) : (s.emit o).die x = s.die x := rfl
@[simp] theorem State.emit_get_hub (o : OutMsg) (x : Nat) : (s.emit o).hub x = s.hub x := rfl
@[simp] theorem State.emit_get_cd (o : OutMsg) (x : Nat) : (s.emit o).cd x = s.cd x := rfl
@[simp] theorem State.emit_get_mb (o : OutMsg) (x : Nat) : (s.emit o).mb x = s.mb x := rfl
@[simp] theorem State.emit_get_pf (o : OutMsg) (x : Nat) : (s.emit o).pf x = s.pf x := rfl
@[simp] theorem State.emit_get_port (o : OutMsg) (x : Nat) : (s.emit o).port x = s.port x := rfl
@[simp] theorem State.emit_get_route (o : OutMsg) (x : Nat) : (s.emit o).route x = s.route x := rfl
@[simp] theorem State.emit_get_eth (o : OutMsg) (x : Nat) : (s.emit o).eth x = s.eth x := rfl
@[simp] theorem State.emit_get_cast (o : OutMsg) (x : Nat) : (s.emit o).cast x = s.cast x := rfl
@[simp] theorem State.emit_get_job (o : OutMsg) (x : Word) : (s.emit o).job x = s.job x := rfl
@[simp] theorem State.emit_get_tenant (o : OutMsg) (x : Nat) : (s.emit o).tenant x = s.tenant x := rfl
@[simp] theorem State.emit_get_slate (o : OutMsg) (x : Nat) : (s.emit o).slate x = s.slate x := rfl
@[simp] theorem State.emit_get_block (o : OutMsg) (x : Nat) : (s.emit o).block x = s.block x := rfl
@[simp] theorem State.emit_get_region (o : OutMsg) (x : Nat) : (s.emit o).region x = s.region x := rfl
@[simp] theorem State.emit_get_ownerOf (o : OutMsg) (x : Nat) : (s.emit o).ownerOf x = s.ownerOf x := rfl
@[simp] theorem State.emit_get_wkey (o : OutMsg) (x : Nat) : (s.emit o).wkey x = s.wkey x := rfl
@[simp] theorem State.emit_get_ebtor (o : OutMsg) : (s.emit o).ebtor = s.ebtor := rfl
@[simp] theorem State.emit_get_clocks (o : OutMsg) : (s.emit o).clocks = s.clocks := rfl
@[simp] theorem State.emit_get_activeCd (o : OutMsg) : (s.emit o).activeCd = s.activeCd := rfl
@[simp] theorem State.emit_get_poisoned (o : OutMsg) (x : Nat) : (s.emit o).poisoned x = s.poisoned x := rfl
@[simp] theorem State.emit_get_unlisted (o : OutMsg) (x : Nat) : (s.emit o).unlisted x = s.unlisted x := rfl
@[simp] theorem State.emit_get_freeVal (o : OutMsg) : (s.emit o).freeVal = s.freeVal := rfl

@[simp] theorem State.tick_get_reel (x : Nat) : (s.tick).reel x = s.reel x := rfl
@[simp] theorem State.tick_get_core (x : CoreId) : (s.tick).core x = s.core x := rfl
@[simp] theorem State.tick_get_coreK (x : Nat) : (s.tick).coreK x = s.coreK x := rfl
@[simp] theorem State.tick_get_die (x : Nat) : (s.tick).die x = s.die x := rfl
@[simp] theorem State.tick_get_hub (x : Nat) : (s.tick).hub x = s.hub x := rfl
@[simp] theorem State.tick_get_cd (x : Nat) : (s.tick).cd x = s.cd x := rfl
@[simp] theorem State.tick_get_mb (x : Nat) : (s.tick).mb x = s.mb x := rfl
@[simp] theorem State.tick_get_pf (x : Nat) : (s.tick).pf x = s.pf x := rfl
@[simp] theorem State.tick_get_port (x : Nat) : (s.tick).port x = s.port x := rfl
@[simp] theorem State.tick_get_route (x : Nat) : (s.tick).route x = s.route x := rfl
@[simp] theorem State.tick_get_eth (x : Nat) : (s.tick).eth x = s.eth x := rfl
@[simp] theorem State.tick_get_cast (x : Nat) : (s.tick).cast x = s.cast x := rfl
@[simp] theorem State.tick_get_job (x : Word) : (s.tick).job x = s.job x := rfl
@[simp] theorem State.tick_get_tenant (x : Nat) : (s.tick).tenant x = s.tenant x := rfl
@[simp] theorem State.tick_get_slate (x : Nat) : (s.tick).slate x = s.slate x := rfl
@[simp] theorem State.tick_get_block (x : Nat) : (s.tick).block x = s.block x := rfl
@[simp] theorem State.tick_get_region (x : Nat) : (s.tick).region x = s.region x := rfl
@[simp] theorem State.tick_get_ownerOf (x : Nat) : (s.tick).ownerOf x = s.ownerOf x := rfl
@[simp] theorem State.tick_get_wkey (x : Nat) : (s.tick).wkey x = s.wkey x := rfl
@[simp] theorem State.tick_get_ebtor : (s.tick).ebtor = s.ebtor := rfl
@[simp] theorem State.tick_get_clocks : (s.tick).clocks = s.clocks := rfl
@[simp] theorem State.tick_get_activeCd : (s.tick).activeCd = s.activeCd := rfl
@[simp] theorem State.tick_get_poisoned (x : Nat) : (s.tick).poisoned x = s.poisoned x := rfl
@[simp] theorem State.tick_get_unlisted (x : Nat) : (s.tick).unlisted x = s.unlisted x := rfl

@[simp] theorem State.rsv_get_reel (x : Nat) : (s.rsv).reel x = s.reel x := rfl
@[simp] theorem State.rsv_get_core (x : CoreId) : (s.rsv).core x = s.core x := rfl
@[simp] theorem State.rsv_get_coreK (x : Nat) : (s.rsv).coreK x = s.coreK x := rfl
@[simp] theorem State.rsv_get_die (x : Nat) : (s.rsv).die x = s.die x := rfl
@[simp] theorem State.rsv_get_hub (x : Nat) : (s.rsv).hub x = s.hub x := rfl
@[simp] theorem State.rsv_get_cd (x : Nat) : (s.rsv).cd x = s.cd x := rfl
@[simp] theorem State.rsv_get_mb (x : Nat) : (s.rsv).mb x = s.mb x := rfl
@[simp] theorem State.rsv_get_pf (x : Nat) : (s.rsv).pf x = s.pf x := rfl
@[simp] theorem State.rsv_get_port (x : Nat) : (s.rsv).port x = s.port x := rfl
@[simp] theorem State.rsv_get_route (x : Nat) : (s.rsv).route x = s.route x := rfl
@[simp] theorem State.rsv_get_eth (x : Nat) : (s.rsv).eth x = s.eth x := rfl
@[simp] theorem State.rsv_get_cast (x : Nat) : (s.rsv).cast x = s.cast x := rfl
@[simp] theorem State.rsv_get_job (x : Word) : (s.rsv).job x = s.job x := rfl
@[simp] theorem State.rsv_get_tenant (x : Nat) : (s.rsv).tenant x = s.tenant x := rfl
@[simp] theorem State.rsv_get_slate (x : Nat) : (s.rsv).slate x = s.slate x := rfl
@[simp] theorem State.rsv_get_block (x : Nat) : (s.rsv).block x = s.block x := rfl
@[simp] theorem State.rsv_get_region (x : Nat) : (s.rsv).region x = s.region x := rfl
@[simp] theorem State.rsv_get_ownerOf (x : Nat) : (s.rsv).ownerOf x = s.ownerOf x := rfl
@[simp] theorem State.rsv_get_wkey (x : Nat) : (s.rsv).wkey x = s.wkey x := rfl
@[simp] theorem State.rsv_get_clocks : (s.rsv).clocks = s.clocks := rfl
@[simp] theorem State.rsv_get_poisoned (x : Nat) : (s.rsv).poisoned x = s.poisoned x := rfl
@[simp] theorem State.rsv_get_unlisted (x : Nat) : (s.rsv).unlisted x = s.unlisted x := rfl
@[simp] theorem State.rsv_get_freeVal : (s.rsv).freeVal = s.freeVal := rfl

end Sys2Proof.Machine
end

