-- ==== Sys2Proof/Laws/Mem.lean ====
section
/-!
SUPPORT. What the memory operations can do: when a read of one block answers, what a write leaves unchanged, and that every write
keeps the stores in their canonical form.
-/
namespace Sys2Proof.Machine

/-! ## Reading -/

/-- A slate sealed over a block's own data agrees with it. -/
theorem slateOk_of_seal {s : State} {blk : Nat} {sl : Slate} (h : s.slate blk = sealSlate sl (s.block blk)) :
    s.slateOk blk (s.block blk) = true := by
  have hg : ∀ d : List Byte, (slateCrc d (sealSlate sl d) == (sealSlate sl d).crc) = true := fun d => beq_self_eq_true (slateCrc d sl)
  have hk : s.slateOk blk (s.block blk) = (slateCrc (s.block blk) (s.slate blk) == (s.slate blk).crc) := rfl
  rw [hk, h, hg]

/-- A mapped block of an ordinary address that its hub serves, that is neither poisoned nor uncorrectable and whose slate passes the tests of R314 reads as
its stored bytes. -/
theorem readBlock_ok {s : State} {q : Req} {acc : Accept} {blk : Nat} (hm : s.mapped (blk * 4096) = true) (hv : s.hubServes blk = true)
    (hr : s.region (blk * 4096) = none) (hq : q.tenant = 0) (hp : s.poisoned blk = false) (hu : s.unlisted blk = false)
    (hs : slateStatus (s.slate blk) (s.slateOk blk (s.block blk)) acc = none) :
    s.readBlock q acc blk = .ok (s.block blk) := by
  unfold State.readBlock
  simp only [hm, hv, hp, hu, hs, Bool.not_true, Bool.false_eq_true, if_false, State.denyRead, State.deliver, State.ownerOf, hr, hq]
  rfl

theorem readBlocks_zero (s : State) (q : Req) (acc : Accept) (m : Nat) : s.readBlocks q acc 0 m = .ok [] := rfl

theorem readBlocks_succ (s : State) (q : Req) (acc : Accept) (n m : Nat) : s.readBlocks q acc (n + 1) m =
    (s.readBlock q acc m).bind (fun b => (s.readBlocks q acc n (m + 1)).bind (fun bs => .ok (b ++ bs))) := rfl

theorem readBlocks_one {s : State} {q : Req} {acc : Accept} {m : Nat} {b : List Byte} (hb : s.readBlock q acc m = .ok b) :
    s.readBlocks q acc 1 m = .ok b := by
  have h := readBlocks_succ s q acc 0 m
  rw [hb, readBlocks_zero] at h
  rw [h]
  simp [Except.bind]

/-- A read of no byte answers none; any other reads the blocks it touches and cuts out its bytes. -/
theorem read_eq (s : State) (q : Req) (acc : Accept) (a len : Nat) : s.read q acc a len = if len = 0 then .ok [] else
    (s.readBlocks q acc ((a + len - 1) / 4096 - a / 4096 + 1) (a / 4096)).bind
      (fun bs => .ok ((bs.drop (a % 4096)).take len)) := by
  delta State.read
  exact rfl

/-- Bytes within one block read as stored. -/
theorem read_of_block {s : State} {q : Req} {acc : Accept} {a len : Nat} {b : List Byte} (hl : 0 < len) (hf : a % 4096 + len ≤ 4096)
    (hb : s.readBlock q acc (a / 4096) = .ok b) : s.read q acc a len = .ok ((b.drop (a % 4096)).take len) := by
  have hn : (a + len - 1) / 4096 - a / 4096 + 1 = 1 := by omega
  rw [read_eq, if_neg (by omega), hn, readBlocks_one hb, Except.bind]

/-- Such a block whose slate fails a test of R314 fails with that test's status. -/
theorem readBlock_fail {s : State} {q : Req} {acc : Accept} {blk : Nat} {st : Half} (hm : s.mapped (blk * 4096) = true)
    (hv : s.hubServes blk = true) (hr : s.region (blk * 4096) = none) (hq : q.tenant = 0) (hp : s.poisoned blk = false)
    (hu : s.unlisted blk = false) (hs : slateStatus (s.slate blk) (s.slateOk blk (s.block blk)) acc = some st) :
    s.readBlock q acc blk = .error (.fail st (blk * 4096)) := by
  unfold State.readBlock
  simp only [hm, hv, hp, hu, hs, Bool.not_true, Bool.false_eq_true, if_false, State.denyRead, State.ownerOf, hr, hq]
  rfl

/-- A read whose first block fails fails so. -/
theorem read_of_fail {s : State} {q : Req} {acc : Accept} {a len : Nat} {e : Stop} (hl : 0 < len)
    (hb : s.readBlock q acc (a / 4096) = .error e) : s.read q acc a len = .error e := by
  rw [read_eq, if_neg (by omega), readBlocks_succ, hb]
  rfl

/-! ## Writing -/

/-- t is s but for device memory, the hubs and the checkpoint's shadow copies. -/
def MemoryOnly (s t : State) : Prop := ∃ h u k, t = { s with hbm := h, hubs := u, ckpt := k }

theorem MemoryOnly.refl (s : State) : MemoryOnly s s := ⟨s.hbm, s.hubs, s.ckpt, rfl⟩

theorem MemoryOnly.trans {s t u : State} (h : MemoryOnly s t) (k : MemoryOnly t u) : MemoryOnly s u := by
  obtain ⟨a, b, c, rfl⟩ := h
  obtain ⟨d, e, f, rfl⟩ := k
  exact ⟨d, e, f, rfl⟩

theorem place_memoryOnly (s : State) (blk : Nat) (data : List Byte) (sl : Slate) : MemoryOnly s (s.place blk data sl) :=
  ⟨_, _, s.ckpt, rfl⟩

theorem unpoison_memoryOnly (s : State) (blk : Nat) : MemoryOnly s (s.unpoison blk) := by
  unfold State.unpoison; split
  · exact ⟨s.hbm, _, s.ckpt, rfl⟩
  · exact .refl s

theorem unpoison_hbm (s : State) (blk : Nat) : (s.unpoison blk).hbm = s.hbm := by unfold State.unpoison; split <;> rfl

theorem shadow_memoryOnly {s t : State} {blk : Nat} (h : s.shadow blk = .ok t) : MemoryOnly s t := by
  unfold State.shadow at h
  split at h
  · cases h; exact .refl _
  · split at h
    · split at h
      · cases h
      · cases h; exact (place_memoryOnly ..).trans ⟨_, _, _, rfl⟩
    · cases h; exact .refl _

/-- A write of one block that goes through changes memory, hubs and shadow copies alone. -/
theorem writeBlock_memoryOnly {s t : State} {q : Req} {taint : List Nat} {kind fmt : BitVec 4} {tid : Word} {blk : Nat}
    {ps : List (Nat × List Byte)} (h : s.writeBlock q taint kind fmt tid blk ps = .ok t) : MemoryOnly s t := by
  unfold State.writeBlock at h
  dsimp only at h
  repeat (split at h; · cases h)
  cases hs : s.shadow blk with
  | error e => simp [hs, bind, Except.bind] at h
  | ok u =>
    simp only [hs, bind, Except.bind, pure, Except.pure, Except.ok.injEq] at h
    subst h
    exact (shadow_memoryOnly hs).trans ((unpoison_memoryOnly ..).trans (place_memoryOnly ..))

theorem foldlM_memoryOnly {α : Type} {g : State → α → Except Stop State} (hg : ∀ s a t, g s a = .ok t → MemoryOnly s t) :
    ∀ (l : List α) (s t : State), l.foldlM g s = .ok t → MemoryOnly s t
  | [], s, t, h => by cases h; exact .refl s
  | a :: l, s, t, h => by
    rw [List.foldlM_cons] at h
    cases hs : g s a with
    | error e => simp [hs, bind, Except.bind] at h
    | ok u =>
      simp only [hs, bind, Except.bind] at h
      exact (hg s a u hs).trans (foldlM_memoryOnly hg l u t h)

theorem writeRuns_memoryOnly {s t : State} {q : Req} {taint : List Nat} {kind fmt : BitVec 4} {tid : Word} {rs : List (Nat × List Byte)}
    (h : s.writeRuns q taint kind fmt tid rs = .ok t) : MemoryOnly s t :=
  foldlM_memoryOnly (fun _ _ _ h => writeBlock_memoryOnly h) _ _ _ h

theorem write_memoryOnly {s t : State} {q : Req} {kind fmt : BitVec 4} {tid : Word} {a : Nat} {bs : List Byte}
    (h : s.write q kind fmt tid a bs = .ok t) : MemoryOnly s t := writeRuns_memoryOnly h

/-! ## When a write goes through -/

/-- Bytes within one block are one piece of it. -/
theorem pieces_of_block {a : Nat} {bs : List Byte} (hl : 0 < bs.length) (hf : a % 4096 + bs.length ≤ 4096) :
    pieces a bs = [(a / 4096, a % 4096, bs)] := by
  obtain ⟨k, hk⟩ : ∃ k, bs.length / 4096 + 2 = k + 2 := ⟨_, rfl⟩
  have hm : min bs.length (4096 - a % 4096) = bs.length := by omega
  have h0 : ¬ bs.length = 0 := by omega
  unfold pieces
  rw [hk, cutRun]
  simp only [hm, h0, if_false, List.take_length, List.drop_length]
  rw [cutRun]
  simp

/-- A write of one block by its owner goes through: the block is mapped, served, readable, UNWRITTEN or good, and no checkpoint
is in progress. -/
theorem writeBlock_ok {s : State} {q : Req} {kind fmt : BitVec 4} {tid : Word} {blk : Nat} {ps : List (Nat × List Byte)}
    (hm : s.mapped (blk * 4096) = true) (hv : s.hubServes blk = true) (ho : s.ownerOf (blk * 4096) = q.tenant) (hp : s.poisoned blk = false)
    (hu : s.unlisted blk = false) (hs : (s.slate blk).kind = kUnwritten ∨ s.slateOk blk (s.block blk) = true) (hc : s.ckpt = none) :
    ∃ t, s.writeBlock q [] kind fmt tid blk ps = .ok t := by
  have hsh : s.shadow blk = .ok s := by unfold State.shadow; rw [hc]
  unfold State.writeBlock
  simp only [hm, hv, ho, hp, hu, hsh, Bool.not_true, Bool.false_eq_true, Bool.false_and, if_false, ne_eq, not_true_eq_false, List.any_nil]
  rcases hs with hs | hs
  · simp only [hs, bne_self_eq_false, Bool.and_false, Bool.false_and, Bool.false_eq_true, if_false]
    exact ⟨_, rfl⟩
  · simp only [hs, Bool.not_true, Bool.and_false, Bool.false_eq_true, if_false]
    exact ⟨_, rfl⟩

/-- A write of bytes within one block is a write of that block. -/
theorem write_of_block {s : State} {q : Req} {kind fmt : BitVec 4} {tid : Word} {a : Nat} {bs : List Byte} (hl : 0 < bs.length)
    (hf : a % 4096 + bs.length ≤ 4096) : s.write q kind fmt tid a bs = s.writeBlock q [] kind fmt tid (a / 4096) [(a % 4096, bs)] := by
  unfold State.write State.writeRuns
  simp only [List.flatMap_cons, List.flatMap_nil, List.append_nil, pieces_of_block hl hf, blocksOf, List.map_cons, List.map_nil,
    List.eraseDups_cons, List.eraseDups_nil, List.filter_nil, List.foldlM_cons, List.foldlM_nil, List.filter_cons, beq_self_eq_true, if_true]
  cases s.writeBlock q [] kind fmt tid (a / 4096) [(a % 4096, bs)] <;> rfl

/-! ## The canonical form of the stores -/

theorem place_stores {s : State} (h : StoresCanonical s) (blk : Nat) (data : List Byte) (sl : Slate) :
    StoresCanonical (s.place blk data sl) := ⟨h.1.tput _ _, h.2.1.cset _ _, h.2.2⟩

theorem unpoison_stores {s : State} (h : StoresCanonical s) (blk : Nat) : StoresCanonical (s.unpoison blk) := by
  unfold State.unpoison; split <;> exact h

theorem shadow_stores {s t : State} {blk : Nat} (h : StoresCanonical s) (ht : s.shadow blk = .ok t) : StoresCanonical t := by
  unfold State.shadow at ht
  split at ht
  · cases ht; exact h
  · split at ht
    · split at ht
      · cases ht
      · cases ht; exact place_stores h _ _ _
    · cases ht; exact h

theorem writeBlock_stores {s t : State} {q : Req} {taint : List Nat} {kind fmt : BitVec 4} {tid : Word} {blk : Nat}
    {ps : List (Nat × List Byte)} (hc : StoresCanonical s) (h : s.writeBlock q taint kind fmt tid blk ps = .ok t) : StoresCanonical t := by
  unfold State.writeBlock at h
  dsimp only at h
  repeat (split at h; · cases h)
  cases hs : s.shadow blk with
  | error e => simp [hs, bind, Except.bind] at h
  | ok u =>
    simp only [hs, bind, Except.bind, pure, Except.pure, Except.ok.injEq] at h
    subst h
    exact place_stores (unpoison_stores (shadow_stores hc hs) _) _ _ _

theorem foldlM_stores {α : Type} {g : State → α → Except Stop State}
    (hg : ∀ s a t, StoresCanonical s → g s a = .ok t → StoresCanonical t) :
    ∀ (l : List α) (s t : State), StoresCanonical s → l.foldlM g s = .ok t → StoresCanonical t
  | [], s, t, hc, h => by cases h; exact hc
  | a :: l, s, t, hc, h => by
    rw [List.foldlM_cons] at h
    cases hs : g s a with
    | error e => simp [hs, bind, Except.bind] at h
    | ok u =>
      simp only [hs, bind, Except.bind] at h
      exact foldlM_stores hg l u t (hg s a u hc hs) h

theorem writeRuns_stores {s t : State} {q : Req} {taint : List Nat} {kind fmt : BitVec 4} {tid : Word} {rs : List (Nat × List Byte)}
    (hc : StoresCanonical s) (h : s.writeRuns q taint kind fmt tid rs = .ok t) : StoresCanonical t :=
  foldlM_stores (fun _ _ _ hc h => writeBlock_stores hc h) _ _ _ hc h

theorem write_stores {s t : State} {q : Req} {kind fmt : BitVec 4} {tid : Word} {a : Nat} {bs : List Byte}
    (hc : StoresCanonical s) (h : s.write q kind fmt tid a bs = .ok t) : StoresCanonical t := writeRuns_stores hc h

theorem markStale_stores {s : State} (h : StoresCanonical s) (blk : Nat) : StoresCanonical (s.markStale blk) := by
  unfold State.markStale; simp only; split
  · exact h
  · exact ⟨h.1, h.2.1.cset _ _, h.2.2⟩

theorem unwrite_stores {s : State} (h : StoresCanonical s) (lo n : Nat) : StoresCanonical (s.unwrite lo n) :=
  ⟨h.1, h.2.1.filter _, h.2.2⟩

/-! ## The fault log -/

/-- A record that is placed, waits or is lost changes memory and the fault log's registers alone. -/
theorem logTry_frame (s : State) (slot : Nat) (bs : List Byte) :
    ∃ h u k g, s.logTry slot bs = { s with hbm := h, hubs := u, ckpt := k, glb := g } ∧
      g = { s.glb with flogWait := g.flogWait, flogLost := g.flogLost } := by
  unfold State.logTry
  split
  · next t ht => obtain ⟨h, u, k, rfl⟩ := write_memoryOnly ht; exact ⟨h, u, k, _, rfl, rfl⟩
  · exact ⟨_, _, _, _, rfl, rfl⟩
  · exact ⟨_, _, _, _, rfl, rfl⟩

theorem logTry_stores {s : State} (h : StoresCanonical s) (slot : Nat) (bs : List Byte) : StoresCanonical (s.logTry slot bs) := by
  unfold State.logTry
  split
  · next t ht => exact write_stores h ht
  · exact h
  · exact h

/-- A fault record changes memory, the fault log's registers and the console alone. -/
theorem fault_frame (s : State) (f : FaultRec) :
    ∃ h u k g o, s.fault f = { s with hbm := h, hubs := u, ckpt := k, glb := g, out := o } ∧
      g = { s.glb with flogHead := g.flogHead, flogWait := g.flogWait, flogLost := g.flogLost } := by
  unfold State.fault
  split
  · exact ⟨s.hbm, s.hubs, s.ckpt, s.glb, s.out, rfl, rfl⟩
  · simp only
    split
    · exact ⟨_, _, _, _, _, rfl, rfl⟩
    · obtain ⟨h, u, k, g, e, hg⟩ := logTry_frame s (s.glb.flogBase.toNat / 65536 * 65536 + s.glb.flogHead.toNat % 2048 * 32) (f.bytes s.clap.count)
      rw [e]
      exact ⟨h, u, k, { g with flogHead := g.flogHead + 1 }, _, rfl, by rw [hg]⟩

theorem fault_stores {s : State} (h : StoresCanonical s) (f : FaultRec) : StoresCanonical (s.fault f) := by
  unfold State.fault
  split
  · exact h
  · simp only
    split
    · exact h
    · have ht := logTry_stores h (s.glb.flogBase.toNat / 65536 * 65536 + s.glb.flogHead.toNat % 2048 * 32) (f.bytes s.clap.count)
      revert ht
      generalize s.logTry _ _ = t
      exact fun ht => ht

/-- With the fault log unplaced and the clocks running a record only counts and goes to the console. -/
theorem fault_unplaced {s : State} (f : FaultRec) (hc : s.pwr.catTrip = false) (hb : s.glb.flogBase = 0) :
    s.fault f = (s.modGlb (fun g => { g with flogHead := g.flogHead + 1 })).emit (.uart (Fin.ofNat 2 s.activeCd) (f.bytes s.clap.count)) := by
  simp [State.fault, hc, hb, State.activeCd]

end Sys2Proof.Machine
end

