-- ==== Sys2Proof/Laws/Parts.lean ====
section
/-!
SUPPORT. What committing the parts of a split request can do: it changes device memory, the hubs, the shadow copies, the fault log and
the console alone, and keeps the stores in their canonical form.
-/
namespace Sys2Proof.Machine

/-- t is s but for device memory, the hubs, the shadow copies, the fault log's registers and what has been sent out. -/
def LogOnly (s t : State) : Prop :=
  ∃ h u k g o, t = { s with hbm := h, hubs := u, ckpt := k, glb := g, out := o } ∧
    g = { s.glb with flogHead := g.flogHead, flogWait := g.flogWait, flogLost := g.flogLost }

theorem LogOnly.refl (s : State) : LogOnly s s := ⟨s.hbm, s.hubs, s.ckpt, s.glb, s.out, rfl, rfl⟩

theorem LogOnly.trans {s t u : State} (h : LogOnly s t) (k : LogOnly t u) : LogOnly s u := by
  obtain ⟨a, b, c, d, e, rfl, hd⟩ := h
  obtain ⟨a', b', c', d', e', rfl, hd'⟩ := k
  refine ⟨a', b', c', d', e', rfl, ?_⟩
  rw [hd'] at *
  simp only at hd ⊢
  rw [hd]

theorem MemoryOnly.logOnly {s t : State} (h : MemoryOnly s t) : LogOnly s t := by
  obtain ⟨a, b, c, rfl⟩ := h
  exact ⟨a, b, c, s.glb, s.out, rfl, rfl⟩

theorem fault_logOnly (s : State) (f : FaultRec) : LogOnly s (s.fault f) := fault_frame s f

theorem poison_memoryOnly (s : State) (blk : Nat) : MemoryOnly s (s.poison blk) := ⟨s.hbm, _, s.ckpt, rfl⟩

theorem slateFault_logOnly (s : State) (st : Half) (a reel : Nat) (seq : Word) : LogOnly s (s.slateFault st a reel seq) := by
  unfold State.slateFault
  split
  · exact .refl s
  · split
    · exact .refl s
    · dsimp only
      split
      · exact fault_logOnly ..
      · split
        · exact (poison_memoryOnly ..).logOnly.trans (fault_logOnly ..)
        · exact fault_logOnly ..

theorem slateFault_stores {s : State} (h : StoresCanonical s) (st : Half) (a reel : Nat) (seq : Word) :
    StoresCanonical (s.slateFault st a reel seq) := by
  unfold State.slateFault
  split
  · exact h
  · split
    · exact h
    · dsimp only
      split
      · exact fault_stores h _
      · split
        · exact fault_stores (s := s.poison _) h _
        · exact fault_stores h _

theorem markStale_memoryOnly (s : State) (blk : Nat) : MemoryOnly s (s.markStale blk) := by
  unfold State.markStale; simp only; split
  · exact .refl s
  · exact ⟨_, s.hubs, s.ckpt, rfl⟩

/-- A fold of steps that keep a reflexive, transitive relation keeps it. -/
theorem foldl_keeps {α β : Type} {R : β → β → Prop} (hr : ∀ s, R s s) (ht : ∀ {s t u}, R s t → R t u → R s u) {g : β → α → β}
    (hg : ∀ s a, R s (g s a)) : ∀ (l : List α) (s : β), R s (l.foldl g s)
  | [], s => hr s
  | a :: l, s => ht (hg s a) (foldl_keeps hr ht hg l (g s a))

/-- A fold of steps that keep a property keeps it. -/
theorem foldl_holds {α β : Type} {P : β → Prop} {g : β → α → β} (hg : ∀ s a, P s → P (g s a)) :
    ∀ (l : List α) (s : β), P s → P (l.foldl g s)
  | [], _, h => h
  | a :: l, s, h => foldl_holds hg l (g s a) (hg s a h)

theorem rmw_memoryOnly {s t : State} {q : Req} {a len : Nat} {g : List Byte → List Byte} (h : s.rmw q a len g = .ok t) : MemoryOnly s t := by
  unfold State.rmw at h
  cases hr : s.read q acceptRecord a len with
  | error e => simp [hr, bind, Except.bind] at h
  | ok old => simp only [hr, bind, Except.bind] at h; exact write_memoryOnly h

theorem rmw_stores {s t : State} {q : Req} {a len : Nat} {g : List Byte → List Byte} (hc : StoresCanonical s)
    (h : s.rmw q a len g = .ok t) : StoresCanonical t := by
  unfold State.rmw at h
  cases hr : s.read q acceptRecord a len with
  | error e => simp [hr, bind, Except.bind] at h
  | ok old => simp only [hr, bind, Except.bind] at h; exact write_stores hc h

theorem commitPart_memoryOnly {s t : State} {q : Req} {taint : List Nat} {flag : Bool} {p : PartOut}
    (h : s.commitPart q taint flag p = .ok t) : MemoryOnly s t := by
  unfold State.commitPart at h
  cases hw : p.writes.foldlM (fun s w => s.commitWr q taint w) s with
  | error e => simp [hw, bind, Except.bind] at h
  | ok u =>
    simp only [hw, bind, Except.bind] at h
    exact (foldlM_memoryOnly (fun _ _ _ h => writeRuns_memoryOnly h) _ _ _ hw).trans
      (foldlM_memoryOnly (fun _ _ _ h => rmw_memoryOnly h) _ _ _ h)

theorem commitPart_stores {s t : State} {q : Req} {taint : List Nat} {flag : Bool} {p : PartOut} (hc : StoresCanonical s)
    (h : s.commitPart q taint flag p = .ok t) : StoresCanonical t := by
  unfold State.commitPart at h
  cases hw : p.writes.foldlM (fun s w => s.commitWr q taint w) s with
  | error e => simp [hw, bind, Except.bind] at h
  | ok u =>
    simp only [hw, bind, Except.bind] at h
    exact foldlM_stores (fun _ _ _ hc h => rmw_stores hc h) _ _ _ (foldlM_stores (fun _ _ _ hc h => writeRuns_stores hc h) _ _ _ hc hw) h

theorem commitParts_keeps {q : Req} {taint : List Nat} {flag : Bool} : ∀ (ps : List PartOut) (s t : State) (fs : List (Option (Half × Nat))),
    State.commitParts q taint flag ps s = some (t, fs) →
    MemoryOnly s t ∧ (StoresCanonical s → StoresCanonical t) ∧ fs.length = ps.length
  | [], s, t, fs, h => by cases h; exact ⟨.refl s, id, rfl⟩
  | p :: ps, s, t, fs, h => by
    unfold State.commitParts at h
    split at h
    · obtain ⟨⟨u, gs⟩, hu, he⟩ := Option.map_eq_some_iff.1 h
      cases he
      obtain ⟨a, b, c⟩ := commitParts_keeps ps s _ gs hu
      exact ⟨a, b, by simp [c]⟩
    · split at h
      · next u hp =>
        obtain ⟨⟨v, gs⟩, hu, he⟩ := Option.map_eq_some_iff.1 h
        cases he
        obtain ⟨a, b, c⟩ := commitParts_keeps ps u _ gs hu
        exact ⟨(commitPart_memoryOnly hp).trans a, fun hs => b (commitPart_stores hs hp), by simp [c]⟩
      · obtain ⟨⟨u, gs⟩, hu, he⟩ := Option.map_eq_some_iff.1 h
        cases he
        obtain ⟨a, b, c⟩ := commitParts_keeps ps s _ gs hu
        exact ⟨a, b, by simp [c]⟩
      · cases h

theorem failures_logOnly (s : State) (reel : Nat) (seq : Word) (ps : List PartOut) (fs : List (Option (Half × Nat))) :
    LogOnly s (s.failures reel seq ps fs) := by
  unfold State.failures
  dsimp only
  exact (foldl_keeps (R := LogOnly) .refl .trans (fun s b => (markStale_memoryOnly s b).logOnly) _ s).trans
    (foldl_keeps (R := LogOnly) .refl .trans (fun s (b : PartOut × Half × Nat) => slateFault_logOnly s b.2.1 b.2.2 reel seq) _ _)

theorem failures_stores {s : State} (h : StoresCanonical s) (reel : Nat) (seq : Word) (ps : List PartOut) (fs : List (Option (Half × Nat))) :
    StoresCanonical (s.failures reel seq ps fs) := by
  unfold State.failures
  dsimp only
  exact foldl_holds (P := StoresCanonical) (fun _ _ h => slateFault_stores h _ _ _ _) _ _
    (foldl_holds (P := StoresCanonical) (fun _ _ h => markStale_stores h _) _ _ h)

/-- The parts of a split request: one failure field for each part, and nothing outside memory, hubs, fault log and console moves. -/
theorem runParts_keeps {s t : State} {q : Req} {taint : List Nat} {reel : Nat} {seq : Word} {ps : List PartOut}
    {fs : List (Option (Half × Nat))} (h : s.runParts q taint reel seq ps = some (t, fs)) :
    LogOnly s t ∧ (StoresCanonical s → StoresCanonical t) := by
  unfold State.runParts at h
  split at h
  · cases h
  · next u gs hu =>
    obtain ⟨a, b, -⟩ := commitParts_keeps _ s u gs hu
    split at h
    · split at h
      · cases h
      · next v ks hv =>
        cases h
        obtain ⟨a', b', -⟩ := commitParts_keeps _ s v fs hv
        exact ⟨a'.logOnly.trans (failures_logOnly ..), fun hs => failures_stores (b' hs) ..⟩
    · cases h; exact ⟨a.logOnly, b⟩

end Sys2Proof.Machine
end

