-- ==== Sys2Proof/Laws/Shots.lean ====
section
/-!
SUPPORT. What the shared operations on reels, mailboxes, tracked shots and programs can do.
-/
namespace Sys2Proof.Machine

/-! ## Events and holds -/

/-- An event word touches its mailbox alone. -/
theorem post_frame (s : State) (m : Nat) (w : Dword) : ∃ b, s.post m w = { s with mbox := tset s.mbox m b } := ⟨_, rfl⟩

/-- A hold sets HELD of its reel and posts one word. -/
theorem hold_eq (s : State) (n : Nat) (st : Half) (seq : Word) : ∃ b, s.hold n st seq =
    { s with reels := tset s.reels n { s.reel n with held := true }, mbox := tset s.mbox (s.reel n).notifyMb.toNat b } := ⟨_, rfl⟩

theorem hold_held (s : State) (n : Nat) (st : Half) (seq : Word) : ((s.hold n st seq).reel n).held = true := by
  obtain ⟨b, h⟩ := hold_eq s n st seq
  rw [h]; simp [State.reel]

/-- A vector that fires touches its port's function and the console alone. -/
theorem fire_frame (s : State) (m : Nat) : ∃ p o, s.fire m = { s with pcie := p, out := o } := by
  have h : ∀ (u : State) (p : Fin 2), ∃ x o, u.fireOn p m = { u with pcie := x, out := o } := by
    intro u p; unfold State.fireOn; dsimp only
    split
    · split
      · exact ⟨_, u.out, rfl⟩
      · exact ⟨u.pcie, _, rfl⟩
    · exact ⟨u.pcie, u.out, rfl⟩
  obtain ⟨x, o, h1⟩ := h s 0
  obtain ⟨y, q, h2⟩ := h (s.fireOn 0 m) 1
  exact ⟨y, q, by unfold State.fire; rw [h2, h1]⟩

/-! ## Tracked shots -/

/-- Changing shot r changes what r is tracked as, when the change keeps its name. -/
theorem trackedOf_modTracked (s : State) (r : ShotRef) (g : Tracked → Tracked)
    (hg : ∀ t, (g t).reel = t.reel ∧ (g t).shot = t.shot) : (s.modTracked r g).trackedOf r = (s.trackedOf r).map g := by
  unfold State.trackedOf State.modTracked
  simp only
  induction s.tracked with
  | nil => rfl
  | cons x xs ih =>
    by_cases h : (x.reel == r.reel && x.shot.seq == r.seq) = true
    · have hk : ((g x).reel == r.reel && (g x).shot.seq == r.seq) = true := by rw [(hg x).1, (hg x).2]; exact h
      rw [List.map_cons, if_pos h, List.find?_cons, hk, List.find?_cons, h]; rfl
    · have h' : (x.reel == r.reel && x.shot.seq == r.seq) = false := by simpa using h
      rw [List.map_cons, if_neg h, List.find?_cons, List.find?_cons, h', ih]

/-- A shot that runs runs its meaning; any other leaves the state alone. -/
theorem withShot_runs {s : State} {r : ShotRef} {op : Nat} {x : Tracked} (g : Tracked → State) (h : s.trackedOf r = some x)
    (hp : x.phase = .dispatched ∨ x.phase = .running) (ho : x.shot.opcode.toNat = op) (hc : s.clocks = true) (he : s.ebtor = true)
    (ht : (isCoreWork op && s.pwr.thermTrip) = false) : s.withShot r op g = g x := by
  rcases hp with hp | hp <;> simp [State.withShot, h, hp, ho, hc, he, ht]

theorem withShot_cases (s : State) (r : ShotRef) (op : Nat) (g : Tracked → State) :
    s.withShot r op g = s ∨ ∃ x, s.trackedOf r = some x ∧ s.withShot r op g = g x := by
  unfold State.withShot
  split
  · next t ht => split
                 · exact .inr ⟨t, ht, rfl⟩
                 · exact .inl rfl
  · exact .inl rfl

/-! ## Programs -/

/-- With no part waiting for a core nothing starts. -/
theorem kickPrograms_none {s : State} (h : ∀ y ∈ s.tracked, y.queued = []) : s.kickPrograms = s := by
  have : s.tracked.filter (fun t => t.phase == .running && !t.queued.isEmpty) = [] := by
    rw [List.filter_eq_nil_iff]; intro y hy; simp [h y hy]
  unfold State.kickPrograms
  rw [this, List.foldl_nil, ite_self]

end Sys2Proof.Machine
end

