-- ==== Sys2Proof/Tests/Slice0.lean ====
section
/-!
SUPPORT. Tests and witnesses. Each `wit_` theorem shows concrete states and operands that meet the hypotheses of the statement it is named
after, clause by clause; each `test_` theorem holds one step against a worked example or a table of the spec.
-/
namespace Sys2Proof.Tests

-- one theorem at a time: waiting ones would each hold a thread
set_option Elab.async false

open Sys2Proof.Machine

/-! ## States -/

/-- A device that has booted: control die 0 is active, entropy READY, tenant 0 open. -/
def up : State :=
  { glb := { active := 1 }, boot := { done := true, stage := 0xFF }, sec := { tenants := [(0, { opened := true })] },
    cds := [(0, { ok := true, entState := 1, pool := 512 }), (1, { ok := true })] }

/-- A shot of reel 7 with SEQ 5. -/
def sh (op : BitVec 12) (body : List Byte) : Shot :=
  { opcode := op, version := 0, len16 := 1, flags := 0, seq := 5, sref := 0, pred := none, chk := none, body := body }
def tr (op : BitVec 12) (body : List Byte) : Tracked :=
  { reel := 7, shot := sh op body, mode := 0, tenant := 0, job := 0, eval := false }
def r75 : ShotRef := ⟨7, 5⟩
/-- That shot has been dispatched. -/
def run (op : BitVec 12) (body : List Byte) : State := { up with tracked := [tr op body] }
def waits (op : BitVec 12) (body : List Byte) : State := { up with tracked := [{ tr op body with phase := .waiting }] }

/-- Memory holds m, and the blocks of bs have slates of a kind over their data. -/
def holding (s : State) (m : Tab Byte) (kind : BitVec 4) (bs : List Nat) : State :=
  { s with hbm := { mem := m, slates := bs.map (fun b => (b, sealSlate { gen := 1, kind := kind } (tread m (b * 4096) 4096))) } }

theorem tget_map {α : Type} (f g : Nat → α) (b : Nat) : ∀ bs : List Nat, b ∈ bs → tget f (bs.map (fun i => (i, g i))) b = g b
  | i :: bs, h => by
    by_cases e : i = b
    · subst e; simp [tget]
    · have h' : b ∈ bs := by simpa [Ne.symm e] using h
      rw [← tget_map f g b bs h']
      simp [tget, e]

theorem holding_slate (s : State) (m : Tab Byte) (kind : BitVec 4) {b : Nat} {bs : List Nat} (hb : b ∈ bs) : (holding s m kind bs).slate b =
    sealSlate { gen := 1, kind := kind } ((holding s m kind bs).block b) := by
  delta State.block State.slate
  exact tget_map slate0 (fun i => sealSlate { gen := 1, kind := kind } (tread m (i * 4096) 4096)) b bs hb

theorem holding_ok (s : State) (m : Tab Byte) (kind : BitVec 4) {b : Nat} {bs : List Nat} (hb : b ∈ bs) :
    (holding s m kind bs).slateOk b ((holding s m kind bs).block b) = true := slateOk_of_seal (holding_slate s m kind hb)

theorem slateStatus_seal (sl : Slate) (d : List Byte) (ok : Bool) (acc : Accept) :
    slateStatus (sealSlate sl d) ok acc = slateStatus sl ok acc := rfl

/-- What such a read needs: a mapped, served, unpoisoned block of tenant 0, and a kind that it accepts. -/
def Readable (s : State) (kind : BitVec 4) (q : Req) (acc : Accept) (b : Nat) : Prop :=
  s.mapped (b * 4096) = true ∧ s.hubServes b = true ∧ s.region (b * 4096) = none ∧ s.poisoned b = false ∧ s.unlisted b = false ∧ q.tenant = 0 ∧
  slateStatus { gen := 1, kind := kind } true acc = none

/-- Such a block reads as the bytes it holds. -/
theorem holding_block (s : State) (m : Tab Byte) (kind : BitVec 4) {b : Nat} {bs : List Nat} (hb : b ∈ bs) (q : Req) (acc : Accept)
    (h : Readable s kind q acc b) : (holding s m kind bs).readBlock q acc b = .ok (tread m (b * 4096) 4096) := by
  obtain ⟨hm, hv, hr, hp, hu, hq, ha⟩ := h
  have hs : slateStatus ((holding s m kind bs).slate b) ((holding s m kind bs).slateOk b ((holding s m kind bs).block b)) acc = none := by
    rw [holding_ok _ _ _ hb, holding_slate _ _ _ hb, slateStatus_seal, ha]
  exact readBlock_ok (blk := b) (s := holding s m kind bs) hm hv hr hq hp hu hs

theorem holding_reads (s : State) (m : Tab Byte) (kind : BitVec 4) (b : Nat) {bs : List Nat} (hb : b ∈ bs) (q : Req) (acc : Accept)
    (off len : Nat) (hl : 0 < len) (hf : off + len ≤ 4096) (h : Readable s kind q acc b) :
    (holding s m kind bs).read q acc (b * 4096 + off) len = .ok (((tread m (b * 4096) 4096).drop off).take len) := by
  have hd : (b * 4096 + off) / 4096 = b := by omega
  have hk : (b * 4096 + off) % 4096 = off := by omega
  have h := holding_block s m kind hb q acc h
  rw [read_of_block hl (by omega) (by rw [hd]; exact h), hk]

/-- Block 0 holds zeros under a slate of a kind. -/
def withKind (s : State) (kind : BitVec 4) : State := holding s [] kind [0]

theorem withKind_ok (s : State) (kind : BitVec 4) : (withKind s kind).slateOk 0 ((withKind s kind).block 0) = true :=
  holding_ok s [] kind (by decide)

theorem withKind_reads (s : State) (kind : BitVec 4) (q : Req) (acc : Accept) (len : Nat) (hl : 0 < len) (hf : len ≤ 4096)
    (h : Readable s kind q acc 0) : ∃ b, (withKind s kind).read q acc 0 len = .ok b :=
  ⟨_, holding_reads s [] kind 0 (by decide) q acc 0 len hl (by omega) h⟩

/-! ## The machine -/

theorem wit_StepRunsFrontCommand : ({ up with pending := [.nop r75] } : State).pending = .nop r75 :: [] := rfl
theorem wit_EmptyQueueStepTicksClapper : up.pending = [] ∧ up.clap.slew = 0 := by decide
theorem wit_StoresKeepTheirCanonicalForm : ∃ s t : State, StoresCanonical s ∧ s.host ≠ [] ∧ step s = .next t :=
  ⟨{ host := [(3, 1)] }, _, ⟨.nil _, .nil _, by unfold TabWf; decide⟩, by decide, rfl⟩
theorem wit_AdminReelsStayFixed : ∃ s t : State, AdminFixed s ∧ step s = .next t := by
  refine ⟨{ reels := [(5, {})] }, _, ⟨by decide, by decide, ?_, ?_⟩, rfl⟩
  · intro n
    by_cases h : (5 == n) = true
    · have h5 := beq_iff_eq.1 h
      subst h5; decide
    · have h' : (5 == n) = false := by simpa using h
      simp only [State.reel, tget, List.find?_cons, h', List.find?_nil]
      unfold reel0; split
      · subst_vars; rfl
      · split
        · subst_vars; rfl
        · simp; omega
  · intro n hn
    have : n = 0 ∨ n = 1 := by omega
    rcases this with rfl | rfl <;> decide

/-! ## Reels and shots -/

/-- Reel 7 is enabled with TAIL 4 and HEAD 0 in epoch 2. -/
def ring : State := { up with reels := [(7, { en := true, epoch := 2, head := 0, tail := 4 })] }

/-- Accepted at both ends of the range: TAIL as it was, and HEAD plus the capacity of 1,024; one past it is not, nor one back. -/
theorem wit_DoorbellAcceptedOrCounted :
    let good := fun (v : Dword) => let r := ring.reel 7
      r.owner.toNat = 0 ∧ r.en = true ∧ v.toNat / 2 ^ 48 = 0 ∧ v.toNat / 2 ^ 32 % 2 ^ 16 = r.epoch.toNat ∧
      0 ≤ ((v.setWidth 32 : Word) - r.tail).toInt ∧ ((v.setWidth 32 : Word) - r.head).toNat ≤ 2 ^ (r.size.toNat + 10)
    0x7000 / 0x1000 < 1024 ∧ good 0x200000004 ∧ good 0x200000400 ∧ ¬ good 0x200000401 ∧ ¬ good 0x200000003 := by decide
/-- Reel 7 with two units published, in block 1, of which nothing or one shot of one unit has been written. -/
def published (lens : Tab Byte) : State := holding { up with reels := [(7, { en := true, base := 4096, tail := 2 })] } lens kRaw (if lens = [] then [] else [1])

theorem fails : (published []).readBlock { tenant := 0, use := .other, range := stRange } .any 1 = .error (.fail 0x0304 (1 * 4096)) :=
  readBlock_fail (by decide +kernel) (by decide +kernel) rfl rfl (by decide +kernel) (by decide +kernel)
    (by rw [show (published []).slate 1 = slate0 1 from rfl]; exact if_pos rfl)

theorem wit_FlushDiscardsWhatIsPublished :
    (State.reel { ring with reels := [] } 7).tail = (State.reel { ring with reels := [] } 7).head ∧ ((published []).reel 7).tail = 2 ∧
    (∃ e, (published []).readUnit 7 0 = .error e) ∧
    ∀ k < 2, ∃ h, (published [(4098, 1), (4114, 1)]).readUnit 7 k = .ok h ∧ leAt h 2 1 = 1 := by
  refine ⟨by decide, by decide, ⟨.fail 0x0304 (1 * 4096), ?_⟩, fun k hk => ?_⟩
  · have h : ∀ a : Nat, a / 4096 = 1 → (published []).read { tenant := 0, use := .other, range := stRange } .any a 16 = .error (.fail 0x0304 (1 * 4096)) :=
      fun a ha => read_of_fail (by decide) (by rw [ha]; exact fails)
    exact h _ rfl
  have h := fun off hf => holding_reads { up with reels := [(7, { en := true, base := 4096, tail := 2 })] } [(4098, 1), (4114, 1)] kRaw 1 (bs := [1])
    (by decide) { tenant := 0, use := .other, range := stRange } .any off 16 (by decide) hf (by unfold Readable; decide +kernel)
  match k with
  | 0 => exact ⟨_, h 0 (by decide), by decide +kernel⟩
  | 1 => exact ⟨_, h 16 (by decide), by decide +kernel⟩
theorem wit_ReleaseEndsTheHold : (ring.reel 7).held = false ∧
    (let s : State := { up with reels := [(7, { held := true, head := 4, tail := 4 })] }; (s.reel 7).held = true ∧ (s.reel 7).head = (s.reel 7).tail) := by
  decide
/-- A word that is bad for NOTIFY_MB 31, one that is good, on a reel with EN = 0 and one with EN = 1. -/
theorem wit_ReelConfigurationWrites : ((0x1F000000#32).extractLsb' 24 6).toNat < 32 ∧
    (let v : Word := 0x20000000
     ¬ ((v.extractLsb' 24 6).toNat < 32 ∨ 4 < (v.extractLsb' 12 3).toNat ∨ v.extractLsb' 9 2 = 3 ∨ 10 < (v.extractLsb' 0 4).toNat ∨
       (v.extractLsb' 9 2 = 2 ∧ (ring.reel 8).loc = true))) ∧ (ring.reel 8).en = false ∧ (ring.reel 8).head = (ring.reel 8).tail ∧
    (ring.reel 7).en = true := by decide

/-- Reel 7 has a NOP ready. -/
def oneReady : State := { up with reels := [(7, { en := true, prio := 3, ready := some (sh 0 []), tail := 1 })] }

theorem wit_DispatchTracksTheHeadShot : oneReady.dispatching = true ∧ oneReady.lookAll.pick = some 7 ∧
    (oneReady.lookAll.reel 7).ready = some (sh 0 []) ∧ (oneReady.lookAll.reel 7).span = 0 ∧ isCoreWork 0 = false ∧
    oneReady.lookAll.resolveShot (oneReady.lookAll.reel 7) (sh 0 []) = some (.ok []) := by
  refine ⟨by decide +kernel, by decide +kernel, by decide +kernel, by decide +kernel, by decide, ?_⟩
  rfl

theorem wit_CompletionEndsTracking : let x : Tracked := { tr 0 [] with phase := .landed, holdFor := some 0x0301 }
    ({ up with tracked := [x] } : State).trackedOf r75 = some x ∧ x.phase = .landed ∧ up.ebtor = true ∧ x.holdFor.isSome ∧
    x.recs = [] ∧ x.partFlag = false ∧ x.mute = false ∧ ({ x with mute := true } : Tracked).mute = true ∧ (tr 0 []).holdFor = none ∧
    (up.writeRecord 0 0 0 (zeros 48)).isSome = true ∧ (up.writeRecord 0 0 0x4000000000001000 (zeros 48)).isSome = true ∧
    (State.writeRecord { up with hubs := (List.range 8).map (fun h => (h, { inReset := true })) } 0 0 0x4000000000001000 (zeros 48)).isNone = true := by
  decide +kernel

theorem wit_NopEventAndStepEndShots : ShotRuns (run 0 []) r75 0 (tr 0 []) ∧ ShotRuns (run 0x303 []) r75 0x303 (tr 0x303 []) ∧
    (let x : Tracked := { tr 0x303 [] with mute := true }; ShotRuns { up with tracked := [x] } r75 0x303 x) ∧ (tr 0x303 []).mute = false ∧
    ShotRuns (run 0x300 []) r75 0x300 (tr 0x300 []) := by unfold ShotRuns; decide

theorem up_serves : up.mapped 0 = true ∧ up.hubServes 0 = true ∧ up.region 0 = none ∧ up.poisoned 0 = false := by decide +kernel

theorem wit_WaitFlagHoldsUntilItsConditionHolds : ShotRuns (withKind (run 0x301 []) 5) r75 0x301 (tr 0x301 []) ∧
    ShotWaits (withKind (waits 0x301 []) 5) r75 0x301 { tr 0x301 [] with phase := .waiting } ∧
    (∃ b, (withKind (run 0x301 []) 5).read (tr 0x301 []).req acceptRecord (predOf (tr 0x301 []).shot.body).1.flagAddr.toNat 8 = .ok b) ∧
    ∃ b, (withKind (waits 0x301 []) 5).read (tr 0x301 []).req acceptRecord (predOf (tr 0x301 []).shot.body).1.flagAddr.toNat 8 = .ok b := by
  refine ⟨by unfold ShotRuns; decide, by unfold ShotWaits; decide, ?_, ?_⟩ <;>
    exact withKind_reads _ 5 _ _ 8 (by decide) (by decide) (by unfold Readable; decide +kernel)

/-- TARGETs 19,999 ns, 20,000 ns and 50,000 ns ahead, and 250 ns passed. -/
theorem wit_LaunchAtJudgesItsTarget :
    let at_ := fun (n : Nat) => leBytes 8 n
    ShotRuns { run 0x302 (at_ 20000) with clap := { state := 1 } } r75 0x302 (tr 0x302 (at_ 20000)) ∧
    ShotRuns (run 0x302 (at_ 20000)) r75 0x302 (tr 0x302 (at_ 20000)) ∧ ¬ (up.clap.state = 1 ∨ up.clap.state = 4) ∧
    (20000 : Int) ≤ (BitVec.ofNat 64 (leAt (at_ 20000) 0 8) - up.clap.count).toInt ∧ bit (leAt (at_ 20000) 8 1) 0 = false ∧
    (50000 : Int) ≤ (BitVec.ofNat 64 (leAt (at_ 50000 ++ [2]) 0 8) - up.clap.count).toInt ∧ bit (leAt (at_ 50000 ++ [2]) 8 1) 1 = true ∧
    ShotRuns (run 0x302 (at_ 50000 ++ [2])) r75 0x302 (tr 0x302 (at_ 50000 ++ [2])) ∧
    (BitVec.ofNat 64 (leAt (at_ 19999) 0 8) - up.clap.count).toInt < 20000 ∧
    (let s : State := { waits 0x302 (at_ 0) with clap := { count := 250 }, reels := [(7, { en := true })] }
     ShotWaits s r75 0x302 { tr 0x302 (at_ 0) with phase := .waiting } ∧ 250 ≤ (s.clap.count - 0).toInt ∧ (s.reel 7).en = true ∧
     (s.reel 7).held = false ∧ (s.reel 7).ready = none ∧ (s.reel 7).head = (s.reel 7).tail) := by
  unfold ShotRuns ShotWaits; decide

/-- The shot behind a LAUNCH_AT whose target has passed is ready and free to dispatch. -/
def launching : State :=
  { waits 0x302 [] with clap := { count := 250 }, reels := [(7, { en := true, tail := 1, ready := some { sh 0 [] with seq := 6 } })] }

theorem wit_LaunchAtJudgesItsTarget_next : let x : Tracked := { tr 0x302 [] with phase := .waiting }
    let n : Shot := { sh 0 [] with seq := 6 }
    let s := launching
    ShotWaits s r75 0x302 x ∧ (s.reel 7).ready = some n ∧ s.isReady 7 n = true ∧ (s.reel 7).span = 0 ∧ n.pred = none ∧
    (s.landed r75 0).dispatching = true ∧ (s.landed r75 0).castBusy n = false ∧ (s.landed r75 0).tenantReleasing (s.reel 7).tenant = false ∧
    (s.landed r75 0).mirrorReady (s.reel 7) n = true ∧ (s.landed r75 0).resolveShot (s.reel 7) n = some (.ok []) ∧
    (s.landed r75 0).descBad (s.reel 7) n [] = none := by
  unfold ShotWaits
  refine ⟨by decide, by decide, by decide, by decide, rfl, by decide +kernel, by decide +kernel, by decide +kernel, by decide +kernel, rfl, rfl⟩

theorem wit_FlagWriteUpdatesUnderItsMask : let s := withKind (run 0x103 []) 5
    ShotRuns s r75 0x103 (tr 0x103 []) ∧ leAt (tr 0x103 []).shot.body 0 5 % 8 = 0 ∧ s.ckpt = none ∧ (∀ g : Region, s.region 0 = some g → g.kind = 0) ∧
    ∃ old, s.read (tr 0x103 []).req acceptRecord (leAt (tr 0x103 []).shot.body 0 5) 8 = .ok old := by
  intro s
  refine ⟨by unfold ShotRuns; decide, by decide, rfl, fun g h => (by cases h), ?_⟩
  exact withKind_reads _ 5 _ _ 8 (by decide) (by decide) (by unfold Readable; decide +kernel)

/-- 64 bytes of pattern at address 0, and a whole block. -/
def fillBody (len : Nat) : List Byte := leBytes 8 0 ++ leBytes 8 len ++ leBytes 8 0x0102030405060708

theorem wit_FillWritesItsPattern : (∀ len ∈ [64, 4096], let x := tr 0x101 (fillBody len)
    let s := run 0x101 (fillBody len)
    ShotRuns s r75 0x101 x ∧ x.lost = [] ∧ 0 < leAt x.shot.body 8 8 ∧ leAt x.shot.body 0 5 % 4096 + leAt x.shot.body 8 8 ≤ 4096 ∧ s.mapped (0 * 4096) = true ∧
    s.hubServes 0 = true ∧ s.ownerOf 0 = x.tenant ∧ s.poisoned 0 = false ∧ s.unlisted 0 = false ∧ (s.slate 0).kind = 0 ∧ s.ckpt = none) := by
  unfold ShotRuns; decide +kernel

theorem wit_ZeroLengthMovesLandAtOnce : ShotRuns (run 0x100 []) r75 0x100 (tr 0x100 []) ∧ ShotRuns (run 0x101 []) r75 0x101 (tr 0x101 []) ∧
    ShotRuns (run 0x102 []) r75 0x102 (tr 0x102 []) ∧ leAt [] 16 8 = 0 ∧ leAt [] 8 8 = 0 ∧ leAt [] 8 4 = 0 := by unfold ShotRuns; decide

/-- 4,096 bytes at address 0 into address 4,096 (one part), from a source that is UNWRITTEN. -/
theorem wit_MovesLandInTheirParts :
    (∃ ps, moveParts 0 4096 (fun a n => .ok (fillPiece (tr 0x101 (fillBody 4096)) a n)) = some ps ∧
      ((run 0x101 (fillBody 4096)).runParts (tr 0x101 (fillBody 4096)).req [] 7 5 ((tr 0x101 (fillBody 4096)).withLost ps)).isSome = true) ∧
    (let b := leBytes 8 0 ++ leBytes 8 4096 ++ leBytes 8 4096
     ShotRuns (run 0x100 b) r75 0x100 (tr 0x100 b) ∧ hostPort (leAt b 8 5) = none ∧
     ∃ ps, moveParts 4096 4096 ((run 0x100 b).copyMade (tr 0x100 b) []) = some ps ∧
       ((run 0x100 b).runParts (tr 0x100 b).req [] 7 5 ((tr 0x100 b).withLost ps)).isSome = true) ∧
    (let b := leBytes 8 0 ++ leBytes 4 1
     ShotRuns (run 0x102 b) r75 0x102 (tr 0x102 b) ∧ (tr 0x102 b).lost = [] ∧ leAt b 8 4 = 1 ∧
     ((run 0x102 b).writeRuns (tr 0x102 b).req [] kRecord 0 0 [(0, zeros 32)]).isOk = true) := by
  unfold ShotRuns
  exact ⟨⟨_, rfl, by decide +kernel⟩, ⟨by decide, by decide, _, rfl, by decide +kernel⟩, by decide, by decide, by decide, by decide +kernel⟩

/-! ## Mailboxes and PCIe -/

/-- Mailbox n holds b. -/
def mb (n : Nat) (b : Mailbox) : State := { up with mbox := [(n, b)] }

/-- PCIe's last mailbox and the control die's first; a refused write for want of 8 bytes. -/
theorem wit_MailboxWritesAreAcceptedOrRefused : (up.mb 15).full = false ∧ (up.mb 16).full = false ∧ ((0x8000000000000040#64).getLsbD 63 = true →
    (0x8000000000000040#64).toNat % 64 = 0) ∧ ¬ (4 = 8) := by decide
theorem wit_ReceiversEmptyTheirMailboxes : (up.mb 0).full = false ∧ ((mb 16 { full := true }).mb 16).full = true ∧
    ((mb 15 { full := true }).mb 15).full = true ∧ up.ebtor = true ∧ ((mb 15 { full := true }).mb 15).data.getLsbD 63 = false := by decide +kernel
/-- Mailboxes 31 and 32, with words dropped and without. -/
theorem wit_EventQueuesFillTheirMailboxes : ((mb 31 { queue := [5], dropped := 1 }).mb 31).queue = [5] ∧
    ((mb 31 { queue := [5], dropped := 1 }).mb 31).full = false ∧ ((mb 63 { queue := [5] }).mb 63).queue = [5] ∧
    ((mb 63 { queue := [5] }).mb 63).full = false ∧ (5#64).getLsbD 63 = false := by decide

/-- A packet of type ty for this device. -/
def pk (ty : Byte) (payload : List Byte) : Packet :=
  { ptype := ty, pflags := 0, dst := 0, src := 3, groupid := 0, cser := 0, dhash := 0, chunk := 0, blk := 0, arg := 15, payload := payload }
/-- Reel 15 of peers. -/
def peerReel : State := { up with reels := [(15, { en := true, owner := 2, epoch := 1, head := 0, tail := 1024 })] }

theorem wit_PacketsReachMailboxesReelsAndEbtor : up.ebtor = true ∧ up.clocks = true ∧ (∀ ty ∈ [0x09#8, 0x0A#8, 0x0B#8, 0x0C#8], packetBad (pk ty []) = false) ∧
    (pk 0x09 []).dst = up.glb.devId ∧ (pk 0x09 []).arg.toNat % 64 < 16 ∧ (pk 0x09 (zeros 8)).payload.length = 8 ∧ (up.mb 15).full = false ∧
    (BitVec.ofNat 64 (leNat (zeros 8)) : Dword).getLsbD 63 = false ∧ (BitVec.ofNat 64 0x80000000000000C0 : Dword).getLsbD 63 = true ∧ 0xC0 % 64 = 0 ∧ (up.reel 15).owner ≠ 2 ∧ ((mb 15 { full := true }).mb 15).full = true ∧
    (pk 0x0A []).payload.length ≠ 8 ∧
    (let r := peerReel.reel 15
     let v := leNat (leBytes 8 0x100000400)
     let tail : Word := BitVec.ofNat 32 v
     (leBytes 8 0x100000400).length = 8 ∧ r.owner = 2 ∧ r.en = true ∧ (peerReel.tenant r.tenant.toNat).reqIde = false ∧ v / 2 ^ 48 = 0 ∧
     v / 2 ^ 32 % 2 ^ 16 = r.epoch.toNat ∧ 0 ≤ (tail - r.tail).toInt ∧ (tail - r.head).toNat ≤ 2 ^ (r.size.toNat + 10)) := by decide +kernel

theorem wit_MsiVectorsFireOnceUnmasked : (up.pf 0).vecPend.getLsbD 63 = false ∧
    (let s : State := { up with pcie := [(0, { vecPend := 1#64 <<< 63, msixEn := true, funcMask := false })] }
     (s.pf 0).vecPend.getLsbD 63 = true ∧ (s.pf 0).msixEn = true ∧ (s.pf 0).funcMask = false) := by decide

/-! ## Hubs -/

/-- A read of a block's last 256 bytes and of all of it. -/
theorem wit_HubReadsCountAndJudge : (0 + 3840) % 256 = 0 ∧ 3840 % 4096 + 256 ≤ 4096 ∧ up.serves 0 0 = true ∧ up.ownerOf 3840 = (Asker.mk 0 .ebtor).tenant ∧
    up.poisoned 0 = false ∧ up.unlisted 0 = false ∧ (Asker.mk 0 (.part r75 3)).who = .part r75 3 ∧ up.glb.flogBase = 0 ∧ ({ up with hubs := [(0, { poison := [0] })] } : State).poisoned 0 = true ∧ (withKind up 5).poisoned 0 = false ∧
    ((withKind up 5).slate 0).kind ≠ 0 ∧ (withKind up 5).slateOk 0 ((withKind up 5).block 0) = true ∧ ((withKind up 5).slate 0).stale = false :=
  ⟨rfl, by decide, by decide +kernel, by decide +kernel, by decide +kernel, by decide +kernel, rfl, rfl, by decide +kernel, by decide +kernel, by decide,
    withKind_ok up 5, rfl⟩

theorem wit_HubWritesPlaceBlocksWithSlates : up.serves 0 0 = true ∧ (zeros 4096).length = 4096 ∧ up.ownerOf (0 * 4096) = 0 ∧ up.ckpt = none ∧
    up.glb.flogBase = 0 ∧ (kRaw ≠ 0 ∧ kRaw.toNat < 8) ∧ 8 ≤ (8#4).toNat ∧ crc64 (zeros 4096) = (SendCrc.mk (crc64 (zeros 4096)) none).crc ∧
    (SendCrc.mk 0 (some (zeros 4096, crc64 (zeros 4096)))).again = some (zeros 4096, crc64 (zeros 4096)) ∧
    crc64 (zeros 4096) ≠ ~~~ crc64 (zeros 4096) := by
  refine ⟨by decide +kernel, by decide +kernel, by decide +kernel, rfl, rfl, by decide, by decide, rfl, rfl, fun h => ?_⟩
  have := congrArg (fun v : Dword => v.getLsbD 0) h
  simp at this

theorem wit_HubMergesAreAtomicUpdates : let s := withKind up 5
    (zeros 32).length = 32 ∧ (∀ g : Region, s.region 0 = some g → g.kind = 0) ∧ s.ckpt = none ∧
    ∃ old, s.read { tenant := 0, use := .other, range := 0x0201 } acceptRecord 0 32 = .ok old := by
  intro s
  exact ⟨by decide, fun g h => (by cases h), rfl, withKind_reads up 5 _ _ 32 (by decide) (by decide) (by unfold Readable; decide +kernel)⟩

theorem wit_ScrubAndRefreshCount : up.serves 0 0 = true ∧ (up.hub 0).scrubH ≠ 0 ∧
    (({ up with hubs := [(0, { scrubH := 0 })] } : State).hub 0).scrubH = 0 := by decide +kernel

theorem wit_RepairCommandsRunToTheirResult : (up.hub 7).rprBusy = false ∧ up.reels.any (fun r => r.2.en) = false ∧ ring.reels.any (fun r => r.2.en) = true ∧
    (let s : State := { up with hubs := [(7, { rprBusy := true, rprOp := 1 })] }; (s.hub 7).rprBusy = true ∧ (s.hub 7).rprOp = 1) := by decide

/-! ## Links -/

/-- Port 19 holds q, and the other ports are as after reset. -/
def port (q : Port) : State := { up with links := { ports := [(19, q)] } }

theorem wit_PortsTrainAndGoDown : ((port {}).port 19).state = 0 ∧ ((port {}).port 19).en = true ∧ (port {}).clocks = true ∧
    ((port { state := 1 }).port 19).state = 1 ∧ (0#16 = up.glb.devId) ∧ 1#16 ≠ up.glb.devId ∧ ((port { state := 2 }).port 19).state = 2 ∧
    ((port { state := 3 }).port 19).state = 3 ∧ (port {}).links.open_ = [] ∧ ((port { en := false }).port 19).en = false := by decide

theorem wit_LanesDropAndComeBack : (port { state := 2, lanes := 0xF }).portUp 19 = true ∧ ((port { state := 2, lanes := 0xF }).port 19).good.getLsbD 3 = true ∧
    (let s := port { state := 3, good := 0x7, clean := 0x8, newMask := some 3 }
     s.portUp 19 = true ∧ (s.port 19).good.getLsbD 3 = false ∧ (s.port 19).clean.getLsbD 3 = true ∧ (s.port 19).state = 3 ∧
     (s.port 19).newMask = some 3) ∧ (port {}).clocks = true := by decide

/-- One retried flit in 2^20 sent is within the limit; in one flit fewer it is over it. -/
theorem wit_LinkLaggardsAndTheirRoutes : (port { state := 2 }).portUp 19 = true ∧ 2 ^ 20 - 1 < 1 * 2 ^ up.links.retryExp.toNat ∧
    1 * 2 ^ up.links.retryExp.toNat ≤ 2 ^ 20 ∧
    (let s : State := { up with links := { ports := [(19, { state := 2, lanes := 0xF })], routes := [(63, { onAlt := true, pri := 19 })] } }
     (s.route 63).onAlt = true ∧ (s.route 63).pri.toNat < 20 ∧ (s.port (s.route 63).pri.toNat).state = 2 ∧
     (s.port (s.route 63).pri.toNat).lanes = 0xF ∧ (s.port (s.route 63).pri.toNat).lag = false) := by decide

/-- A flit of zeros with KIND 1, FSEQ 2,047 and its CRC. -/
def flit : List Byte := let h := leBytes 4 (2 ^ 30 + 2047 * 32) ++ zeros 192; h ++ leBytes 4 (crc32c h).toNat

theorem wit_FlitsAreTakenInOrderOrRefused : let s := port { state := 2, rxSeq := 2047 }
    (s.port 19).state = 2 ∧ s.clocks = true ∧ (crc32c (bytesAt flit 0 196)).toNat = leAt flit 196 4 ∧ fld (leAt flit 0 4) 30 2 ≠ 0 ∧
    fld (leAt flit 0 4) 5 11 = (s.port 19).rxSeq.toNat ∧ (s.port 19).nakSent = false ∧ (s.port 19).returns.length = 4 := by decide +kernel

theorem wit_PacketsAreForwardedOnce : let p : Packet := { pk 1 [] with dst := 63 }
    let s : State := { up with links := { ports := [(19, { state := 2 })], routes := [(63, { valid := true, pri := 19 })] } }
    p.dst ≠ s.glb.devId ∧ s.clocks = true ∧ packetBad p = false ∧ packetBad { p with pflags := 1 } = false ∧ (1#8).getLsbD 0 = true ∧
    p.pflags.getLsbD 0 = false ∧ s.burouPort p.dst = some 19 := by decide

/-- Ethernet port 3, up and secured, with the address 10.0.0.1 and the pause of priority 7 enabled. -/
def ethUp : State :=
  let c := zeros 18 ++ [0xFF, 0xFF, 10, 0, 0, 1] ++ zeros 3 ++ [0x17] ++ zeros 36
  { up with links := { edgBase := 0x1000, peers := [(3, 8)], eth := [(3, { up := true, secured := true, cak := some ([1], 2), config := c })] } }

theorem wit_EthernetPortsProtectAndAnswer : (ethUp.eth 3).up = true ∧ etherType (zeros 14) ≠ [0x88, 0x8E] ∧ etherType (zeros 12 ++ [0x88, 0x8E]) = [0x88, 0x8E] ∧ ethUp.answers 3 [10, 0, 0, 1] = true ∧
    ethUp.answers 3 (mapped4 [10, 0, 0, 1]) = true ∧ (mapped4 [10, 0, 0, 1]).length = 16 ∧ (ethUp.eth 3).cak = some ([1], 2) ∧
    bit (leAt (ethUp.eth 3).config 27 1) 4 = true ∧ leAt (ethUp.eth 3).config 27 1 % 16 = 7 ∧ (ethUp.eth 3).ready = true ∧
    (tget (fun _ => 0) ethUp.links.peers 3).testBit 3 = true ∧ ethUp.links.edgBase ≠ 0 ∧ 0 = tget (fun _ => 0) ethUp.links.psnRx 3 ∧
    ethUp.clocks = true ∧ packetBad (pk 1 []) = false ∧ ethUp.links.open_ = [] := by decide

/-! ## Clapper and cue mode -/

/-- Offsets at the limit, one beyond it, the 15th good one before; PTPDOM 127 and PARENT 19 are the last allowed. -/
theorem wit_ClapperFollowsItsSource : (-(2 : Int) ≤ 2 ∧ (2 : Int) ≤ 2) ∧ ¬ (-(2 : Int) ≤ 3 ∧ (3 : Int) ≤ 2) ∧ 15 ≤ ({ good := 15 } : Clapper).good ∧
    (let s : State := { port { state := 2 } with clap := { role := 1, parent := 19, auto := false } }
     (s.port 19).state = 2 ∧ s.clocks = true ∧ s.clap.role = 1 ∧ (s.modPort 19 (fun q => { q with syncDepth := 1 })).clapParent = some 19 ∧
     (s.port 19).returns.length = 4 ∧ s.clap.role ≠ 0) ∧ (port { state := 2 }).clap.role ≠ 1 ∧
    (let s : State := { up with clap := { role := 3, sync10m := true, count := 1499999999, state := 2 } }
     s.clap.role = 3 ∧ s.clap.sync10m = true ∧ s.clap.count.toNat % 1000000000 < 500000000 ∧ s.clap.role ≠ 0 ∧ s.clap.state = 2) ∧
    ({ up with clap := { state := 3 } } : State).clap.state = 3 ∧
    (fld (0xC07F0033#32).toNat 16 8 < 128 ∧ (0xC07F0033#32).toNat % 32 < 20 ∧ fld (0xC07F0033#32).toNat 24 6 = 0 ∧ fld (0xC07F0033#32).toNat 6 10 = 0) ∧
    128 ≤ fld (0x00800000#32).toNat 16 8 ∧ 20 ≤ (0x14#32).toNat % 32 := by decide +kernel

/-- Die 15 with cue mode as q. -/
def cue (q : Cue) : State := { up with dies := [(15, { cue := q })] }

/-- An ARM descriptor at 4,096, of one row and column, e4m3 matrix and vector and binary32 results; the matrix at 8,192 holds zeros. -/
def armDesc : Tab Byte := [(4097, 0x20), (4104, 2), (4106, 2), (4108, 7), (4110, 1), (4112, 1), (4118, 0x80), (4119, 0x3F), (4122, 0x80), (4123, 0x3F)]
def arming : State := cue { en := true, arming := true, desc := 4096 }
def armed : State := holding arming armDesc kRaw [1, 2, 3]

theorem wit_CueDoorbellsAndProducts_load : ∃ b m, armed.cueLoad 15 = .ok (b, m) := by
  have e1 : armed.read ebtorReq .any ((armed.die 15).cue.desc.toNat) 64 = .ok ((tread armDesc 4096 4096).take 64) :=
    holding_reads arming armDesc kRaw 1 (by decide) _ .any 0 64 (by decide) (by decide) (by unfold Readable; decide +kernel)
  have hb : ∀ n ∈ [2, 3], ∀ q : Req, q.tenant = 0 → armed.readBlock q (acceptElem 2) n = .ok (tread armDesc (n * 4096) 4096) := by
    intro n hn q hq
    have : n ∈ [1, 2, 3] := by revert n; decide
    exact holding_block arming armDesc kRaw this q _ (by
      unfold Readable; rw [hq]; revert n; decide +kernel)
  have e2 : ∃ m, armed.read { ebtorReq with use := .matrix } (acceptElem 2) 8192 8192 = .ok m := by
    rw [read_eq, if_neg (by decide), show (8192 + 8192 - 1) / 4096 - 8192 / 4096 + 1 = 2 by decide, show 8192 / 4096 = 2 by decide,
      readBlocks_succ, hb 2 (by decide) _ rfl, readBlocks_one (hb 3 (by decide) _ rfl)]
    exact ⟨_, rfl⟩
  obtain ⟨m, e2⟩ := e2
  have e3 : cueDescBad ((tread armDesc 4096 4096).take 64) = false := by decide +kernel
  have e4 : ((cueIn (leAt ((tread armDesc 4096 4096).take 64) 8 2)).map EFmt.code).getD 0 = 2 := by decide +kernel
  have e5 : leAt ((tread armDesc 4096 4096).take 64) 0 5 = 8192 := by decide +kernel
  have e0 : (armed.die 15).cue.desc.toNat % 64 = 0 := by decide
  unfold State.cueLoad
  simp only [e0, e1, e3, e4, e5, e2]
  exact ⟨_, _, rfl⟩

theorem wit_CueDoorbellsAndProducts :
    (let v := 0x8000000000001000#64; bit v.toNat 60 = false ∧ fld v.toNat 40 10 = 0 ∧ bit v.toNat 62 = false) ∧
    bit (0x8000000000001000#64).toNat 63 ≠ ((cue {}).die 15).cue.en ∧ (cue {}).dieBusy 15 = false ∧ ((cue {}).die 15).cue.busy = none ∧
    ((cue { en := true }).die 15).cue.en = true ∧ ((cue { busy := some (4, true, false) }).die 15).cue.busy = some (4, true, false) ∧
    (let v := 0xC000000000001000#64; bit v.toNat 60 = false ∧ fld v.toNat 40 10 = 0 ∧ bit v.toNat 62 = true ∧ bit v.toNat 63 = true) ∧
    (armed.die 15).cue.arming = true ∧ ((cue { arming := true, desc := 1 }).die 15).cue.desc.toNat % 64 ≠ 0 ∧
    (cue { arming := true, desc := 1 }).ebtor = true ∧
    ((0xFFFFFFFF#64).toNat < 2 ^ 32) ∧ ((cue { full := true }).die 15).cue.full = true ∧ (cue {}).cueServes 15 = true ∧
    (({ cue {} with pwr := { thermTrip := true } } : State).cueServes 15 = false) ∧ 248 % 8 = 0 ∧ 252 % 4 = 0 ∧
    up.glb.active.toNat ≠ 1 + 1 ∧ up.boot.fwuActivating = false ∧ (up.glb.contKey = 0) ∧ (1 : Dword) ≠ up.glb.contKey := by decide +kernel

theorem wit_CueDoorbellsAndProducts_candidate : ∃ k : Nat,
    ({ cue {} with cores := (dieKeys 15).map (fun k => (k, { role := 0, logical := BitVec.ofNat 10 k })) } : State).cueCandidate 15 = some k := by
  unfold State.cueCandidate
  generalize State.freeVal _ = v
  have : ((dieKeys 15).filter fun k => ((({ cue {} with cores := (dieKeys 15).map (fun k => (k, { role := 0, logical := BitVec.ofNat 10 k })) } :
    State).coreK k).role == 0 && ({ cue {} with cores := (dieKeys 15).map (fun k => (k, { role := 0, logical := BitVec.ofNat 10 k })) } : State).idle k)) =
      dieKeys 15 := by decide +kernel
  simp only [this]
  refine ⟨_, List.getElem?_eq_getElem (?_ : v.toNat % max 1 (dieKeys 15).length < (dieKeys 15).length)⟩
  exact Nat.lt_of_lt_of_le (Nat.mod_lt _ (by decide)) (by decide)

/-! ## Recipes, step boundaries, checkpoints -/

/-- A recipe table of one entry at 4,096 for job 0: LSCALE 1.0, GROWTH 1, the entry ACTIVE with a learned scale. -/
def tbl : Tab Byte := [(4102, 1), (4114, 0x80), (4115, 0x3F), (4120, 1), (4165, 1), (4173, 1)]

theorem readAt_eq (s : State) (q : Req) (a : Nat) : s.readAt q a = (s.read q .any a 64).bind (fun h =>
    ((List.range (min 4096 (hCount h))).mapM (fun i => s.read q .any (a + 64 + 128 * i) 128)).bind (fun es => .ok ⟨h, es⟩)) := by
  delta State.readAt; exact rfl
theorem bind_ok {ε α β : Type} (a : α) (f : α → Except ε β) : (Except.ok a : Except ε α).bind f = f a := rfl
theorem mapM_one {ε α β : Type} (a : α) (b : β) (f : α → Except ε β) (h : f a = .ok b) : [a].mapM f = .ok [b] := by
  simp [h, bind, Except.bind, pure, Except.pure]
theorem one_entry : List.range (min 4096 1) = [0] := by decide

theorem readAt_one {s : State} {q : Req} {a : Nat} {h e : List Byte} (h1 : s.read q .any a 64 = .ok h) (hc : hCount h = 1)
    (h2 : s.read q .any (a + 64 + 128 * 0) 128 = .ok e) : s.readAt q a = .ok ⟨h, [e]⟩ := by
  rw [readAt_eq, h1, bind_ok, hc, one_entry, mapM_one 0 e _ h2, bind_ok]

theorem tbl_reads (s : State) (q : Req) (h : Readable s kRaw q .any 1) : (holding s tbl kRaw [1]).readAt q 4096 =
    .ok ⟨((tread tbl 4096 4096).drop 0).take 64, [((tread tbl 4096 4096).drop 64).take 128]⟩ :=
  readAt_one (holding_reads s tbl kRaw 1 (by decide) q .any 0 64 (by decide) (by decide) h) (by decide +kernel)
    (holding_reads s tbl kRaw 1 (by decide) q .any 64 128 (by decide) (by decide) h)

theorem up_readable : ∀ acc ∈ [Accept.any, acceptRecord], ∀ q : Req, q.tenant = 0 → Readable up kRaw q acc 1 :=
  fun acc ha q hq => ⟨by decide +kernel, by decide +kernel, by decide +kernel, by decide +kernel, by decide +kernel, hq, by revert ha; revert acc; decide⟩

theorem tbl_good : tableBad true 0 (((tread tbl 4096 4096).drop 0).take 64) [((tread tbl 4096 4096).drop 64).take 128] = false ∧
    tableBad true 1 (((tread tbl 4096 4096).drop 0).take 64) [((tread tbl 4096 4096).drop 64).take 128] = true := by decide +kernel

/-- A reel that serves job 0. -/
def jobReel : Tab Reel := [(9, { en := true })]

/-- Bind of address 4,096 for job 0 and job 1 (JOBID mismatch), with the job idle and running. -/
theorem wit_RecipeShotsBindAndWrite : (let b := leBytes 4 0 ++ zeros 4 ++ leBytes 8 4096
     ShotRuns (holding (run 0x400 b) tbl kRaw [1]) r75 0x400 (tr 0x400 b) ∧ leAt b 8 5 = 4096 ∧ (run 0x400 b).jobRuns 0 = false ∧
     ({ run 0x400 b with reels := jobReel } : State).jobRuns 0 = true) ∧
    (let b := leBytes 4 1 ++ zeros 4 ++ leBytes 8 4096
     ShotRuns (holding (run 0x400 b) tbl kRaw [1]) r75 0x400 (tr 0x400 b)) ∧
    ShotRuns (run 0x402 []) r75 0x402 (tr 0x402 []) ∧
    (let b := leBytes 2 4095 ++ [0x02]; ShotRuns (run 0x405 b) r75 0x405 (tr 0x405 b) ∧ leAt b 0 2 = 4095 ∧ bit (leAt b 2 1) 0 = false) ∧
    (let s : State := { up with links := { casts := [(4095, { valid := true })] }, reels := jobReel }
     (s.cast 4095).valid = true ∧ (s.cast 4095).broken = false ∧ s.jobRuns 0 = true) ∧
    (up.cast 4095).valid = false ∧ up.links.open_ = [] ∧ up.castInvalid { valid := true } = true ∧
    (let c : Cast := { valid := true, members := [0] }
     ({ up with glb := { active := 1, idLock := true } } : State).castInvalid c = false) := by unfold ShotRuns; decide +kernel

theorem wit_RecipeShotsBindAndWrite_table : ∀ b, ∃ tb, (holding (run 0x400 b) tbl kRaw [1]).readAt (tr 0x400 b).req 4096 = .ok tb ∧
    tableBad true 0 tb.h tb.es = false ∧ tableBad true 1 tb.h tb.es = true :=
  fun b => ⟨_, tbl_reads (run 0x400 b) _ (up_readable .any (by decide) _ rfl), tbl_good.1, tbl_good.2⟩

/-- Job 0 runs with that table. -/
def bound : State := holding { run 0x401 [] with jobs := [(0, { table := 4096 })], reels := jobReel } tbl kRaw [1]
def jobQ : Req := { tenant := 0, use := .other, range := 0x0201 }

/-- A recipe-write of entry 0, the last of the table, that is well formed and one that is not. -/
theorem wit_RecipeShotsBindAndWrite_write : (bound.job 0).future = (4096, 0) ∧ bound.jobRuns 0 = true ∧
    ∃ tb, (bound.readAt jobQ 4096).bind (bound.applyWrites jobQ 4096 (bound.job 0).writes) = .ok tb ∧ 0 < tb.es.length ∧
      (∃ new, bound.applyWrite jobQ 4096 tb (0, zeros 5 ++ [1] ++ zeros 7 ++ [1] ++ zeros 114) = .ok new ∧ tableBad false 0 new.h new.es = false) ∧
      ∃ new, bound.applyWrite jobQ 4096 tb (0, [0, 0, 0, 0, 8] ++ zeros 123) = .ok new ∧ tableBad false 0 new.h new.es = true := by
  have h : bound.readAt jobQ 4096 = _ := tbl_reads _ jobQ (up_readable .any (by decide) _ rfl)
  rw [h]
  exact ⟨rfl, by decide +kernel, _, rfl, by decide, ⟨_, rfl, by decide +kernel⟩, _, rfl, by decide +kernel⟩

theorem rmw_eq (s : State) (q : Req) (a len : Nat) (g : List Byte → List Byte) :
    s.rmw q a len g = (s.read q acceptRecord a len).bind (fun old => s.write q kRecord 0 0 a (g old)) := rfl

/-- LSCHECK of a table without LSCHK entries, and a CAST_WRITE of an entry of one member, the device itself. -/
theorem wit_RecipeShotsBindAndWrite_check : (∃ u, bound.rmw jobQ 4096 8 (fun _ => zeros 8) = .ok u) ∧
    [((tread tbl 4096 4096).drop 64).take 128].filter (fun e => bit (eState e) 2) = [] ∧
    ∃ l, (holding up [] kRaw [0]).read jobQ .any 0 8 = .ok l ∧ (cut 8 l).map (fun m => BitVec.ofNat 64 (leNat m)) = [0] := by
  refine ⟨?_, by decide +kernel, ?_⟩
  · have h : bound.read jobQ acceptRecord 4096 8 = _ :=
      holding_reads _ tbl kRaw 1 (by decide) jobQ acceptRecord 0 8 (by decide) (by decide) (up_readable acceptRecord (by decide) _ rfl)
    obtain ⟨u, hu⟩ := writeBlock_ok (s := bound) (q := jobQ) (kind := kRecord) (fmt := 0) (tid := 0) (blk := 1) (ps := [(0, zeros 8)])
      (by decide +kernel) (by decide +kernel) (by decide +kernel) (by decide +kernel) (by decide +kernel) (.inr (holding_ok _ tbl kRaw (by decide))) rfl
    refine ⟨u, ?_⟩
    rw [rmw_eq, h, bind_ok, write_of_block (by decide) (by decide)]
    exact hu
  · exact ⟨_, holding_reads up [] kRaw 0 (by decide) jobQ .any 0 8 (by decide) (by decide) (by unfold Readable; decide +kernel), by decide +kernel⟩
/-- LSCHECK on a training and on an evaluation reel. -/
theorem wit_RecipeShotsBindAndWrite_eval : ∀ e, let x : Tracked := { tr 0x015 [] with eval := e }
    ShotRuns { bound with tracked := [x] } r75 0x015 x ∧ x.eval = e ∧ (bound.job x.job).table ≠ 0 := by
  intro e; cases e <;> (unfold ShotRuns; decide +kernel)

/-- Reel 7 serves job 0 and has reached its STEP_END; one die with everything settled. -/
def atEnd : State :=
  { waits 0x300 [] with reels := [(7, { en := true, nextSeq := 6 })], dies := (List.range 16).map (fun d => (d, {})) }

theorem wit_StepBoundaryReleasesTheNextStep : up.boundaryDue 0 = false ∧ atEnd.boundaryDue 0 = true ∧ (atEnd.job 0).table = 0 ∧
    (atEnd.job 0).bindNext = none ∧ (atEnd.job 0).writes = [] ∧ atEnd.links.castNext = [] ∧ atEnd.pwr.planNext = none ∧
    (∀ d < 16, (atEnd.die d).fmaxNext = none ∧ (atEnd.die d).cue.enNext = none ∧ (atEnd.die d).floorFence = false) ∧
    (∀ k ∈ atEnd.cores, (atEnd.coreK k.1).deferred = false) ∧ (atEnd.job 0).holdWith = none ∧ (atEnd.runBoundary 0).isOk = true := by decide +kernel
/-- LSEXPMIN and LSEXPMAX met, the last clean step before growth, ELEMS 0 and 1, HISTLEN 1 and 16. -/
theorem wit_StepBoundaryReleasesTheNextStep_rules : (1 : Nat) + 1 < 2 ^ 32 ∧ 0 < 2 ∧ (-126 : Int) ≤ -126 ∧ (-126 : Int) ≤ 127 ∧ (1 + 1 = 2) ∧
    leAt (zeros 32) 8 8 = 0 ∧ leAt (zeros 8 ++ [1] ++ zeros 23) 8 8 ≠ 0 ∧ eHist (zeros 15 ++ [1] ++ zeros 112) = 1 ∧
    eHist (zeros 15 ++ [16] ++ zeros 112) = 16 ∧ (zeros 15 ++ [16] ++ zeros 112).length = 128 := by decide +kernel
/-- R199: a skipped step halves 2.0 to 1.0, the GROWTH-th clean one doubles it. -/
theorem test_loss_scale : (lossStep true 1 0 3 5 2).exp = 0 ∧ (lossStep false 1 0 3 1 2).exp = 2 ∧ (lossStep false 3 0 3 1 2).exp = 3 := by decide

/-- NVMe-oF target 15 is VALID with L0 at 100. -/
def target : State := { up with links := { targets := [(15, zeros 19 ++ [1] ++ zeros 20 ++ [100])] } }
def prep (op : BitVec 12) (tgt : Nat) : Prepare := { shot := { sh op (zeros 12 ++ leBytes 4 tgt) with seq := 4 } }
def commitBody : List Byte := leBytes 4 0 ++ [1, 0, 0, 0] ++ leBytes 4 4
def prepBody : List Byte := leBytes 4 0 ++ [0, 0] ++ leBytes 2 1 ++ zeros 4 ++ leBytes 4 15 ++ leBytes 8 0 ++ leBytes 8 8192
def withPrep (s : State) (op : BitVec 12) : State := { s with tracked := [tr op commitBody], reels := [(7, { staged := [prep op 15] })] }
/-- A checkpoint that has captured: block 0 is pending, block 4 is its shadow area. -/
def capt : Ckpt := { job := 0, ref := r75, captured := true, target := 15, regions := [(0, 1)], shadow := 4, shadowBlocks := 1, pend := [0] }
def capturing : State := { target with ckpt := some capt, tracked := [tr 0x403 commitBody] }

theorem wit_CheckpointsStreamAndRestore :
    ShotRuns capturing r75 0x403 (tr 0x403 commitBody) ∧ capturing.ckpt ≠ none ∧ ShotRuns (run 0x403 prepBody) r75 0x403 (tr 0x403 prepBody) ∧
    leAt prepBody 4 1 = 0 ∧ up.targetOk (leAt prepBody 12 4) = false ∧ target.targetOk (leAt prepBody 12 4) = true ∧ up.mapped (leAt prepBody 24 5) = true ∧
    up.regionsBad ((List.range (leAt prepBody 6 2)).map (regionEntry (zeros 16))) = none ∧
    ShotRuns (run 0x403 commitBody) r75 0x403 (tr 0x403 commitBody) ∧ leAt commitBody 4 1 = 1 ∧ up.prepared r75 (tr 0x403 commitBody) 8 = none ∧
    (withPrep target 0x403).prepared r75 (tr 0x403 commitBody) 8 = some (prep 0x403 15) ∧ target.targetOk (leAt (prep 0x403 15).shot.body 12 4) = true ∧
    ShotRuns (withPrep target 0x403) r75 0x403 (tr 0x403 commitBody) := by unfold ShotRuns; decide +kernel

theorem wit_CheckpointsStreamAndRestore_captured : 0 ∈ capt.pend ∧ capturing.hubServes 0 = true ∧ capt.freeShadow = some 4 ∧
    1 ∉ capt.pend ∧ capt.copies = [] ∧ capturing.mapped 0 = true ∧ capturing.ownerOf 0 = (capturing.job 0).tenant ∧ capturing.poisoned 0 = false ∧
    ShotRuns (withPrep target 0x404) r75 0x404 (tr 0x404 commitBody) ∧ (withPrep target 0x404).prepared r75 (tr 0x404 commitBody) 8 = some (prep 0x404 15) ∧
    ShotRuns { target with tracked := [tr 0x404 prepBody] } r75 0x404 (tr 0x404 prepBody) ∧
    (({ up with reels := [(7, { staged := List.replicate 16 (prep 0x403 15) })] } : State).reel 7).staged.length = 16 ∧
    manifestOk [] up.glb.contKey = false ∧ ({ capt with flushed := true } : Ckpt).manifestSent = false := by unfold ShotRuns; decide +kernel

theorem wit_CheckpointsStreamAndRestore_block : slateStatus ((withKind capturing 5).slate 0)
    ((withKind capturing 5).slateOk 0 ((withKind capturing 5).block 0)) .any = none := by
  rw [withKind_ok, show (withKind capturing 5).slate 0 = _ from holding_slate capturing [] 5 (by decide), slateStatus_seal]; decide
/-- Completions of the Flush, of the last block write, of the manifest, and of no command; a restore that has asked for its manifest. -/
theorem wit_CheckpointsStreamAndRestore_completions :
    (let k : Ckpt := { capt with unacked := [101], allSent := true, pend := [] }
     let s : State := { capturing with ckpt := some k }
     101 ∈ k.unacked ∧ k.manifestSent = false ∧ k.allSent = true ∧ k.flushSent = false ∧ (∀ y ∈ k.unacked, y = 101) ∧
     s.ckptOwes k (.write 101) = true ∧ s.ckptOwes k (.write 102) = false ∧ s.glb.flogWait = [] ∧ s.unlisted 0 = false) ∧
    (∃ y ∈ ({ capt with unacked := [101, 102] } : Ckpt).unacked, y ≠ 101) ∧
    (let k : Ckpt := { capt with flushSent := true }; k.flushSent = true ∧ k.flushed = false ∧ capturing.ckptOwes k .flush = true) ∧
    (let k : Ckpt := { capt with flushSent := true, flushed := true, manifestSent := true }
     k.manifestSent = true ∧ (⟨.write (capturing.targetL0 k.target), r75, []⟩ : NvmeRsp).ref = k.ref) ∧
    (let k : Restore := { job := 0, ref := r75, target := 15, addr := 0, out := [0] }
     0 ∈ k.out ∧ k.manifest = [] ∧ (⟨.read (target.targetL0 k.target + 0), r75, []⟩ : NvmeRsp).cmd = .read (target.targetL0 k.target + 0) ∧
     manifestOk (bytesAt [] 0 4096) target.glb.contKey = false) := by decide +kernel

theorem wit_CheckpointsStreamAndRestore_list : ∃ l, (holding { target with tracked := [tr 0x403 prepBody] } [] kRaw [0]).read (tr 0x403 prepBody).req .any 0 16 = .ok l ∧
    up.regionsBad ((List.range (leAt prepBody 6 2)).map (regionEntry l)) = none :=
  ⟨_, holding_reads _ [] kRaw 0 (by decide) _ .any 0 16 (by decide) (by decide) (by unfold Readable; decide +kernel), by decide +kernel⟩

/-! ## Products, conversions, routing -/

/-- A dispatched shot, one ordinary core to work it, and descriptors in block 1. -/
def work (op : BitVec 12) (body : List Byte) (m : Tab Byte) : State :=
  holding { run op body with cores := [(0, { role := 0 })], dies := [(0, {})] } m kRaw [1]

/-- A product of one output: e4m3 operands and a binary32 destination at 8,192, MSCALE 1.0, K = k; and a convolution of one pixel behind it. -/
def prodD (k : Byte) : Tab Byte :=
  [(4096 + 34, 0x80), (4096 + 35, 0x3F), (4096 + 36, 2), (4096 + 82, 0x80), (4096 + 83, 0x3F), (4096 + 84, 2), (4096 + 96, 1), (4096 + 100, 1),
   (4096 + 104, k), (4096 + 129, 0x20), (4096 + 178, 0x80), (4096 + 179, 0x3F), (4096 + 180, 7), (4096 + 182, 1)] ++
  [0, 2, 4, 5, 6, 7, 8, 9, 16, 18, 20, 22, 24, 26].map (fun i => (4096 + 384 + i, 1))
/-- A scatter-add of no row in binary32, with a bias that nothing has written (how many rows a destination has is a free value). -/
def scatD : Tab Byte :=
  [(4096 + 34, 0x80), (4096 + 35, 0x3F), (4096 + 36, 7), (4096 + 38, 0x38), (4096 + 82, 0x80), (4096 + 83, 0x3F), (4096 + 84, 7), (4096 + 86, 0x08),
   (4096 + 100, 1), (4096 + 129, 0x20), (4096 + 178, 0x80), (4096 + 179, 0x3F), (4096 + 180, 7), (4096 + 182, 1),
   (4096 + 257, 0x20), (4096 + 304, 1)]
/-- What such a block reads as from an offset on. -/
def at1 (m : Tab Byte) (off n : Nat) : List Byte := ((tread m 4096 4096).drop off).take n

theorem work_reads (op : BitVec 12) (body : List Byte) (m : Tab Byte) (q : Req) (hq : q.tenant = 0) (off n : Nat) (hn : 0 < n) (hf : off + n ≤ 4096) :
    (work op body m).read q .any (4096 + off) n = .ok (at1 m off n) :=
  holding_reads _ m kRaw 1 (by decide) q .any off n hn hf (up_readable .any (by decide) q hq)

/-- The job's parts are made and commit. -/
def Lands (s : State) (x : Tracked) : Except Half ProdJob → Bool
  | .error _ => false
  | .ok j => match j.parts (s.reader x.tenant stRange) (partsOf j.tiles.length) with
    | none => false
    | some ps => ((s.touch (s.batchDies x.shot) (s.operandSlots j.job.p.a j.job.p.m j.job.p.k ++ s.operandSlots j.job.p.b j.job.p.n j.job.p.k)).runParts
        x.req (s.quantTaint j.job.p.a j.job.p.m j.job.p.k ++ s.quantTaint j.job.p.b j.job.p.n j.job.p.k) 7 5 (x.withLost ps)).isSome

def prodBody : List Byte := leBytes 8 4096
/-- Descriptor addresses 4,096 and 4,096 (a companion) or 4,480 (a convolution). -/
def twoBody (second : Nat) : List Byte := leBytes 8 4096 ++ leBytes 8 second

/-- K = 0 and K = 1, with a companion, as a convolution and as a scatter-add; a refused one (TFD 0xFFFF); one whose descriptor is UNWRITTEN. -/
theorem wit_ProductShotsLandInTheirParts :
    ShotRuns (work 0x010 prodBody (prodD 0)) r75 0x010 (tr 0x010 prodBody) ∧ (work 0x010 prodBody (prodD 0)).canWork r75 = true ∧
    leAt prodBody 8 5 = 0 ∧ leAt prodBody 0 5 = 4096 + 0 ∧ leAt (twoBody 4480) 8 5 = 4096 + 384 ∧
    (∀ k ∈ [0, 1], let p := Prod.read .mm true (PMode.ofByte 0) (fun _ => none) false (at1 (prodD k) 0 384)
      Lands (work 0x010 prodBody (prodD k)) (tr 0x010 prodBody) (p.bind (fun p => prodJob p none none false 0 5)) = true ∧
      Lands (work 0x010 prodBody (prodD k)) (tr 0x010 (twoBody 4096)) (p.bind (fun p =>
        (Prod.read .comp true (PMode.ofByte 0) (fun _ => none) false (at1 (prodD k) 0 384)).bind (fun q => prodJob p none (some q) false 0 5))) = true) ∧
    Lands (work 0x011 (twoBody 4480) (prodD 1)) (tr 0x011 (twoBody 4480)) ((Prod.read .conv true (PMode.ofByte 0) (fun _ => none) false
      (at1 (prodD 1) 0 384)).bind (fun p => (ConvD.parse (at1 (prodD 1) 384 64)).bind (fun c => prodJob p (some c) none false 0 5))) = true ∧
    Lands (work 0x012 prodBody scatD) (tr 0x012 prodBody) ((Prod.read .scat true (PMode.ofByte 0) (fun _ => none) false (at1 scatD 0 384)).bind
      (fun p => prodJob p none none true 0 5)) = true ∧
    (Prod.read .mm true (PMode.ofByte 0) (fun _ => none) false (at1 [] 0 384)).isOk = false ∧
    (Prod.read .scat true (PMode.ofByte 0) (fun _ => none) false (at1 [] 0 384)).isOk = false ∧ (run 0x012 prodBody).canWork r75 = false := by
  unfold ShotRuns; decide +kernel

theorem wit_ProductShotsLandInTheirParts_unread : ShotRuns (run 0x012 prodBody) r75 0x012 (tr 0x012 prodBody) ∧
    (run 0x012 prodBody).read (tr 0x012 prodBody).req .any 4096 384 = .error (.fail 0x0304 4096) := by
  refine ⟨by unfold ShotRuns; decide, read_of_fail (by decide) (readBlock_fail (blk := 1) (by decide +kernel) (by decide +kernel) rfl rfl (by decide +kernel) (by decide +kernel) ?_)⟩
  rw [show (run 0x012 prodBody).slate 1 = slate0 1 from rfl]
  exact if_pos rfl

/-- A conversion of one element: an e4m3 source at 8,192 (offset 0 of block 1) and a binary32 destination at 12,288 (offset 384), the
second form through a recipe reference (RREF) with a base-note list at offset 1,024 that names column 1. -/
def convD (rref : Byte) : Tab Byte :=
  [(4097, 0x20), (4096 + 34, 0x80), (4096 + 35, 0x3F), (4096 + 36, 2), (4480 + 1, 0x30), (4480 + 50, 0x80), (4480 + 51, 0x3F), (4480 + 52, 7),
   (4480 + 54, 1), (4480 + 55, rref), (5120, 1)]
def convBody : List Byte := leBytes 8 4096 ++ leBytes 8 4480 ++ leBytes 8 16384 ++ leBytes 4 1 ++ leBytes 4 1
def noted : Tracked := { tr 0x013 convBody with
  resolved := [{ slot := 2, tid := 1, tfd := 7, rot := 0, seed := 0, stream := 0, rotStream := 0, mscale := 0x3F800000, sill := 0, bnAddr := 5120, bnCnt := 1 }] }

/-- The conversion commits with its base-note list read as lb; or the list is out of order. -/
def Converts (s : State) (x : Tracked) (lb : List Byte) (good : Bool) : Except Half ConvertJob → Bool
  | .error _ => false
  | .ok j => match j.src.tokens (s.reader x.tenant stRange) j.rows with
    | .error _ => false
    | .ok toks => match bnList lb j.d0.bnCnt j.cols with
      | none => !good
      | some l => good && j.d1.isNone && match j.parts (s.reader x.tenant stRange) toks l [] with
        | none => false
        | some ps => ((s.touch (s.batchDies x.shot) (s.operandSlots j.src j.rows j.cols)).runParts x.req (s.operandSlots j.src j.rows j.cols) 7 5
            (x.withLost ps)).isSome

def routeBody : List Byte := leBytes 8 8192 ++ leBytes 2 1 ++ [1, 0] ++ leBytes 4 1 ++ leBytes 2 1 ++ leBytes 2 0 ++ leBytes 4 1 ++ leBytes 8 12288

theorem wit_ConversionsAndRoutingLand :
    ShotRuns (work 0x013 convBody (convD 0)) r75 0x013 (tr 0x013 convBody) ∧ (work 0x013 convBody (convD 0)).canWork r75 = true ∧
    leAt convBody 0 5 = 4096 + 0 ∧ leAt convBody 8 5 = 4096 + 384 ∧
    Converts (work 0x013 convBody (convD 0)) (tr 0x013 convBody) [] true
      (convertJob (tr 0x013 convBody) (at1 (convD 0) 0 48) (at1 (convD 0) 384 128)) = true ∧
    Converts { work 0x013 convBody (convD 1) with tracked := [noted] } noted (at1 (convD 1) 1024 4) false
      (convertJob noted (at1 (convD 1) 0 48) (at1 (convD 1) 384 128)) = true ∧
    (convertJob (tr 0x013 convBody) (at1 (convD 1) 0 48) (at1 (convD 1) 384 128)).isOk = false ∧
    ShotRuns (work 0x014 [] []) r75 0x014 (tr 0x014 []) ∧ (work 0x014 [] []).canWork r75 = true ∧ (RouteD.parse []).tokens = 0 ∧
    (let d := RouteD.parse routeBody; 0 < d.tokens ∧
     (State.routeParts (tr 0x014 routeBody) d (d.tokens / d.gtok) (partsOf (d.tokens / d.gtok)) (List.range (partsOf (d.tokens / d.gtok))) (work 0x014 routeBody [])).isSome = true) := by
  unfold ShotRuns; decide +kernel

/-- DROP 2 keeps the first two tokens and one more in overflow; a list of two slots that holds one token. -/
theorem test_keep_by_order : let d : RouteD := { RouteD.parse [] with c := 2, ovf := 1, drop := 2 }
    (d.keep [(3, 0x3F000000), (5, 0x3F800000), (9, 0x3F800000)]).1.map (·.1) = [3, 5] ∧
    (d.keep [(3, 0x3F000000), (5, 0x3F800000), (9, 0x3F800000)]).2.map (·.1) = [9] ∧
    slotBytes 2 [(3, 1)] = (leBytes 4 3 ++ leBytes 4 0xFFFFFFFF, leBytes 4 1 ++ zeros 4) := by decide +kernel

/-- Two of three experts; of equal logits, the lower index. -/
theorem test_topK_takes_ties_in_order : topK 2 [0x3F800000#32, 0x40000000#32, 0x3F800000#32] = [(1, 0x40000000#32), (0, 0x3F800000#32)] := by
  have e : List.zipIdx [0x3F800000#32, 0x40000000#32, 0x3F800000#32] = [(0x3F800000#32, 0), (0x40000000#32, 1), (0x3F800000#32, 2)] := rfl
  have x1 : logitAbove (0, 0x3F800000#32) (1, 0x40000000#32) = false := by decide +kernel
  have x2 : logitAbove (0, 0x3F800000#32) (2, 0x3F800000#32) = true := by decide +kernel
  have x3 : logitAbove (1, 0x40000000#32) (2, 0x3F800000#32) = true := by decide +kernel
  simp [topK, topOf, e, List.mergeSort, x1, x2, x3, List.MergeSort.Internal.splitInTwo]

/-! ## Collectives -/

/-- Entry 5 has two members: this device, 0, and device 1; both reached by Burou port 19. -/
def ranks (n me : Nat) : State :=
  { up with links := { ports := [(19, { state := 2 })], routes := [(0, { valid := true, pri := 19 }), (1, { valid := true, pri := 19 })],
                       casts := [(5, { valid := true, groupid := 8, members := [(0 : Dword), 0x10000000000].take n, myrank := me, timeout := 7 })] } }
def collBody (entry root : Nat) : List Byte := leBytes 2 entry ++ zeros 6 ++ leBytes 2 root
def joins (s : State) (op : BitVec 12) (b : List Byte) : State := { s with tracked := [tr op b] }
/-- The five opcodes, and what an entry can hold. -/
theorem wit_CollectivesOpenAtTheirMembers : (∀ op ∈ [0x200, 0x201, 0x202, 0x203, 0x204], ShotRuns (run (BitVec.ofNat 12 op) (collBody 5 0)) r75 op
      (tr (BitVec.ofNat 12 op) (collBody 5 0)) ∧ (tr (BitVec.ofNat 12 op) (collBody 5 0)).phase = .dispatched) ∧
    leAt (collBody 5 1) 0 2 = 5 ∧ leAt (collBody 5 1) 8 2 = 1 ∧ (up.cast 5).broken = false ∧ (up.cast 5).valid = false ∧ up.links.open_ = [] ∧
    ((ranks 2 0).cast 5).valid = true ∧ ((ranks 2 0).cast 5).broken = false ∧ ((ranks 2 0).cast 5).members.length = 2 ∧
    ((ranks 1 0).cast 5).members.length = 1 ∧ ((ranks 2 0).cast 5).myrank = 0 ∧ (ranks 2 0).links.early = [] ∧ (ranks 2 0).links.castNext = [] ∧
    bit (leAt (collBody 5 0) 2 1) 1 = false ∧ bit (leAt (leBytes 2 5 ++ [2] ++ zeros 7) 2 1) 1 = true ∧ leAt (collBody 5 0) 16 8 = 0 ∧
    bit (leAt (collBody 5 0) 2 1) 0 = false ∧ (ranks 2 0).reachable (((ranks 2 0).cast 5).dev 1) = true := by unfold ShotRuns; decide +kernel
/-- The collective that shot 5 of reel 7 opens on entry 5, and that it may open. -/
def coming (s : State) (op : Nat) (b : List Byte) : Coll :=
  let k : Coll := { ref := r75, body := b, opcode := op, tenant := 0, eval := false, dhash := collHash op b, cser := (s.cast 5).cser, pos := 0,
                    g := (s.cast 5).members.length }
  { k with pos := k.posOf (s.cast 5).myrank }
def MayOpen (s : State) (op : Nat) (b : List Byte) : Prop :=
  ShotRuns s r75 op (tr (BitVec.ofNat 12 op) b) ∧
  ((tr (BitVec.ofNat 12 op) b).phase = .dispatched && leAt b 0 2 = 5 && s.links.open_.all (fun e => e.1 ≠ 5) &&
    !(s.cast 5).broken && (s.cast 5).valid && !bit (leAt b 2 1) 1 && leAt b 8 2 < (s.cast 5).members.length &&
    (s.cast 5).myrank < (s.cast 5).members.length && s.links.early.isEmpty && s.links.castNext.isEmpty && !s.peerLost 5 (coming s op b)) = true
def mode1Body : List Byte := leBytes 2 5 ++ [1] ++ zeros 13 ++ leBytes 8 64
/-- Two members without a block, under MODE 1, and behind position 0; one member. -/
theorem wit_CollectivesOpenAtTheirMembers_due : (∀ op ∈ [0x200, 0x201, 0x202, 0x203, 0x204],
      MayOpen (joins (ranks 2 0) (BitVec.ofNat 12 op) (collBody 5 0)) op (collBody 5 0) ∧ (coming (ranks 2 0) op (collBody 5 0)).total = 0 ∧
      (coming (ranks 2 0) op (collBody 5 0)).g = 2 ∧
      MayOpen (joins (ranks 2 0) (BitVec.ofNat 12 op) mode1Body) op mode1Body ∧ (coming (ranks 2 0) op mode1Body).mode1 = true ∧
      MayOpen (joins (ranks 2 1) (BitVec.ofNat 12 op) (collBody 5 0)) op (collBody 5 0) ∧ (coming (ranks 2 1) op (collBody 5 0)).pos = 1 ∧
      MayOpen (joins (ranks 1 0) (BitVec.ofNat 12 op) (collBody 5 0)) op (collBody 5 0) ∧ (coming (ranks 1 0) op (collBody 5 0)).g = 1) ∧
    (ranks 2 0).burouPort (((ranks 2 0).cast 5).dev ((coming (ranks 2 0) 0x200 (collBody 5 0)).rankAt 1)) ≠ none := by
  unfold MayOpen ShotRuns; decide +kernel
/-- COUNT n from address 4,096, binary32 sums, send lengths at 4,096. -/
def fromBody (n : Nat) : List Byte := collBody 5 0 ++ zeros 6 ++ leBytes 8 n ++ leBytes 8 4096 ++ zeros 8 ++ [7, 0, 7, 0] ++ zeros 12 ++ leBytes 8 4096
def sending (op : BitVec 12) (n : Nat) (m : Tab Byte) : State := holding (joins (ranks 2 0) op (fromBody n)) m kRaw [1]
theorem sending_reads (op : BitVec 12) (n : Nat) (m : Tab Byte) (acc : Accept) (ha : acc = .any ∨ acc = acceptElem 7) (off len : Nat) (hl : 0 < len)
    (hf : off + len ≤ 4096) : (sending op n m).read { tenant := 0, use := .other, range := stRange } acc (4096 + off) len =
      .ok (((tread m (1 * 4096) 4096).drop off).take len) :=
  holding_reads (joins (ranks 2 0) op (fromBody n)) m kRaw 1 (bs := [1]) (by decide) _ acc off len hl hf
    ⟨show up.mapped _ = true by decide +kernel, show up.hubServes _ = true by decide +kernel, rfl, rfl, rfl, rfl, by rcases ha with rfl | rfl <;> decide⟩
/-- A broadcast of 64 bytes, a reduction of 32 elements, an exchange of two slices of 64 bytes: one block each. -/
theorem wit_CollectivesOpenAtTheirMembers_blocks :
    (∀ p ∈ [(0x200, 64), (0x201, 32), (0x202, 32), (0x203, 64)], let s := joins (ranks 2 0) (BitVec.ofNat 12 p.1) (fromBody p.2)
      MayOpen s p.1 (fromBody p.2) ∧ (coming s p.1 (fromBody p.2)).pos = 0 ∧ (coming s p.1 (fromBody p.2)).mode1 = false ∧
      (coming s p.1 (fromBody p.2)).total = 1) ∧
    (∃ d, (sending 0x200 64 []).read (coming (sending 0x200 64 []) 0x200 (fromBody 64)).req .any 4096 64 = .ok d) ∧
    (∀ op ∈ [0x201, 0x202], ∃ ls, (sending 0x201 32 []).ownLedgers (coming (sending 0x201 32 []) op (fromBody 32)) 0 = .ok ls) ∧
    (sending 0x203 64 [(4096, 64), (4100, 64)]).sendLengths (coming (sending 0x203 64 [(4096, 64), (4100, 64)]) 0x203 (fromBody 64)) = .ok [64, 64] ∧
    ∀ j < 2, ∃ d, (sending 0x203 64 [(4096, 64), (4100, 64)]).read
      (coming (sending 0x203 64 [(4096, 64), (4100, 64)]) 0x203 (fromBody 64)).req .any (4096 + j * 64) 64 = .ok d := by
  refine ⟨by unfold MayOpen ShotRuns; decide +kernel, ⟨_, sending_reads _ _ _ .any (.inl rfl) 0 64 (by decide) (by decide)⟩, fun op ho => ?_, ?_,
    fun j hj => ⟨_, sending_reads _ _ _ .any (.inl rfl) (j * 64) 64 (by decide) (by omega)⟩⟩
  · have h := sending_reads 0x201 32 [] (acceptElem 7) (.inr rfl) 0 128 (by decide) (by decide)
    have e : (coming (sending 0x201 32 []) op (fromBody 32)).stfd % 16 = 7 ∧ (coming (sending 0x201 32 []) op (fromBody 32)).subBlocks 0 = 1 ∧
      (coming (sending 0x201 32 []) op (fromBody 32)).src = 4096 ∧
      (coming (sending 0x201 32 []) op (fromBody 32)).req = { tenant := 0, use := .other, range := stRange } := by
        revert op; decide +kernel
    unfold State.ownLedgers
    simp only [e.1, e.2.1, e.2.2.1, e.2.2.2, Nat.mul_zero, Nat.mul_one] at h ⊢
    rw [if_neg (by decide), h]
    exact ⟨_, rfl⟩
  · have h := sending_reads 0x203 64 [(4096, 64), (4100, 64)] .any (.inl rfl) 0 8 (by decide) (by decide)
    have e : (coming (sending 0x203 64 [(4096, 64), (4100, 64)]) 0x203 (fromBody 64)).total = 1 ∧
      (coming (sending 0x203 64 [(4096, 64), (4100, 64)]) 0x203 (fromBody 64)).isToken = true ∧
      (coming (sending 0x203 64 [(4096, 64), (4100, 64)]) 0x203 (fromBody 64)).lentab = 4096 + 0 ∧
      (coming (sending 0x203 64 [(4096, 64), (4100, 64)]) 0x203 (fromBody 64)).g = 2 ∧
      (coming (sending 0x203 64 [(4096, 64), (4100, 64)]) 0x203 (fromBody 64)).count = 64 ∧
      (coming (sending 0x203 64 [(4096, 64), (4100, 64)]) 0x203 (fromBody 64)).req = { tenant := 0, use := .other, range := stRange } := by
        decide +kernel
    unfold State.sendLengths
    simp only [e.1, e.2.1, e.2.2.1, e.2.2.2.1, e.2.2.2.2.1, e.2.2.2.2.2, h, show 4 * 2 = 8 by decide]
    have e7 : (List.range 2).map (fun j => leAt (((tread [(4096, 64), (4100, 64)] (1 * 4096) 4096).drop 0).take 8) (4 * j) 4) = [64, 64] := by decide +kernel
    rw [if_neg (by decide)]
    simp only [bind, Except.bind, e7]
    rfl
/-- Position 0 at the root, and the last position before it. -/
theorem test_chain_positions : let k : Coll := { ref := r75, body := collBody 5 3, opcode := 0x200, tenant := 0, eval := false, dhash := 0, cser := 0, pos := 0, g := 5 }
    k.posOf 3 = 0 ∧ k.posOf 2 = 4 ∧ k.rankAt 4 = 2 := by decide

/-- An open collective of entry 5 at position pos, its root at rank 0, COUNT 4,096 and DST 8,192. -/
def coll (op pos : Nat) : Coll :=
  { ref := r75, body := collBody 5 0 ++ zeros 6 ++ leBytes 8 4096 ++ zeros 8 ++ leBytes 8 8192, opcode := op, tenant := 0, eval := false, dhash := 9, cser := 4, pos := pos, g := 2 }
def opened (k : Coll) : State := { (ranks 2 k.pos) with tracked := [tr (BitVec.ofNat 12 k.opcode) k.body], links.open_ := [(5, k)] }
/-- A packet from the device at the other position. -/
def cp (ty : Byte) (src : Half) (payload : List Byte) : Packet :=
  { ptype := ty, pflags := 0, dst := 0, src := src, groupid := 8, cser := 4, dhash := 9, chunk := 0, blk := 0, arg := 0, payload := payload }

theorem reach (k : Coll) : ∀ r : Nat, (opened k).reachable (((opened k).cast 5).dev r) = true
  | 0 => by
    have h : ((opened k).cast 5).dev 0 = 0 := by simp [Cast.dev, State.cast, opened, ranks, tget]
    rw [h, show (opened k).reachable 0 = (ranks 2 0).reachable 0 from rfl]; decide +kernel
  | 1 => by
    have h : ((opened k).cast 5).dev 1 = 1 := by simp [Cast.dev, State.cast, opened, ranks, tget]
    rw [h, show (opened k).reachable 1 = (ranks 2 0).reachable 1 from rfl]; decide +kernel
  | r + 2 => by
    have h : ((opened k).cast 5).dev (r + 2) = 0 := by simp [Cast.dev, State.cast, opened, ranks, tget]
    rw [h, show (opened k).reachable 0 = (ranks 2 0).reachable 0 from rfl]; decide +kernel

/-- A member at rank 0 that is position `pos` gets a packet from rank 1. -/
theorem coll_packet (k : Coll) (hc : k.cser = 4) (hr : k.ref = r75) (hk : k.cchk = []) (hf : k.feed = false) (ty : Byte) (pl : List Byte)
    (hb : packetBad (cp ty 1 pl) = false) : CollPacket (opened k) (cp ty 1 pl) ty.toNat 5 k (k.posOf 1) := by
  refine ⟨rfl, rfl, hb, rfl, rfl, ?_, ⟨1, ?_, rfl⟩, reach k, ⟨tr (BitVec.ofNat 12 k.opcode) k.body, ?_⟩, hk, hf, rfl⟩
  · simp only [State.collOf, opened, ranks, List.find?_cons, hc]; rfl
  · rw [show ((opened k).cast 5).rankOf (cp ty 1 pl).src = ((ranks 2 0).cast 5).rankOf 1 from rfl]; decide +kernel
  · rw [hr]; rfl

/-- A transport block of zeros as partial sums, and as a checkpoint record. -/
def sumsBlock (kindFmt : Byte) : List Byte :=
  let sl := slateTail { gen := 1, kind := kindFmt.extractLsb' 4 4, fmt := kindFmt.extractLsb' 0 4 }
  zeros 4096 ++ (leBytes 8 (crc64 sl).toNat ++ sl)
theorem sums_pass : checkTransport (sumsBlock (kLedger ++ 0xA#4)) acceptSums = none ∧ checkTransport (sumsBlock (kLedger ++ 0xA#4)) .any = none ∧
    checkTransport (sumsBlock (kRaw ++ 0#4)) acceptSums = some 0x0303 := by
  unfold sumsBlock
  refine ⟨?_, ?_, ?_⟩ <;> (rw [checkTransport_zeros _ (by decide +kernel)]; decide +kernel)
theorem test_bad_slate : checkTransport (zeros 4096 ++ ([1] ++ zeros 9 ++ [0x70] ++ zeros 5)) .any = some 0x0301 := by
  rw [checkTransport_zeros _ (by decide +kernel)]; decide +kernel

/-- What the clauses about packets ask of the collective itself, at position 0 and at the last position 1. -/
theorem wit_CollectivePacketsCarryThePasses :
    (let k : Coll := { coll 0x200 0 with openSent := true, confirmed := true }; CollPacket (opened k) (cp 1 1 []) 1 5 k 1 ∧ k.outq = [] ∧ k.finished = false) ∧
    (let k : Coll := { coll 0x200 0 with unacked := [(1, 0)] }; CollPacket (opened k) (cp 3 1 []) 3 5 k 1 ∧ k.pos = 0 ∧ k.unacked ≠ [] ∧ k.confirmed = false ∧
      k.chunkOf 0 ∉ k.run) ∧
    (let k : Coll := { coll 0x204 0 with openSent := true }; CollPacket (opened k) (cp 3 1 []) 3 5 k 1 ∧ k.unacked = []) ∧
    (let k := coll 0x200 0; CollPacket (opened k) (cp 2 1 []) 2 5 k 1 ∧ k.finished = false ∧ k.credits = []) ∧
    (let k := coll 0x201 0; CollPacket (opened k) (cp 4 1 []) 4 5 k 1 ∧ 0 ∉ k.run ∧ k.finished = false) ∧
    (let k : Coll := { coll 0x201 0 with unacked := [(1, 0)] }; CollPacket (opened k) (cp 5 1 (sumsBlock 0x5A)) 5 5 k 1) ∧
    (let k : Coll := { coll 0x200 0 with dhash := 8 }; CollPacket (opened k) (cp 6 1 []) 6 5 k 1 ∧ (cp 6 1 []).dhash ≠ k.dhash) ∧
    (let k := coll 0x200 0; CollPacket (opened k) (cp 7 1 []) 7 5 k 1 ∧ k.isReduce = false ∧ CollPacket (opened k) (cp 8 1 []) 8 5 k 1 ∧
      (cp 8 1 []).arg.toNat < 2 ^ 16) := by
  refine ⟨⟨?_, by decide⟩, ⟨?_, by decide⟩, ⟨?_, by decide⟩, ⟨?_, by decide⟩, ⟨?_, by decide⟩, ?_, ⟨?_, by decide⟩, ?_, by decide, ?_, by decide⟩ <;>
    exact coll_packet _ rfl rfl rfl rfl _ _ (by rfl)

/-- Position 1 of 2, where a packet comes from the root at rank 0: an OPEN that ends a BARRIER, DATA of a BROADCAST. -/
def tail (k : Coll) : State :=
  { (ranks 2 1) with tracked := [tr (BitVec.ofNat 12 k.opcode) k.body], links.open_ := [(5, k)] }
theorem wit_CollectivePacketsCarryThePasses_tail :
    (let k := coll 0x204 1; (tail k).collOf (cp 1 0 []) = some (5, k) ∧ k.posOf 0 + 1 = k.pos ∧ 0 < k.pos ∧ k.pos + 1 = k.g ∧ k.openSent = false ∧
      k.opened = [] ∧ packetBad (cp 1 0 []) = false ∧ ((tail k).cast 5).rankOf 0 = some 0 ∧ k.unacked = []) ∧
    (let k : Coll := { coll 0x200 1 with unacked := [(0, 0)] }; (tail k).collOf (cp 6 0 []) = some (5, k) ∧ k.pos + 1 = k.g ∧ 0 ∉ k.done ∧ k.staged = [] ∧
      k.unacked ≠ []) := by decide +kernel

/-- The timers and the commit of chunk 0, with block 0 unacknowledged or staged. -/
def committing : Coll := { coll 0x200 1 with confirmed := true, run := [0],
                                             staged := [(0, 0, sumsBlock 0x70, false, false)] }
theorem wit_CollectivePacketsCarryThePasses_timers : (let k : Coll := { coll 0x200 0 with unacked := [(1, 0)] }
     (opened k).openAt 5 = some k ∧ (1, 0) ∈ k.unacked ∧ ((opened k).cast 5).timeout ≠ 0 ∧ k.confirmed = false) ∧ (up.cast 5).timeout = 0 ∧
    committing.confirmed = true ∧ committing.chunkReady 0 = true ∧ committing.chunks = 1 ∧ 0 ∈ committing.run ∧ 0 ∉ committing.done ∧
    committing.feed = false ∧ committing.mode1 = false ∧
    ((opened committing).commitData committing (committing.staged.filter (fun x => committing.chunkOf x.2.1 == 0))).isOk = true := by decide +kernel

/-! ## Registers -/

def wr (off size : Nat) (v : Dword) : BarAccess := { port := 0, ide := false, off := off, size := size, val := v }

/-- An access of 2 bytes, one across the end, a hole; the last reel; 500 and 3,600 W and beyond; P = 256 and 257. -/
theorem wit_RegisterWritesFollowTheirTables : (wr 0 2 0).size ≠ 4 ∧ (wr 0 2 0).size ≠ 8 ∧ 0x4000000 < (wr 0x4000000 4 0).off + 4 ∧ regAt 0x3F00000 = none ∧
    (up.reel 1023).en = false ∧ (ring.reel 7).en = true ∧ (500 ≤ 3600 ∧ 3600 ≤ 3600) ∧ (3600 < 3601 ∧ 499 < 500) ∧
    ((0x01010001#32).toNat / 2 ^ 24 ≠ 0 ∧ (0x01010001#32).toNat / 2 ^ 16 % 2 ^ 8 ≠ 0 ∧ (0x01010001#32).toNat % 2 ^ 16 < 2) ∧
    (0x8000FFFF#32).toNat % 2 ^ 31 < 2 ^ 16 ∧ up.glb.idLock = false ∧ ({ up with glb := { idLock := true } } : State).glb.idLock = true ∧
    256 < (257#32).toNat % 512 ∧ (256#32).toNat % 512 ≤ 256 ∧ up.anyReel = false ∧ ring.anyReel = true ∧ up.glb.memBusy = false ∧
    up.glb.pin64.toNat ≠ (256#32).toNat % 512 ∧ up.ebtor = true ∧ (0x4000#64).toNat < 2 ^ 40 := by decide +kernel
theorem readPlan_eq (s : State) (a : Nat) : s.readPlan a = (s.read ebtorReq .any a 16).bind (fun h =>
    if outside (leAt h 4 4) 1 65536 then .error (.fail 0x0601 a)
    else (s.read ebtorReq .any a (16 + 16 * leAt h 4 4)).bind (fun b =>
      if s.planOk b (leAt h 4 4) then .ok { job := BitVec.ofNat 32 (leAt h 0 4), hold := leAt h 8 2, entries := planEntries b (leAt h 4 4) }
      else .error (.fail 0x0601 a))) := by
  delta State.readPlan; exact rfl

def planned : State := holding { up with jobs := [(0, { table := 4096 })] } [(4100, 1)] kRaw [1]

/-- A plan's block that nothing has written, and a plan of one entry. -/
theorem wit_RegisterWritesFollowTheirTables_plan : (∃ st a, up.readPlan (0x4000 / 4096 * 4096) = .error (.fail st a)) ∧
    ∃ pl, planned.readPlan 4096 = .ok pl := by
  constructor
  · have h : up.read ebtorReq .any 0x4000 16 = .error (.fail 0x0304 (4 * 4096)) :=
      read_of_fail (by decide) (readBlock_fail (blk := 4) (by decide +kernel) (by decide +kernel) rfl rfl (by decide +kernel) (by decide +kernel)
        (by rw [show up.slate 4 = slate0 4 from rfl]; exact if_pos rfl))
    exact ⟨0x0304, 4 * 4096, by rw [readPlan_eq, show 0x4000 / 4096 * 4096 = 0x4000 by decide, h]; rfl⟩
  · have h := fun n hn hf => holding_reads { up with jobs := [(0, { table := 4096 })] } [(4100, 1)] kRaw 1 (bs := [1]) (by decide) ebtorReq .any 0 n
      hn hf (up_readable .any (by decide) _ rfl)
    have e1 : outside (leAt (((tread [(4100, 1)] (1 * 4096) 4096).drop 0).take 16) 4 4) 1 65536 = false := by decide +kernel
    have e2 : leAt (((tread [(4100, 1)] (1 * 4096) 4096).drop 0).take 16) 4 4 = 1 := by decide +kernel
    have e3 : planned.planOk (((tread [(4100, 1)] (1 * 4096) 4096).drop 0).take 32) 1 = true := by decide +kernel
    have h16 : planned.read ebtorReq .any 4096 16 = _ := h 16 (by decide) (by decide)
    have h32 : planned.read ebtorReq .any 4096 (16 + 16 * 1) = _ := h 32 (by decide) (by decide)
    rw [readPlan_eq, h16, bind_ok, e1, e2, h32, if_neg (by decide), bind_ok, e3, if_pos rfl]
    exact ⟨_, rfl⟩
/-- Every hub in reset: a plan's block waits; no active control die; nothing waits for memory. -/
def hubless : State := { up with hubs := (List.range 8).map (fun h => (h, { inReset := true })) }
theorem wit_RegisterWritesFollowTheirTables_waits : hubless.readPlan 4096 = .error .wait ∧ hubless.ebtor = true ∧
    ({ up with glb := {} } : State).ebtor = false ∧ up.glb.flogWait = [] ∧ up.links.edgAsk = false ∧ up.pwr.planAsk = none ∧
    ({ wr 0 4 0 with poison := true } : BarAccess).poison = true ∧ (wr 0 4 0).poison = false ∧ (0xFF0000004000#64).toNat ≥ 2 ^ 40 := by
  refine ⟨?_, by decide +kernel, by decide +kernel, rfl, rfl, rfl, rfl, rfl, by decide⟩
  have h : hubless.readBlock ebtorReq .any 1 = .error .wait := by
    unfold State.readBlock
    simp only [show hubless.mapped (1 * 4096) = true by decide +kernel, show hubless.hubServes 1 = false by decide +kernel]
    rfl
  have r : hubless.read ebtorReq .any 4096 16 = .error .wait := read_of_fail (by decide) h
  rw [readPlan_eq, r]
  rfl

/-! ## Core instructions -/

def c15 : CoreId := ⟨15, 33⟩
/-- Core 33 of die 15 holds v, and runs a part of shot 5 of reel 7. -/
def on (v : Core) : State := { run 0x001 [] with cores := [(543, v)], dies := [(15, {})] }
/-- A core at the first of two words. -/
def at_ (w : Dword) : Core := { pstate := 2, prog := [w, 0x7000000000000000], part := some (r75, 0) }

theorem tget_one {α : Type} (f : Nat → α) (b : Nat) (v : α) : tget f [(b, v)] b = v := by simp [tget]

theorem core_at {v : Core} {w : Dword} {o : Nat} (hp : v.pstate = 2) (hc : v.pc = 0) (hw : v.prog = [w, 0x7000000000000000]) (ho : opOf w = o)
    (hf : v.refilling = false) : CoreAt (on v) c15 w o v := by
  have h : (on v).core c15 = v := tget_one (fun _ => {}) 543 v
  have hr : (on v).dieRuns c15.die.val = true := by
    rw [show (on v).dieRuns c15.die.val = (on {}).dieRuns 15 from rfl]; decide
  refine ⟨?_, h, ?_, ?_, ho⟩
  · unfold State.issues
    rw [h, hr, hp, hf]
    rfl
  · rw [hc, hw]; simp
  · rw [hc, hw]; rfl

theorem core_due {v : Core} {w : Dword} {o : Nat} (hp : v.pstate = 2) (hc : v.pc = 0) (hw : v.prog = [w, 0x7000000000000000]) (ho : opOf w = o)
    (hf : v.refilling = false) (hq : v.queue = []) : CoreDue (on v) c15 w o v := ⟨core_at hp hc hw ho hf, hq⟩

/-- A TWAIT for the one token of queue 0 that a core has issued, and one that the core at w finds before it. -/
def waiting1 : Issued := { iw := 0x5100100000000000, pc := 0, seq := 0 }
def stalled (w : Dword) : Core := { at_ w with queue := [waiting1] }
theorem core_waits (w : Dword) : CoreWaits (on (stalled w)) c15 waiting1 0x51 (stalled w) := by
  have h : (on (stalled w)).core c15 = stalled w := tget_one (fun _ => {}) 543 _
  refine ⟨(core_at (v := stalled w) (w := w) rfl rfl rfl rfl rfl).1, h, rfl, by decide, rfl, rfl⟩

/-- PSET of PR 3, 32-bit forms 0 and 2; PADD; LOOP and BR by one; PLOAD and PSTORE at the last unit, 0x5EFF; TPUT of 255 tokens; TWAIT of a delivery
queue; CCHK of entry 0, chunk 0, on queue 12. -/
theorem wit_ControlInstructionsExecute :
    (∀ w ∈ [0x7000000000000000#64, 0x7230000000000001#64, 0x7238000000000001#64, 0x7330000080000000#64, 0x7430000000000001#64, 0x7530000000000001#64,
            0x4635EFF000000000#64, 0x4735EFF000000000#64, 0x500FF00000000000#64, 0x51C0000000000000#64, 0x5200000000000000#64, 0x7100000000000000#64,
            0x53000000C0000000#64], CoreDue (on (at_ w)) c15 w (opOf w) (at_ w)) ∧
    bitsOf 0x7238000000000001 51 50 = 2 ∧ bitsOf 0x7238000000000001 49 32 = 0 ∧ bitsOf 0x7330000080000000 47 32 = 0 ∧
    bitsOf 0x7430000000000001 51 24 = 0 ∧ bitsOf 0x7430000000000001 23 0 ≠ 0 ∧ (at_ 0x7430000000000001).target 0x7430000000000001 = some 1 ∧
    (at_ 0x7430000000000002).target 0x7430000000000002 = none ∧ bitsOf 0x7530000000000001 49 24 = 0 ∧
    unitBad (bitsOf 0x4635EFF000000000 51 36) = false ∧ bitsOf 0x4635EFF000000000 32 0 = 0 ∧
    tokenBad 0x500FF00000000000 11 = false ∧ (at_ 0).count 0 + bitsOf 0x500FF00000000000 51 44 ≤ 255 := by
  refine ⟨fun w hw => core_due rfl rfl rfl rfl rfl rfl, ?_⟩
  decide +kernel
/-- A queued TWAIT whose count allows it and one whose does not; a TPUT, an engine's word, FENCE, END and an undefined word behind it. -/
theorem wit_ControlInstructionsExecute_queue :
    (∀ w ∈ [0x5000100000000000#64, 0x5200000000000000#64, 0x7100000000000000#64, 0x0400000000000000#64, 0x7000000000000000#64],
      CoreWaits (on (stalled w)) c15 waiting1 0x51 (stalled w) ∧ CoreAt (on (stalled w)) c15 w (opOf w) (stalled w)) ∧
    waiting1.started = false ∧ tokenBad waiting1.iw 15 = false ∧ bitsOf waiting1.iw 55 52 < 12 ∧ (stalled 0).count 0 < bitsOf waiting1.iw 51 44 ∧
    bitsOf waiting1.iw 51 44 ≤ ({ stalled 0 with cq := [(0, 1)] } : Core).count 0 ∧ engineOf waiting1.iw = some (bitsOf 0x5000100000000000 43 41) ∧
    tokenBad 0x5000100000000000 11 = false ∧ waiting1.iw ≠ 0x5000100000000000 ∧ opDefined (opOf 0x0400000000000000) = false ∧
    waiting1.pc < (stalled 0).prog.length ∧ (stalled 0).wdog ≠ 0 ∧ (stalled 0).part ≠ none ∧ (stalled 0).partner = none := by
  refine ⟨fun w _ => ⟨core_waits w, core_at rfl rfl rfl rfl rfl⟩, ?_⟩
  decide +kernel
/-- A chunk whose collective is no longer open is over. -/
theorem wit_ControlInstructionsExecute_over : let e : Issued := { iw := 0x53000000C0000000, pc := 0, seq := 0, started := true }
    (on { at_ 0x7000000000000000 with queue := [e] }).chunkEnds e = true ∧
    CoreAt (on { at_ 0x7000000000000000 with queue := [e] }) c15 0x7000000000000000 0x70 { at_ 0x7000000000000000 with queue := [e] } :=
  ⟨by decide, core_at rfl rfl rfl rfl rfl⟩
theorem wit_ControlInstructionsExecute_more :
    255 < ({ at_ 0 with cq := [(0, 1)] } : Core).count 0 + bitsOf 0x500FF00000000000 51 44 ∧ tokenBad 0x51C0000000000000 15 = false ∧
    12 ≤ bitsOf 0x51C0000000000000 55 52 ∧ bitsOf 0x51C0000000000000 51 44 ∉ (at_ 0).tokens 12 ∧
    bitsOf 0x51C0000000000000 51 44 ∈ ({ at_ 0 with dq := [(12, [0])] } : Core).tokens 12 ∧
    NoQueuedParts (on (at_ 0)) ∧ (on (at_ 0)).trackedOf r75 = some (tr 0x001 []) ∧ 12 ≤ bitsOf 0x53000000C0000000 31 28 ∧ bitsOf 0x53000000C0000000 27 0 = 0 ∧
    (on (at_ 0)).openAt 0 = none ∧ (coll 0x200 0).mode1 = false ∧
    (let k : Coll := { coll 0x200 0 with body := leBytes 2 5 ++ [1] ++ (coll 0x200 0).body.drop 3 }; k.mode1 = true ∧ k.chunks = 1 ∧ 0 ∉ k.run) ∧
    opDefined 0x04 = false ∧ opDefined 0x76 = false ∧ bitsOf 0x7000000000000001 55 0 ≠ 0 ∧ tokenBad 0x5000000000000000 11 = true ∧ (at_ 0).wdog ≠ 0 ∧
    tokenBad 0x5100100000000000 15 = false ∧ (at_ 0).count 0 < bitsOf 0x5100100000000000 51 44 := by unfold NoQueuedParts; decide +kernel
/-- A chunk that a CCHK runs: a BROADCAST in MODE 1 at the last position of an entry of two members. -/
def checked1 : Coll := { coll 0x200 1 with body := leBytes 2 5 ++ [1] ++ (coll 0x200 1).body.drop 3, openSent := true }
theorem wit_ControlInstructionsExecute_chunk : (match State.startChunk 5 ((tail checked1), { checked1 with cchk := [(0, 543, 12)] }) 0 with
    | .ok x => match x.1.sendOut x.2 with
      | .ok y => !y.2.finished && !y.2.feed && decide (y.1.cores = (tail checked1).cores)
      | .error _ => false
    | .error _ => false) = true := by decide +kernel

theorem holding_due {v : Core} {w : Dword} {o : Nat} (m : Tab Byte) (k : BitVec 4) (bs : List Nat) (h : CoreDue (on v) c15 w o v) :
    CoreDue (holding (on v) m k bs) c15 w o v := h

/-- The same core with PR 0 = 4,096, PR 1 = n, PR 2 = len, and descriptor slot 0: a binary32 tile in the scratchpad from unit 0, or in memory at 8,192. -/
def tileD (spc : Bool) : Tab Byte :=
  let b := 0x17C000
  (if spc then [(b + 7, 0x80)] else [(b + 1, 0x20)]) ++ [(b + 26, 0x80), (b + 27, 0x3F), (b + 28, 7), (b + 32, 128)]
def mover (w : Dword) (n len : Dword) : Core := { at_ w with pr := [(0, 4096), (1, n), (2, len)], scratch := tileD true }
def filling (spc : Bool) : Core := { at_ 0 with scratch := tileD spc, organ := [(63, some (.filling ((mover 0 0 0).slots 0 1) 1 1))] }

/-- LOAD and STORE at the last unit with and without a token, COPY of 0 and 64 bytes, DLOAD of slot 255, SCLR, OFILL of a whole tile, OEVICT of slot 63. -/
theorem wit_MovesAndTheOrganExecute :
    (∀ w ∈ [0x40015EFF00000000#64, 0x40015EFF80000000#64, 0x41015EFF00000000#64, 0x4201200000000000#64, 0x450FF00000000000#64, 0x6000000000000000#64,
            0x4300020800000000#64, 0x44FC000000000000#64], CoreDue (holding (on (mover w 64 64)) [] kRaw [1]) c15 w (opOf w) (mover w 64 64)) ∧
    (mover 0 64 64).par (bitsOf 0x40015EFF00000000 55 52) = 4096 ∧ (mover 0 64 64).par (bitsOf 0x40015EFF00000000 51 48) = 64 ∧
    unitBad (bitsOf 0x40015EFF00000000 47 32) = false ∧ tokBad (bitsOf 0x40015EFF80000000 31 31) (bitsOf 0x40015EFF80000000 30 27) = false ∧
    bitsOf 0x40015EFF80000000 31 31 = 1 ∧ bitsOf 0x40015EFF80000000 26 0 = 0 ∧ padFits (0x5EFF * 64) 64 = true ∧ up.inMemory 4096 64 = true ∧
    (mover 0 64 64).count 0 < 255 ∧ ({ mover 0 64 64 with cq := [(0, 255)] } : Core).count 0 = 255 := by
  refine ⟨fun w hw => holding_due _ _ _ (core_due rfl rfl rfl rfl rfl rfl), ?_⟩
  decide +kernel
theorem wit_MovesAndTheOrganExecute_copy : (mover 0 0 0).par (bitsOf 0x4202100000000000 51 48) = 0 ∧ (mover 0 8192 64).par (bitsOf 0x4201200000000000 51 48) = 8192 ∧
    tokBad (bitsOf 0x4201200000000000 43 43) (bitsOf 0x4201200000000000 42 39) = false ∧ bitsOf 0x4201200000000000 38 0 = 0 ∧
    up.inMemory 8192 64 = true ∧ up.mapped (2 * 4096) = true ∧ hostPort 4096 = none ∧ hostPort 8192 = none ∧ up.hubServes 2 = true ∧ up.ownerOf (2 * 4096) = 0 ∧
    up.poisoned 2 = false ∧ (up.slate 2).kind = 0 ∧ bitsOf 0x450FF00000000000 51 44 + bitsOf 0x450FF00000000000 43 36 ≤ 255 ∧
    bitsOf 0x450FF00000000000 35 0 = 0 ∧ bitsOf 0x6000000000000000 51 0 = 0 ∧ up.inMemory 4096 32 = true ∧ ({ mover 0 0 0 with pr := [(0, 1)] } : Core).par 0 = 1 := by
  decide +kernel
theorem wit_MovesAndTheOrganExecute_memory (w : Dword) : (∃ bs, (holding (on (mover w 64 64)) [] kRaw [1]).read (mover w 64 64).req .any 4096 64 = .ok bs) ∧
    (∃ u, (holding (on (mover w 64 64)) [] kRaw [1]).write (mover w 64 64).req kRaw 0 0 4096 ((mover w 64 64).pad (0x5EFF * 64) 64) = .ok u) ∧
    ∃ u, (holding (on (mover w 64 64)) [] kRaw [1]).write (mover w 64 64).req kRecord 0 0 4096 (zeros 32) = .ok u := by
  have hw := fun k ps => writeBlock_ok (s := holding (on (mover w 64 64)) [] kRaw [1]) (q := (mover w 64 64).req) (kind := k) (fmt := 0) (tid := 0) (blk := 1) (ps := ps)
    (show up.mapped (1 * 4096) = true by decide +kernel) (show up.hubServes 1 = true by decide +kernel) rfl rfl rfl (.inr (holding_ok _ [] kRaw (by decide))) rfl
  refine ⟨⟨_, holding_reads (on (mover w 64 64)) [] kRaw 1 (by decide) _ .any 0 64 (by decide) (by decide) (up_readable .any (by decide) _ rfl)⟩, ?_, ?_⟩
  · have hl : ((mover w 64 64).pad (0x5EFF * 64) 64).length = 64 := tread_length ..
    rw [write_of_block (by rw [hl]; decide) (by rw [hl]; decide)]; exact hw _ _
  · rw [write_of_block (by decide) (by decide)]; exact hw _ _

theorem wit_MovesAndTheOrganExecute_organ : (TileD.parse false ((mover 0 0 0).slots 0 1)).isSome = true ∧ extentBad 32 = false ∧ extentBad 1 = false ∧
    (match TileD.parse false ((mover 0 0 0).slots 0 1) with | some t => t.padOk 32 32 | none => false) = true ∧
    ((((filling true).slotAt 63).map Slot.isFilling).getD false) = true ∧ ((((mover 0 0 0).slotAt 63).map Slot.isFilling).getD false) = false ∧
    (match TileD.parse false ((mover 0 0 0).slots 0 1) with
     | some t => (t.image ((on (filling true)).coreReader (filling true) []) (filling true) 1 1).isOk | none => false) = true ∧
    (match TileD.parse false ((filling false).slots 0 1) with
     | some t => (match t.image ((on (filling false)).coreReader (filling false) []) (filling false) 1 1 with | .error (.fail ..) => true | _ => false)
     | none => false) = true := by decide +kernel
/-- A fill that its OFILL, the one queued instruction, waits for; a refill over the generations of memory at resume, and over others. -/
def organFill : Issued := { iw := 0x43FC020800000000, pc := 0, seq := 0, started := true }
theorem wit_MovesAndTheOrganExecute_landing : opOf organFill.iw = 0x43 ∧ bitsOf organFill.iw 55 50 = 63 ∧ organFill.started = true ∧
    ({ filling true with queue := [organFill] } : Core).queue = [organFill] ∧ (filling true).faultWait = none ∧ (filling true).queue = [] ∧
    (filling true).part ≠ none ∧ NoQueuedParts (on (filling true)) ∧
    (match TileD.parse false ((mover 0 0 0).slots 0 1) with
     | some t => (on (filling true)).tileGens t 1 1 != [(9, 9)] && (on (filling true)).tileGens t 1 1 == [] | none => false) = true := by
  unfold NoQueuedParts; decide +kernel

/-- A PROGRAM of one core, length 1, at 4,096. -/
def progBody : List Byte := leBytes 8 4096 ++ leBytes 2 1 ++ leBytes 2 0 ++ leBytes 2 1
theorem wit_MovesAndTheOrganExecute_program : let s : State := { work 0x001 progBody [] with cores := [(0, { role := 0, logical := 0 })] }
    ShotRuns s r75 0x001 (tr 0x001 progBody) ∧ leAt progBody 12 2 = 1 ∧ s.grantWaits r75 = false ∧ s.hostOf (leAt progBody 10 2) = some 0 ∧ s.idle 0 = true ∧
    (tr 0x001 progBody).mode ≠ 4 ∧ 8 * leAt progBody 8 2 = 8 ∧
    ({ s with pwr := { batches := [{ ref := r75, die := 0, watts := 0, small := false, admitted := false }] } } : State).grantWaits r75 = true := by
  unfold ShotRuns; decide +kernel

/-- Tiles of zeros, descriptor slot 0 as above, PR 0 = 1.0, organ slot 5 VALID. -/
def vec (w : Dword) : Core :=
  { at_ w with scratch := tileD true, pr := [(0, 0x3F800000)], organ := [(5, some (.valid (List.replicate 1024 0) 0 [] [] 1 1))],
               tl := [(0, List.replicate 1024 0)] }

/-- exp2 of 3 and the reciprocal of the largest number: finite, in range. -/
theorem wit_VectorInstructionsExecute_bound : (∀ x ∈ ([(.exp2, 0x40400000), (.recip, 0x7F7FFFFF)] : List (Config.Fn × Word)),
    (f32Num x.2).isFin = true ∧ ∃ v, realFn x.1 (f32Num x.2).n (f32Num x.2).d = some v ∧ (f32Num (toF32 v)).isFin = true) := by
  intro x h
  simp only [List.mem_cons, List.not_mem_nil, or_false] at h
  rcases h with rfl | rfl
  · exact ⟨by decide +kernel, _, rfl, by decide +kernel⟩
  · exact ⟨by decide +kernel, _, rfl, by decide +kernel⟩

/-- VOP 0x19, VOP 0x00 with an organ source, VCMP 6, VROW 0, 1, 3 and 4, VCVT to e4m3, VLD and VST of one element, VRAND, VMASK 2 and 3, VTOPK of 8 at
column 992, BSCL of a coarse format. -/
theorem wit_VectorInstructionsExecute :
    (∀ w ∈ [0x2064000000000000#64, 0x2000000005400000#64, 0x2118000000000000#64, 0x2200000000000000#64, 0x2204000000000000#64, 0x220C000000000000#64,
            0x2210000000000000#64, 0x2300000000000002#64, 0x2400002080000000#64, 0x2500002080000000#64, 0x2600000000000000#64, 0x2702000000000000#64,
            0x2703000000000080#64, 0x280400001F000000#64, 0x2900000000900000#64], CoreDue (on (vec w)) c15 w (opOf w) (vec w) ∧ (vec w).vxTry = 0) ∧
    (∀ w, pairedMode ((on (vec w)).coreMode (vec w)) = false) := by
  exact ⟨fun w hw => ⟨core_due rfl rfl rfl rfl rfl rfl, rfl⟩, fun w => rfl⟩
theorem wit_VectorInstructionsExecute_words : bitsOf 0x2064000000000000 55 50 = 0x19 ∧ vecWordBad 0x2064000000000000 (vopSources 0x19) true false = false ∧
    vecWordBad 0x2000000005400000 (vopSources 0) true false = false ∧ bitsOf 0x2000000005400000 23 22 = 1 ∧ bitsOf 0x2000000005400000 29 24 = 5 ∧
    bitsOf 0x2118000000000000 55 50 = 6 ∧ vecWordBad 0x2118000000000000 [1, 2] true false = false ∧ vecWordBad 0x2200000000000000 [1] false false = false ∧
    bitsOf 0x2204000000000000 55 50 = 1 ∧ vecWordBad 0x220C000000000000 [] false false = false ∧ bitsOf 0x220C000000000000 55 50 = 3 ∧
    vecWordBad 0x2210000000000000 [] true false = false ∧ bitsOf 0x2210000000000000 55 50 = 4 ∧ vecWordBad 0x2300000000000002 [1] true true = false ∧
    ((Tfd.parse (bitsOf 0x2300000000000002 15 0)).map (fun t => (t.lay, t.rnd, t.sill))) = some (.plain, false, false) := by decide +kernel
theorem wit_VectorInstructionsExecute_more : bitsOf 0x2400002080000000 42 37 = 1 ∧ bitsOf 0x2400002080000000 36 31 = 1 ∧ bitsOf 0x2400002080000000 30 0 = 0 ∧
    bitsOf 0x2702000000000000 50 48 = 2 ∧ bitsOf 0x2702000000000000 22 7 = 0 ∧ bitsOf 0x2703000000000080 50 48 = 3 ∧ bitsOf 0x2703000000000080 22 7 ≠ 0 ∧
    bitsOf 0x280400001F000000 50 47 = 8 ∧ bitsOf 0x280400001F000000 34 19 = 992 ∧ bitsOf 0x280400001F000000 44 35 = 0 ∧ flagOf 0x280400001F000000 45 = false ∧
    bitsOf 0x280400001F000000 18 0 = 0 ∧ ((vec 0).tile 0).all (fun x => !(f32Num x).isNan) = true ∧
    ((Tfd.parseDst (bitsOf 0x2900000000900000 34 19)).map (fun d => d.lay)) = some .coarse ∧ unitBad (bitsOf 0x2900000000900000 50 35) = false ∧
    bitsOf 0x2900000000900000 14 0 = 0 ∧ scaleOk (((vec 0).par 0).setWidth 32) = true := by decide +kernel
theorem wit_VectorInstructionsExecute_transfer :
    (match TileD.parse false ((vec 0).slots 0 1) with | some t => (t.image ((on (vec 0)).coreReader (vec 0) []) (vec 0) 1 1).isOk | none => false) = true ∧
    (match TileD.parse true ((vec 0).slots 0 1) with
     | some d => (((on (vec 0)).runParts (vec 0).req [] 7 5 [vstPart d (vstFmt d false) ((vec 0).tile 0) 1 1]).map (·.2)) = some [none] | none => False) := by
  refine ⟨by decide +kernel, ?_⟩
  have h : TileD.parse true ((vec 0).slots 0 1) = some ((TileD.parse true ((vec 0).slots 0 1)).getD ⟨false, 0, 0, 0, 0, ⟨.f32, .plain, false, false, false⟩, 0, 0, 0, 0, 0⟩) := by
    decide +kernel
  rw [h]
  decide +kernel
/-- A DUAL pair that disagrees, and a read of an EMPTY slot. -/
theorem wit_VectorInstructionsExecute_pair : let w := 0x2000000005400000#64
    let s : State := { on (vec w) with tracked := [{ tr 0x001 [] with mode := 2 }] }
    CoreDue s c15 w 0x20 (vec w) ∧ pairedMode (s.coreMode (vec w)) = true ∧ (vec w).slotAt 5 ≠ none ∧ (at_ w).slotAt 5 = none ∧
    NoQueuedParts s := by
  unfold NoQueuedParts CoreDue CoreAt; decide +kernel
/-- R176: a NaN compares false except as not equal and unordered. R178: 2^24 + 1 + (−2^24) is 1 in either order. -/
theorem test_compare_nan : (List.range 7).map (fun fn => f32Cmp fn 0x7FC00000 0) = [false, true, false, false, false, false, true] := by decide +kernel
theorem test_row_sum_exact : ([0x4B800000#32, 0x3F800000, 0xCB800000].foldl RowAcc.addWord {}).read = 0x3F800000 := by decide +kernel

/-- Descriptor slots 0 to 5 hold a product of one output with K = 0, slot 6 a convolution; a held set of one cell. -/
def mxSlots : Tab Byte := (prodD 0).map (fun x => (x.1 - 4096 + 0x17C000, x.2))
def mat (w : Dword) : Core := { at_ w with scratch := mxSlots }
def held (w : Dword) : Core :=
  { mat w with mx := { held := some (1, 1), ledgers := [(0, Ledger.cleared false 0)], shape := (1, 1) } }

/-- The part of a matrix word is made and commits; or its held set is made. -/
def MxRuns (v : Core) (w : Dword) : Bool :=
  match (on v).mxJob v (opOf w) w with
  | .error _ => false
  | .ok j => match j.parts ((on v).coreReader v (mxQueues w)) 1 with
    | none => false
    | some ps => ps.length == 1 &&
      (((on v).enterProduct c15 j.job.p).runParts v.req (((on v).enterProduct c15 j.job.p).core c15).taint v.whose.1 v.whose.2 ps).isSome
def MxHolds (v : Core) (w : Dword) : Bool :=
  match (on v).mxJob v (opOf w) w with
  | .error _ => false
  | .ok j =>
    match j.job.p.readMask ((on v).coreReader v (mxQueues w)), j.job.p.readBias ((on v).coreReader v (mxQueues w)) with
    | .ok m, .ok b => match j.sums ((on v).coreReader v (mxQueues w)) m b (j.tiles.headD ⟨0, 0, 0, 0⟩) with
      | .ok r => (((on v).enterProduct c15 j.job.p).runParts v.req v.taint v.whose.1 v.whose.2
          [{ merges := r.recs, counts := { r.counts with epElems := 0 },
             wloss := (r.cells.filterMap (fun c => match c.2.2 with | some (.led g) => some g | _ => none)).any (·.wloss),
             sat := (r.cells.filterMap (fun c => match c.2.2 with | some (.led g) => some g | _ => none)).any (·.sat) }]).map (·.2) == some [none]
      | .error _ => false
    | _, _ => false

/-- MMA of slot 0 with HOLD 0 and 1; LX 0 to 6. -/
theorem wit_MatrixAndLedgerSetInstructionsExecute :
    (∀ w ∈ [0x0000000000000000#64, 0x0002000000000000#64], CoreDue (on (mat w)) c15 w (opOf w) (mat w)) ∧
    (∀ w ∈ [0x0300000000000000#64, 0x0320000000000000#64, 0x0340000000000000#64, 0x0380000000000000#64, 0x03A0000000000000#64, 0x03C0000000000000#64],
      CoreDue (on (held w)) c15 w (opOf w) (held w)) ∧
    CoreDue (on (mat 0x0360000000000000)) c15 0x0360000000000000 3 (mat 0x0360000000000000) :=
  ⟨fun _ _ => core_due rfl rfl rfl rfl rfl rfl, fun _ _ => core_due rfl rfl rfl rfl rfl rfl, core_due rfl rfl rfl rfl rfl rfl⟩
theorem wit_MatrixAndLedgerSetInstructionsExecute_words : mxWordBad 0 0 = false ∧ mxWordBad 0 0x0002000000000000 = false ∧ flagOf 0x0002000000000000 49 = true ∧
    mxWordBad 0 0x10000000 = true ∧ (mat 0).mx.held = none ∧ (held 0).mx.held ≠ none ∧ (∀ i ∈ [0, 1, 2, 3, 4, 5, 6], lxWordBad i (BitVec.ofNat 64 (0x03 * 2 ^ 56 + i * 2 ^ 53)) = false) ∧
    padFits (spinOf 0) (2 * 1) = true ∧ padFits (spoutOf 0) (l96Span 1) = true ∧ padFits (spoutOf 0) (1024 * 1) = true ∧ flagOf 0x0320000000000000 48 = false := by
  decide +kernel
theorem wit_MatrixAndLedgerSetInstructionsExecute_runs : MxRuns (mat 0) 0 = true ∧ MxHolds (mat 0x0002000000000000) 0x0002000000000000 = true := by
  decide +kernel
/-- ADD of a block, and RELOAD of images, that the scratchpad holds as zeros; images of which the first is none. -/
def image (bs : List Byte) : Core := { held 0 with scratch := cellsOf 0 bs }
theorem wit_MatrixAndLedgerSetInstructionsExecute_images :
    ((List.range 1).mapM (fun r => L96Block.decode ((image []).pad (0 + l96Offset r) 400))).isSome = true ∧
    ((List.range (32 * 1)).mapM (fun i => Ledger.reload ((image []).pad (0 + 32 * i) 32))).isSome = true ∧
    ((List.range (32 * 1)).mapM (fun i => Ledger.reload ((image (List.replicate 32 0xFF)).pad (0 + 32 * i) 32))) = none ∧
    (image []).reloadRows 0 = 1 := by decide +kernel
/-- RELEASE of the one cell by the descriptor of slot 0. -/
def releases : Bool :=
  let v := held 0
  match Prod.read .mm false { acc := 0, spat := 0, stat := 0, stage := false } (fun _ => none) false (withoutOperands (v.slots 0 6)) with
  | .error _ => false
  | .ok p =>
    let t : Tile := { s0 := 0, sn := 1, c0 := 0, cn := 1 }
    let r : TileRes := { cells := [(0, 0, some (Acc.led (v.mx.ledger 0 0)))], recs := [], counts := { epElems := 1 }, wbase := v.mx.wbase }
    let j : ProdJob := { job := { p := { p with m := 1, n := 1 }, conv := none, comp := none }, scat := false, mode := 0, seq := 0 }
    match j.job.p.readBias ((on v).coreReader v []) with
    | .error _ => false
    | .ok b => match j.finish ((on v).coreReader v []) b t r with
      | .error _ => false
      | .ok x => ((on v).runParts v.req v.taint v.whose.1 v.whose.2 [(j.outcome 1 [(t, .ok x)]).headD {}]).map (·.2) == some [none]
theorem wit_MatrixAndLedgerSetInstructionsExecute_release : releases = true := by decide +kernel

/-! ## Inside a core, tests and ageing -/

/-- An ordinary core 33 of die 15 whose matrix unit is m, in a shot of a MODE. -/
def mxc (m : Mx) : Core := { mat 0 with role := 0, mx := m }
def inMode (mode : BitVec 3) (v : Core) : State := { on v with tracked := [{ tr 0x001 [] with mode := mode }] }
/-- A tile of one column of 32 e4m3 codes; a 2:4 tile whose indices ascend and one whose do not. -/
def tile1 : StatTile := { tfd := 2, codes := [List.replicate 32 0x38] }
def pairTile (a b : BitVec 2) : StatTile := { tfd := 2, codes := [[0, 0]], spat := 1, index := [[a, b]] }
def row1 : StreamRow := { row := 7, tfd := 2, codes := List.replicate 32 0x38 }

theorem wit_MatrixEventsLoadCheckAndDrain_load : (inMode 0 (mxc {})).coreRuns c15 = true ∧ (mxc {}).mx.shadow = none ∧ tileIndexBad (pairTile 0 1) = false ∧
    tileIndexBad (pairTile 1 1) = true ∧ (mxc {}).part ≠ none ∧ NoQueuedParts (inMode 0 (mxc {})) ∧ (mxc {}).mx.mism = 0 ∧ (mxc {}).votes = 0 ∧
    (let m : Mx := { mism := 1, readGens := [(3, 5)] }
     0 < m.mism ∧ (inMode 2 (mxc m)).tileStale m { tile1 with gens := [(3, 6)] } = true ∧ (inMode 2 (mxc m)).tileStale m tile1 = false) := by
  unfold NoQueuedParts; decide +kernel
/-- A first output tile of one cell and one stationary tile, drained by the product of slot 0. -/
def first1 : TileStart := { desc := (mat 0).slots 0 6 }
def opens1 : Bool :=
  match drainProduct first1.acc first1.stat first1.desc ((inMode 0 (mxc {})).coreEval (mxc {})) with
  | .error _ => false
  | .ok p => p.bias ≠ 1 && (p.readBias ((inMode 0 (mxc {})).coreReader (mxc {}) [])).isOk
theorem wit_MatrixEventsLoadCheckAndDrain_swap : (mxc { shadow := some tile1, due := [7] }).mx.due ≠ [] ∧ (inMode 0 (mxc {})).waitsGrant c15.key = false ∧
    ({ inMode 0 (mxc {}) with pwr := { batches := [{ ref := r75, die := 15, watts := 0, small := false, admitted := false }] } } : State).waitsGrant c15.key = true ∧
    (mxc { shadow := some tile1, back := true }).mx.back = true ∧ (mxc {}).fenceNext = none ∧ ({ rows := [7] } : SwapIn).first = none ∧
    0 < ({ shadow := some tile1, busy := true, left := 1, cur := true, checked := true } : Mx).left ∧ opens1 = true ∧
    (let m : Mx := { shadow := some tile1 }; m.due = [] ∧ m.back = false ∧ m.left = 0 ∧ m.held = none ∧ m.blocksDue ≤ m.blocksAdded ∧ m.busy = false) ∧
    (let m : Mx := { shadow := some tile1, busy := true, shadowSet := some {} }; m.shadowSet ≠ none ∧ m.left = 0) := by decide +kernel
theorem wit_MatrixEventsLoadCheckAndDrain_rows : let m : Mx := { active := some tile1, due := [7], busy := true }
    row1.row % 4 = 3 ∧ row1.row ∈ m.due ∧ m.takesRow row1.row = true ∧ (rowContribs m tile1 row1).isSome = true ∧ m.checked = false ∧ m.acc ≠ 1 ∧
    m.left = 0 ∧ m.back = false ∧ m.blocksDue ≤ m.blocksAdded ∧ m.shadowSet = none ∧ (∀ y ∈ m.due, y = row1.row) ∧
    (∃ y ∈ ({ m with due := [3, 7] } : Mx).due, y ≠ row1.row) ∧
    ({ m with acc := 1, due := [3, 200] } : Mx).takesRow 200 = false ∧ 200 % 4 = 0 ∧ ({ m with checked := true } : Mx).checked = true := by decide +kernel
theorem wit_MatrixEventsLoadCheckAndDrain_checks : (inMode 2 (mxc {})).coreMode (mxc {}) ≠ 0 ∧ ({ back := true } : Mx).awaits = true ∧
    ({ cur := true, checked := true } : Mx).awaits = true ∧ (∀ o, ({ back := true } : Mx).shadowSet = some o → o.check = false) ∧
    (inMode 4 (mxc {})).coreMode (mxc {}) = 4 ∧ pairedMode 0 = false ∧
    ({ mxc {} with partner := some ⟨15, 32⟩ } : Core).partner = some ⟨15, 32⟩ ∧ (⟨15, 32⟩ : CoreId) ≠ c15 ∧ (mxc {}).vxTry = 0 := by
  refine ⟨by decide +kernel, by decide, by decide, fun o h => by (cases h), by decide +kernel, by decide, rfl, by decide, rfl⟩
theorem wit_MatrixEventsLoadCheckAndDrain_sums : (L96Block.decode (bytesAt [] 0 400)).isSome = true ∧ (L96Block.decode (bytesAt (List.replicate 400 0xFF) 0 400)) = none ∧
    0 < ({ busy := true, left := 1 } : Mx).left ∧
    (let m : Mx := { busy := true, blocksDue := 1 }
     m.held = none ∧ m.shadowSet = none ∧ m.left = 0 ∧ m.due = [] ∧ m.blocksAdded < m.blocksDue) := by decide +kernel
/-- A set of one cell that is finished drains and commits. -/
def ready1 : DrainSet := { ledgers := [(0, Ledger.cleared false 0)], desc := (mat 0).slots 0 6, rows := 1, cols := 1, ready := [0] }
def drains : Bool :=
  let v := mxc { shadowSet := some ready1 }
  let s := on v
  let t := ready1.tile 0
  match drainProduct ready1.acc ready1.stat ready1.desc (s.coreEval v) with
  | .error _ => false
  | .ok p =>
    match p.readBias (s.coreReader v []) with
    | .error _ => false
    | .ok b => match (drainJob p).finish (s.coreReader v []) b t (ready1.result 0) with
      | .error _ => false
      | .ok x =>
        let ws := [(t, (.ok x : Tried))]
        decide (tileShares p ready1.stat t x.terms (fun i n => (cellAt ready1.stat ws i n).2) = []) &&
        (s.runParts v.req v.taint v.whose.1 v.whose.2 [((drainJob p).outcome 1 ws).headD {}]).map (·.2) == some [none]
theorem wit_MatrixEventsLoadCheckAndDrain_drain : drains = true ∧ ready1.check = false ∧ ready1.ready = 0 :: [] ∧ ready1.todo = [] ∧
    (mxc { shadowSet := some ready1 }).mx.shares = [] := by decide +kernel
/-- A share for a neighbour that drains the same product, or has it in its cells. -/
theorem wit_MatrixEventsLoadCheckAndDrain_share : let d : CoreId := ⟨15, 32⟩
    ∀ w ∈ [({ shadowSet := some ready1 } : Mx), { desc := (mat 0).slots 0 6 }],
      let s : State := { on (mxc { shares := [(3, [])] }) with cores := [(543, mxc { shares := [(3, [])] }), (542, mxc w)] }
      s.coreRuns d = true ∧ d ≠ c15 ∧ (∃ x ∈ (s.core c15).mx.shares, x.1 = 3) ∧
      (match (s.core d).mx.shadowSet with
        | some o => drainProduct o.acc o.stat o.desc (s.coreEval (s.core d))
        | none => drainProduct (s.core d).mx.acc (s.core d).mx.stat (s.core d).mx.desc (s.coreEval (s.core d))).isOk = true := by decide +kernel

/-- A device that has booted, with every block from n on as nothing has written it. -/
structure Clean (s : State) (n : Nat) : Prop where
  sec : s.sec = up.sec
  boot : s.boot = up.boot
  glb : s.glb = up.glb
  pwr : s.pwr = {}
  ckpt : s.ckpt = none
  hubs : ∀ h, (s.hub h).poison = [] ∧ (s.hub h).lost = [] ∧ (s.hub h).unlisted = [] ∧ (s.hub h).inReset = false
  fresh : ∀ e ∈ s.hbm.slates, e.1 < n

theorem Clean.mono {s : State} {n m : Nat} (c : Clean s n) (h : n ≤ m) : Clean s m :=
  { c with fresh := fun e he => Nat.lt_of_lt_of_le (c.fresh e he) h }

theorem tget_unlisted {α : Type} (f : Nat → α) (b : Nat) : ∀ t : Tab α, (∀ e ∈ t, e.1 < b) → tget f t b = f b
  | [], _ => rfl
  | e :: t, h => by
    have h1 : (e.1 == b) = false := by have := h e (by simp); simp; omega
    have := tget_unlisted f b t (fun x hx => h x (by simp [hx]))
    simp only [tget, List.find?_cons, h1] at this ⊢
    exact this

/-- Bytes go into a block that has never been written. -/
theorem fresh_write {s : State} {n : Nat} (hmap : s.mapped (n * 4096) = true) (hserve : s.hubServes n = true) (hpo : s.poisoned n = false)
    (hun : s.unlisted n = false) (hown : s.ownerOf (n * 4096) = 0) (hsl : s.slate n = slate0 n) (hck : s.ckpt = none) (k f : BitVec 4) (bs : List Byte)
    (h0 : 0 < bs.length) (hl : bs.length ≤ 4096) : ∃ d sl, s.write ebtorReq k f 0 (n * 4096) bs = .ok (s.place n d sl) := by
  have hsh : s.shadow n = .ok s := by unfold State.shadow; rw [hck]
  have hk : (slate0 n).kind = kUnwritten := rfl
  have hup : s.unpoison n = s := by unfold State.unpoison; rw [hpo, hun]; rfl
  have h : ∃ d sl, s.write ebtorReq k f 0 (n * 4096) bs = .ok ((s.unpoison n).place n d sl) := by
    rw [write_of_block h0 (by omega), Nat.mul_div_cancel _ (by decide), Nat.mul_mod_left]
    unfold State.writeBlock
    simp only [hmap, hserve, hpo, hun, hsh, hown, hsl, hk, Bool.not_true, Bool.false_eq_true, Bool.false_and, if_false, ne_eq, not_true_eq_false,
      List.any_nil, bne_self_eq_false, Bool.and_false, ebtorReq]
    exact ⟨_, _, rfl⟩
  rwa [hup] at h

theorem Clean.write {s : State} {n : Nat} (c : Clean s n) (hn : n < 0x2000010) (k f : BitVec 4) (bs : List Byte) (h0 : 0 < bs.length)
    (hl : bs.length ≤ 4096) : ∃ t, s.write ebtorReq k f 0 (n * 4096) bs = .ok t ∧ Clean t (n + 1) := by
  have hmap : s.mapped (n * 4096) = true := by
    have : s.pins = 0 := by unfold State.pins; rw [c.glb]; rfl
    unfold State.mapped State.hashedEnd
    rw [this]
    have : n * 4096 < (97920 - 0) * 0x400000 := by omega
    simp [this]
  have hh := c.hubs (hubOf n)
  have hserve : s.hubServes n = true := by
    unfold State.hubServes State.tenant State.clocks
    rw [c.boot, c.sec, c.pwr, c.glb, hh.2.2.2]; decide
  have hpo : s.poisoned n = false := by unfold State.poisoned; simp [hh]
  have hun : s.unlisted n = false := by unfold State.unlisted; simp [hh]
  have hown : s.ownerOf (n * 4096) = 0 := by unfold State.ownerOf State.region; rw [c.sec]; rfl
  have hsl : s.slate n = slate0 n := tget_unlisted _ _ _ c.fresh
  obtain ⟨d, sl, h⟩ := fresh_write hmap hserve hpo hun hown hsl c.ckpt k f bs h0 hl
  refine ⟨_, h, ?_⟩
  refine ⟨c.sec, c.boot, c.glb, c.pwr, c.ckpt, ?_, ?_⟩
  · intro h
    by_cases e : h = hubOf n
    · subst e
      have : ∀ d sl, (s.place n d sl).hub (hubOf n) = (s.hub (hubOf n)).touch n true := fun d sl => tget_tset_same ..
      rw [this]; exact hh
    · have : ∀ d sl, (s.place n d sl).hub h = s.hub h := fun d sl => tget_tset_ne _ _ _ e
      rw [this]; exact c.hubs h
  · intro e he
    simp only [State.place, State.modHub, cset, List.mem_append, List.mem_filter] at he
    rcases he with he | he | he
    · exact Nat.lt_succ_of_lt (c.fresh e he.1)
    · have : ∀ (a b : Slate), e ∈ (if a = b then [] else [(n, a)] : List (Nat × Slate)) → e.1 = n := by
        intro a b h
        split at h
        · cases h
        · rw [List.mem_singleton.1 h]
      rw [this _ _ he]; exact Nat.lt_succ_self n
    · exact Nat.lt_succ_of_lt (c.fresh e he.1)

theorem writeParts_skip (a : Nat) (p : List Byte × BitVec 4 × BitVec 4) (ps) (s : State) (h : p.1 = []) :
    State.writeParts a (p :: ps) s = State.writeParts (a + 0) ps s := by
  rw [State.writeParts, h]; rfl

theorem Clean.parts {B : Nat} (hB : B ≤ 0x2000010) : ∀ (ps : List (List Byte × BitVec 4 × BitVec 4)) (s : State) (n : Nat), Clean s n → n + ps.length < B →
    (∀ p ∈ ps, p.1.length ≤ 4096) → ∃ t, State.writeParts (n * 4096) ps s = .ok t
  | [], s, _, _, _, _ => ⟨s, rfl⟩
  | p :: ps, s, n, c, hn, hp => by
    simp only [List.length_cons] at hn
    by_cases he : p.1 = []
    · obtain ⟨t, ht⟩ := Clean.parts hB ps s n c (by omega) (fun q hq => hp q (by simp [hq]))
      refine ⟨t, ?_⟩
      rw [writeParts_skip _ _ _ _ he, Nat.add_zero]
      exact ht
    · have h0 : 0 < p.1.length := by cases h : p.1 with | nil => exact absurd h he | cons => simp
      have hl := hp p (by simp)
      obtain ⟨u, hu, cu⟩ := c.write (by omega) p.2.1 p.2.2 p.1 h0 hl
      obtain ⟨t, ht⟩ := Clean.parts hB ps u (n + 1) cu (by omega) (fun q hq => hp q (by simp [hq]))
      refine ⟨t, ?_⟩
      have hc : n * 4096 + ceilDiv p.1.length 4096 * 4096 = (n + 1) * 4096 := by unfold ceilDiv; omega
      have hi : p.1.isEmpty = false := by simp [he]
      simp only [State.writeParts, hi, hu, hc, Bool.false_eq_true, if_false]
      exact ht

theorem putContext_ok {s : State} (c : Clean s 0) (n : Nat) (v : Core) (h : v.contextParts.length = 10 ∧ ∀ p ∈ v.contextParts, p.1.length ≤ 4096) :
    ∃ y, s.putContext n v = .ok y := by
  obtain ⟨t, ht⟩ := Clean.parts (B := 0x2000010) (Nat.le_refl _) v.contextParts s (Config.placeBlock 3 n % 0x2000000) (c.mono (Nat.zero_le _))
    (by rw [h.1]; have := Nat.mod_lt (Config.placeBlock 3 n) (show 0 < 0x2000000 by decide); omega) h.2
  unfold State.putContext
  simp only [ht]
  exact ⟨_, rfl⟩

/-- One core of a die at v. -/
def lone (v : Core) : State := { on v with tracked := [] }
theorem wit_CutsTestsAndAgeing : (lone { at_ 0 with pstate := 2 }).clocks = true ∧ (lone {}).ebtor = true ∧ NoQueuedParts (lone {}) ∧
    (at_ 0).faultWait = none ∧ ({ at_ 0 with faultWait := some 0x0710 } : Core).faultWait ≠ none ∧
    (lone { at_ 0 with pstate := 3 }).canCut c15.key = true ∧ (lone { at_ 0 with pstate := 3, mx := { due := [7] } }).canCut c15.key = false ∧
    ((lone { at_ 0 with pstate := 3, cut := some 1 }).core c15).cut = some 1 ∧ ((lone { at_ 0 with pstate := 3, cut := some 0 }).core c15).cut ≠ some 2 ∧
    (lone { role := 0 }).idle c15.key = true ∧ (lone { role := 0 }).glb.dailyEn = true ∧ (lone { at_ 0 with role := 0 }).idle c15.key = false ∧
    ({ lone {} with cores := [(543, { at_ 0 with role := 0, due := true }), (542, { role := 1 })] } : State).freeStandIn 15 = some 542 ∧ 542 ≠ c15.key ∧
    (lone { at_ 0 with role := 0 }).freeStandIn 15 = none ∧ ({ lone {} with glb := { dailyEn := false } } : State).glb.dailyEn = false ∧
    ((lone { role := 3 }).core c15).home = 0x3FF ∧ ((lone { role := 3, home := 5 }).physical 5) = none ∧ ((lone {}).core c15).role ≠ 4 := by
  unfold NoQueuedParts; decide +kernel
/-- A cut program whose context goes to memory. -/
theorem wit_CutsTestsAndAgeing_save : let v : Core := { at_ 0 with pstate := 3, cut := some 0 }
    let s := lone v
    let u := s.modCore c15 (fun x => { x with pgCuts := satInc x.pgCuts, pstate := 4, mx := { x.mx with state := 6 } })
    ∃ y, u.putContext s.contexts.length (u.core c15) = .ok y := by
  intro v s u
  have c : Clean u 0 := ⟨rfl, rfl, rfl, rfl, rfl, fun _ => ⟨rfl, rfl, rfl, rfl⟩, fun e h => by (cases h)⟩
  have h : (u.core c15).contextParts.length = 10 ∧ ∀ p ∈ (u.core c15).contextParts, p.1.length ≤ 4096 := by decide +kernel
  exact putContext_ok c s.contexts.length (u.core c15) h
/-- A faulty core with nothing to save. -/
theorem wit_CutsTestsAndAgeing_fault : ((lone {}).core c15).part = none ∧ ((lone {}).core c15).role ≠ 4 := by decide
/-- A context of which the header alone is in memory. -/
def saved1 : Context := { base := 4096, sizes := [64], live := [], rest := at_ 0 }
theorem readParts_one {s : State} {a n : Nat} {b : List Byte} (h : s.read ebtorReq .any a n = .ok b) : s.readParts a [n] 0 = .ok [b] := by
  simp only [State.readParts, show ((0 : Nat) = 7) = False by decide, if_false, h]
  rfl
theorem ofParts_saved1 (b : List Byte) : ∃ v, Core.ofParts saved1 [b] = some v ∧ v.mx.shadowSet = none := ⟨_, rfl, rfl⟩
theorem wit_CutsTestsAndAgeing_load : let s := holding { lone { role := 0 } with contexts := [(4, some saved1)] } [] kRaw [1]
    tget (fun _ => none) s.contexts 4 = some saved1 ∧ (∃ img, s.getContext saved1 = .ok img ∧ img.mx.shadowSet = none) := by
  refine ⟨rfl, ?_⟩
  have h := holding_reads { lone { role := 0 } with contexts := [(4, some saved1)] } [] kRaw 1 (bs := [1]) (by decide) ebtorReq .any 0 64 (by decide)
    (by decide) (by unfold Readable; decide +kernel)
  have hp : (holding { lone { role := 0 } with contexts := [(4, some saved1)] } [] kRaw [1]).readParts saved1.base saved1.sizes 0 =
      .ok [((tread [] (1 * 4096) 4096).drop 0).take 64] := readParts_one (a := 1 * 4096 + 0) h
  obtain ⟨v, hv, hw⟩ := ofParts_saved1 (((tread [] (1 * 4096) 4096).drop 0).take 64)
  refine ⟨v, ?_, hw⟩
  unfold State.getContext
  rw [hp]
  simp only [bind, Except.bind, hv]
  rfl
/-- A TWAIT of queue 0 as a cursor record; a flagged row accumulator. -/
theorem wit_CutsTestsAndAgeing_records : (0 : Nat) < 2 ^ 16 ∧ waiting1.pos < 2 ^ 64 ∧ (19 : Nat) < 2 ^ 32 ∧ waiting1.prv.map (·.1) = regsOf waiting1.iw := by
  decide
/-- The last step above the floor of 40; SLACK 20 and 19. -/
theorem wit_CutsTestsAndAgeing_die : let s : State := { up with dies := [(15, { clk := 41, fmax := 41 })] }
    40 < (s.die 15).clk ∧ 40 < (s.die 15).fmax.toNat ∧ (s.die 15).tripped = false ∧ (20 : Int) ≤ 20 ∧ (19 : Int) < 20 := by decide

/-! ## Security -/

def sess (o : Option (BitVec 384)) : Session := { id := 3, port := 1, finished := true, chain := o, root := o, keyGen := 0 }
def inSess (x : Session) : State := { up with sec := { lifecycle := 0, tenants := [(0, { opened := true }), (2, { opened := true, owner := 9 })], sessions := [x] } }
/-- Before and in production; with entropy and without; 31 and 32 sessions; inside the window and outside. -/
theorem wit_SpdmRequestsAreAnswered : (inSess (sess none)).ebtor = true ∧ (inSess (sess none)).boot.fwuActivating = false ∧
    (inSess (sess none)).sec.lifecycle ≠ 2 ∧ (inSess (sess none)).entropyOk = true ∧ ({ inSess (sess none) with cds := [] } : State).entropyOk = false ∧
    ({ up with sec := { lifecycle := 2 } } : State).sec.lifecycle = 2 ∧ 31 < 32 ∧ (List.replicate 31 (sess none)).length < 32 ∧
    32 ≤ (List.replicate 32 (sess none)).length ∧ (7 : Fin 8) ≠ 0 ∧ (inSess (sess none)).session 3 = some (sess none) ∧
    (inSess { sess none with finished := false }).session 3 = some { sess none with finished := false } ∧
    ({ up with boot := { fwuActivating := true } } : State).boot.fwuActivating = true ∧ leAt [4] 0 1 ≠ 5 ∧
    leAt [5, 0x13, 0x84] 0 1 = 5 ∧ leAt [5, 0x13, 0x84] 2 1 = 0x84 ∧ leAt [5, 0x13, 0x81] 2 1 = 0x81 := by decide +kernel
theorem wit_SpdmRequestsAreAnswered_chain : 0 < Config.certChain.length ∧ (inSess (sess none)).measurements ≠ [] :=
  ⟨Nat.succ_pos _, List.cons_ne_nil _ _⟩
/-- A pool that holds the bits of a nonce and a key share, and one that does not. -/
theorem wit_SpdmRequestsAreAnswered_pool : (up.cd up.activeCd).waiting = [] ∧ 512 ≤ (up.cd up.activeCd).pool.toNat ∧
    (let s : State := { up with cds := [(0, { ok := true, entState := 1, pool := 255 })] }; s.entropyOk = true ∧ ¬ 256 ≤ (s.cd s.activeCd).pool.toNat) ∧
    (let s : State := { up with cds := [(0, { ok := true, entState := 1, pool := 511 })] }; s.entropyOk = true ∧ ¬ 512 ≤ (s.cd s.activeCd).pool.toNat) := by
  decide +kernel

/-- Block 0 of device memory holds l, whose last 64 bytes are a body command of mailbox 2; block 1, where the answer goes, has never been
written. -/
def hostTab (a : Nat) (l : List Byte) : Tab Byte := (List.range l.length).map (fun i => (a + i, l.getD i 0))
def commanded : State :=
  { up with sec := { up.sec with svn := 0, wkeys := [(0, { key := 0, bound := true, session := 0, bundle := 0, bundleLen := 0 })] },
            mbox := [(2, { full := true, data := 0x8000000000000FC0 })] }
def command (l : List Byte) : State := holding commanded (hostTab 0 l) kRaw [0]
theorem tread_part (t : Tab Byte) : ∀ (off a n len : Nat), off + len ≤ n → ((tread t a n).drop off).take len = tread t (a + off) len
  | 0, a, n, 0, _ => by simp [tread]
  | 0, a, n + 1, len + 1, h => by
    have := tread_part t 0 (a + 1) n len (by omega)
    simpa [tread] using this
  | 0, _, 0, _ + 1, h => absurd h (by omega)
  | _ + 1, _, 0, _, h => absurd h (by omega)
  | off + 1, a, n + 1, len, h => by
    have := tread_part t off (a + 1) n len (by omega)
    simp only [tread, List.drop_succ_cons, this, Nat.add_assoc, Nat.add_comm 1]
theorem command_reads (l : List Byte) (off len : Nat) (hl : 0 < len) (hf : off + len ≤ 4096) :
    (command l).bodyRead off len = .ok (tread (hostTab 0 l) off len) := by
  have h := holding_reads commanded (hostTab 0 l) kRaw 0 (bs := [0]) (by decide) ebtorReq .any off len hl hf (by unfold Readable; decide +kernel)
  rw [tread_part _ _ _ _ _ hf, Nat.zero_mul, Nat.zero_add] at h
  exact h
theorem hostTab_get (l : List Byte) (i : Nat) (h : i < l.length) : tget zeroByte (hostTab 0 l) i = l.getD i 0 := by
  have k := tget_map zeroByte (fun j => l.getD j 0) i (List.range l.length) (List.mem_range.2 h)
  simpa [hostTab] using k
theorem hostTab_read (p l r : List Byte) : tread (hostTab 0 (p ++ (l ++ r))) p.length l.length = l := by
  induction l generalizing p with
  | nil => rfl
  | cons b l ih =>
    have h := ih (p ++ [b])
    have g := hostTab_get (p ++ (b :: l ++ r)) p.length (by simp)
    simp only [List.append_assoc, List.cons_append, List.nil_append, List.length_append, List.length_cons, List.length_nil, Nat.zero_add] at h
    simp only [List.length_cons, tread, List.cons_append] at g ⊢
    rw [g, h]
    simp
theorem hostTab_part {h p l r : List Byte} {a n : Nat} (e : h = p ++ (l ++ r)) (hp : p.length = a) (hl : l.length = n) : tread (hostTab 0 h) a n = l := by
  subst e hp hl
  exact hostTab_read p l r
/-- The bytes of a command: CMD, TAG 7 and operands. -/
def cmd (c : Byte) (rest : List Byte) : List Byte := [c, 0, 0, 0, 7, 0, 0, 0] ++ (rest ++ zeros (56 - rest.length))
theorem zeros_length (n : Nat) : (zeros n).length = n := List.length_replicate
def body (c : List Byte) : List Byte := zeros 4032 ++ (c ++ [])
theorem body_reads {c : List Byte} (h : c.length = 64) : (command (body c)).bodyRead 0xFC0 64 = .ok c := by
  rw [command_reads _ _ _ (by decide) (by decide), hostTab_part (h := body c) (p := zeros 4032) (l := c) (r := []) (a := 0xFC0) rfl (zeros_length _) h]
theorem wit_SecuredCommandsKeysAndEntropy_command : let s := command (body (cmd 1 []))
    (s.mb 2).full = true ∧ (s.mb 2).data.getLsbD 63 = true ∧ (s.mb 2).data.toNat % 2 ^ 40 = (0xFC0#40).toNat ∧
    (s.mb 2).data.toNat / 2 ^ 40 % 2 ^ 16 = s.glb.devId.toNat ∧ s.boot.fwuActivating = false ∧ s.ebtor = true ∧
    leAt (cmd 1 []) 4 4 = (7#32).toNat ∧ leAt (cmd 1 []) 2 2 = 0 ∧ leAt (cmd 1 []) 0 2 = 1 := by decide +kernel
theorem wit_SecuredCommandsKeysAndEntropy_command_body : (command (body (cmd 1 []))).bodyRead 0xFC0 64 = .ok (cmd 1 []) ∧
    ∃ z, ((command (body (cmd 1 []))).emptyMailbox 2).bodyWrite (0xFC0 + 64) (leBytes 4 ((command (body (cmd 1 []))).emptyMailbox 2).secState) = .ok z := by
  refine ⟨body_reads (by decide +kernel), ?_⟩
  obtain ⟨d, sl, h⟩ := fresh_write (s := (command (body (cmd 1 []))).emptyMailbox 2) (n := 1) (by decide +kernel) (by decide +kernel) (by decide +kernel)
    (by decide +kernel) rfl rfl rfl kRaw 0 (leBytes 4 ((command (body (cmd 1 []))).emptyMailbox 2).secState) (by decide +kernel) (by decide +kernel)
  exact ⟨_, h⟩
theorem wit_SecuredCommandsKeysAndEntropy_drop : let s := command (body (cmd 3 [0]))
    s.bodyRead 0xFC0 64 = .ok (cmd 3 [0]) ∧ leAt (cmd 3 [0]) 4 4 = (7#32).toNat ∧ leAt (cmd 3 [0]) 2 2 = 0 ∧ leAt (cmd 3 [0]) 0 2 = 3 ∧
    leAt (cmd 3 [31]) 8 4 < 32 ∧ (s.wkey (leAt (cmd 3 [0]) 8 4)).any (·.bound) = true :=
  ⟨body_reads (by decide +kernel), by decide +kernel⟩
/-- A bundle of one entry, for this device, with the tag that belongs to it. -/
def sixteen (l : List Byte) : List Byte := (List.range 16).map (fun i => l.getD i 0)
theorem sixteen_eq {l : List Byte} (h : l.length = 16) : sixteen l = l := by
  apply List.ext_getElem (by simp [sixteen, h])
  intro i h1 h2
  simp [sixteen, List.getD_eq_getElem?_getD, h2]
def bundleHead : List Byte := [1, 0, 1, 0] ++ zeros 28
def fp : List Byte := sixteen (bytesAt Config.devfp 0 16)
def bundle : List Byte := bundleHead ++ (fp ++ (zeros 176 ++ (sixteen (bytesAt (Config.bundleTag bundleHead fp (zeros 97) (zeros 12) (zeros 64)) 0 16) ++ zeros 16)))
theorem command_svn (l : List Byte) : (command l).sec.svn.toNat = 0 := rfl
theorem fresh_mapped (l : List Byte) (k : WKey) : (((command l).emptyMailbox 2).install 1 k).mapped (1 * 4096) = true :=
  show commanded.mapped (1 * 4096) = true by decide +kernel
theorem fresh_serves (l : List Byte) (k : WKey) : (((command l).emptyMailbox 2).install 1 k).hubServes 1 = true :=
  show commanded.hubServes 1 = true by decide +kernel
/-- The command: the bundle of 256 bytes at address 0. -/
def loadCmd : List Byte := cmd 2 [0, 0, 0, 0, 0, 0, 0, 0, 0, 1, 0, 0]
def bundled : State := command ([] ++ (bundle ++ (zeros 3776 ++ (loadCmd ++ []))))
theorem bundled_svn : bundled.sec.svn.toNat = 0 := by delta bundled; exact command_svn _
theorem bundle_length : bundle.length = 256 := by decide +kernel
theorem bundled_read : bundled.bodyRead 0 256 = .ok bundle := by
  have h := command_reads ([] ++ (bundle ++ (zeros 3776 ++ (loadCmd ++ [])))) 0 256 (by decide) (by decide)
  rw [hostTab_part (p := []) (l := bundle) (a := 0) rfl rfl bundle_length] at h
  exact h
theorem bundled_command : bundled.bodyRead 0xFC0 64 = .ok loadCmd := by
  have h := command_reads ([] ++ (bundle ++ (zeros 3776 ++ (loadCmd ++ [])))) 0xFC0 64 (by decide) (by decide)
  rw [hostTab_part (p := bundle ++ zeros 3776) (l := loadCmd) (r := []) (a := 0xFC0) (by simp)
    (by rw [List.length_append, bundle_length, zeros_length]) (by decide +kernel)] at h
  exact h
theorem bundle_tag : (bytesAt bundle 224 16 == bytesAt (Config.bundleTag bundleHead fp (zeros 97) (zeros 12) (zeros 64)) 0 16) = true := by
  rw [show bytesAt bundle 224 16 = sixteen (bytesAt (Config.bundleTag bundleHead fp (zeros 97) (zeros 12) (zeros 64)) 0 16) from rfl,
    sixteen_eq (bytesAt_length ..)]
  exact beq_self_eq_true _
theorem bundle_fp : (bytesAt bundle 32 16 == bytesAt Config.devfp 0 16) = true := by
  rw [show bytesAt bundle 32 16 = sixteen (bytesAt Config.devfp 0 16) from rfl, sixteen_eq (bytesAt_length ..)]
  exact beq_self_eq_true _
theorem bundle_fields : leAt bundle 0 2 = 1 ∧ leAt bundle 2 2 = 1 ∧ leAt bundle 4 1 = 0 ∧ rz bundle 5 27 = false ∧ rz bundle 145 3 = false ∧
    rz bundle 240 16 = false ∧ bytesAt bundle 0 32 = bundleHead ∧ bytesAt bundle 48 97 = zeros 97 ∧
    bytesAt bundle 148 12 = zeros 12 ∧ bytesAt bundle 160 64 = zeros 64 := by decide +kernel
theorem opens_of {a : Nat} {b h f c n d : List Byte} (h0 : leAt b 0 2 = 1)
    (h2 : leAt b 2 2 = 1) (h4 : leAt b 4 1 = 0) (h5 : rz b 5 27 = false) (h6 : rz b 145 3 = false) (h7 : rz b 240 16 = false)
    (f0 : bytesAt b 0 32 = h) (f1 : bytesAt b 32 16 = f) (f2 : bytesAt b 48 97 = c) (f3 : bytesAt b 148 12 = n) (f4 : bytesAt b 160 64 = d)
    (hf : (f == bytesAt Config.devfp 0 16) = true) (ht : (bytesAt b 224 16 == bytesAt (Config.bundleTag h f c n d) 0 16) = true) :
    openBundle 0 b a 256 = .ok (Config.bundleKey h f c n d) := by
  have r1 : List.range 1 = [0] := rfl
  unfold openBundle
  simp [h0, h2, h4, h5, h6, h7, f0, f1, f2, f3, f4, r1, ht, hf, pure, Except.pure]
theorem openBundleAt_eq (s : State) (a l : Nat) : s.openBundleAt a l = (s.bodyRead a l).bind (fun bs => openBundle s.sec.svn.toNat bs a l) := by
  delta State.openBundleAt; exact rfl
theorem bundle_opens {s : State} {a : Nat} (hb : s.bodyRead a 256 = .ok bundle) (hs : s.sec.svn.toNat = 0) :
    s.openBundleAt a 256 = .ok (Config.bundleKey bundleHead fp (zeros 97) (zeros 12) (zeros 64)) := by
  obtain ⟨h0, h2, h4, h5, h6, h7, f0, f2, f3, f4⟩ := bundle_fields
  have f1 : bytesAt bundle 32 16 = fp := rfl
  have hf := bundle_fp
  rw [f1] at hf
  rw [openBundleAt_eq, hb, hs]
  exact opens_of h0 h2 h4 h5 h6 h7 f0 f1 f2 f3 f4 hf bundle_tag
theorem wit_SecuredCommandsKeysAndEntropy_bundle :
    bundled.openBundleAt 0 256 = .ok (Config.bundleKey bundleHead fp (zeros 97) (zeros 12) (zeros 64)) := bundle_opens bundled_read bundled_svn
theorem wit_SecuredCommandsKeysAndEntropy_load : leAt loadCmd 0 2 = 2 ∧ leAt loadCmd 8 8 = 0 ∧ leAt loadCmd 16 4 = 256 ∧
    (bundled.mb 2).full = true ∧ (List.range 32).find? (fun i => (bundled.wkey i).isNone) = some 1 := by decide +kernel
theorem wit_SecuredCommandsKeysAndEntropy_place : bundled.bodyRead 0xFC0 64 = .ok loadCmd ∧
    ∀ k, ∃ z, ((bundled.emptyMailbox 2).install 1 k).bodyWrite (0xFC0 + 64) (leBytes 4 1) = .ok z := by
  refine ⟨bundled_command, fun k => ?_⟩
  obtain ⟨d, sl, h⟩ := fresh_write (s := (bundled.emptyMailbox 2).install 1 k) (n := 1) (fresh_mapped _ k) (fresh_serves _ k) rfl
    rfl rfl rfl rfl kRaw 0 (leBytes 4 1) (by decide +kernel) (by decide +kernel)
  exact ⟨_, h⟩
/-- An owner of tenant 2, who is the operator too; a stranger; a free entry and region, one that conflicts, one at its base. -/
def mine : State := inSess (sess (some 9))
def want (o : BitVec 6) (base : Nat) : RegionReq := { base := base, len := 0x200000, kind := 0, owner := o, slot := 0, tweak := 0 }
def claimed : State := { mine with sec := { mine.sec with opRoot := some 9, regions := [(5, { base := 0, len := 0x200000, kind := 0, owner := 2, slot := 0, tweak := 0 })] } }
theorem wit_SecuredCommandsKeysAndEntropy_tenants : mine.session 3 = some (sess (some 9)) ∧ (sess (some 9)).finished = true ∧ mine.boot.fwuActivating = false ∧
    mine.ebtor = true ∧ (63#6 ≠ 0) ∧ (3#8).toNat < 4 ∧ (sess none).chain = none ∧ (sess (some 9)).chain = some 9 ∧ (mine.tenant (2#6).toNat).opened = true ∧
    (mine.tenant (63#6).toNat).opened = false ∧ mine.owns (sess (some 9)) 2 = true ∧ mine.owns (sess (some 8)) 2 = false := by decide +kernel
theorem wit_SecuredCommandsKeysAndEntropy_regions : (want 2 0).kind ≠ 3 ∧ ¬ ((want 2 0).kind = 0 ∧ (want 2 0).owner = 0) ∧ claimed.owns (sess (some 9)) (want 2 0).owner = true ∧
    claimed.owns (sess (some 8)) (want 2 0).owner = false ∧ (∀ r ∈ claimed.sec.regions, r.1 ≠ (255#8).toNat) ∧ claimed.regionFits (want 2 0) = false ∧
    claimed.regionFits (want 2 0x200000) = true ∧ claimed.tenantBusy 2 = false ∧ claimed.sec.releasing = [] ∧
    (∀ y ∈ claimed.sec.regions, y.1 ≠ (255#8).toNat) ∧ claimed.session 3 = some (sess (some 9)) := by decide +kernel
theorem wit_SecuredCommandsKeysAndEntropy_release : ∃ r, claimed.sec.regions.find? (fun y => y.1 == (5#8).toNat) = some ((5#8).toNat, r) ∧
    claimed.owns (sess (some 9)) r.owner = true ∧ claimed.owns (sess (some 8)) r.owner = false ∧ ∀ y ∈ claimed.sec.regions, y.1 = (5#8).toNat → y.2 = r :=
  ⟨{ base := 0, len := 0x200000, kind := 0, owner := 2, slot := 0, tweak := 0 }, by decide +kernel⟩
theorem wit_SecuredCommandsKeysAndEntropy_reels : ({ mine with reels := [(1023, { en := true })] } : State).reel (1023 : Fin 1024).val ≠ mine.reel 1023 ∧
    (({ mine with reels := [(1023, { en := true })] } : State).reel 1023).en = true ∧ (mine.reel 1023).en = false ∧ mine.owns (sess (some 9)) 2 = true ∧
    mine.owns (sess (some 9)) (mine.reel 1023).tenant = true ∧ mine.owns (sess (some 8)) 2 = false := by decide +kernel
def keyed (b : Bool) : State := { mine with sec := { mine.sec with wkeys := [(31, { key := 0, bound := b, session := 3, bundle := 0, bundleLen := 0 })] } }
theorem wit_SecuredCommandsKeysAndEntropy_keys : mine.wkey 31 = none ∧ mine.hubDown = false ∧ (keyed false).wkey 31 ≠ none ∧
    ((keyed false).wkey 31).any (fun w => w.bound = false) = true ∧ 1 ≤ [1#8].length ∧ (List.replicate 32 1#8).length ≤ 32 ∧ (sess none).root = none ∧
    (sess (some 9)).root ≠ none ∧ (sess (some 9)).root = claimed.sec.opRoot ∧ mine.sec.opRoot = none ∧ claimed.sec.opRoot ≠ none ∧
    (sess (some 8)).root ≠ claimed.sec.opRoot ∧ (15#4).getLsbD 3 = true ∧ (7#4).getLsbD 3 = false ∧ (sess none).port < 2 ∧ (sess none).finished = true := by decide +kernel
theorem wit_SecuredCommandsKeysAndEntropy_entropy : (4, (0 : BitVec 256)) ∈ (({ up with pcie := [(1, { ideSecure := [(4, 0)] })] } : State).pf 1).ideSecure ∧
    ({ up with cds := [] } : State).entropyOk = false ∧ up.entropyOk = true ∧ (up.cd up.activeCd).waiting = [] ∧ 512 ≤ (up.cd up.activeCd).pool.toNat ∧
    (up.cd 1).entState = 0 ∧ (up.cd 1).entState ≠ 2 ∧ (up.cd 0).entState = 1 ∧ (up.cd 0).pool.toNat ≤ 512 ∧
    ({ mine with boot := { fwuActivating := true } } : State).boot.fwuActivating = true := by decide +kernel
theorem wit_SecuredCommandsKeysAndEntropy_failed : (({ up with cds := [(1, { entState := 2 })] } : State).cd (1 : Fin 2).val).entState = 2 := by decide

/-! ## Power -/

/-- Batches that wait on dies 0 and 15: the one fits, the other does not. -/
def pw (p : Power) : State := { up with pwr := p }
def bt (die watts : Nat) (a : Bool) : Batch := { die := die, ref := r75, watts := watts, small := false, admitted := a }
theorem wit_GrantsRampsAndThrottle : NoQueuedParts (pw {}) ∧ (pw {}).ebtor = true ∧ (pw {}).clocks = true ∧ (pw {}).pwr.thermTrip = false ∧
    (∀ b ∈ (pw { batches := [bt 0 9000 false] }).waitingBatches, (pw { batches := [bt 0 9000 false] }).grantFits b = false) ∧
    (pw { batches := [bt 0 9000 false, bt 15 1 false] }).waitingBatches.find? (pw { batches := [bt 0 9000 false, bt 15 1 false] }).grantFits = some (bt 15 1 false) ∧
    (pw { batches := [bt 15 1 true] }).pwr.batches.any (fun b => (b.die == 15 && b.ref == r75) && b.admitted) = true ∧
    (pw { batches := [bt 15 1 false] }).pwr.batches.any (fun b => (b.die == 15 && b.ref == r75) && b.admitted) = false ∧
    (pw { throttle := true }).pwr.throttle = true ∧ (pw {}).pwr.throttle = false ∧ (pw {}).granted ≤ (pw {}).pwr.thr.toNat ∧
    (pw { throttle := true }).pwr.plantFault = false := by
  unfold NoQueuedParts; decide +kernel

def dies (d : Die) : State := { up with dies := [(15, d)] }
theorem wit_CoolantExcursionsAndTrips : NoQueuedParts up ∧ 0 ≤ (0x1440#16).toInt ∧ 0 ≤ (0x7FFF#16).toInt ∧ ¬ (0 ≤ (0x8000#16).toInt) ∧
    (pw {}).pwr.valveAuto = true ∧ (pw {}).pwr.plantFault = false ∧ (pw {}).pwr.thermTrip = false ∧ (pw { valveAuto := false }).pwr.valveAuto = false ∧
    (pw { plantFault := true }).pwr.plantFault = true ∧ (pw { thermTrip := true }).pwr.thermTrip = true ∧ 41 ≤ ((dies { clk := 41, fmax := 44 }).die 15).clk ∧
    44 ≤ ((dies { clk := 44, fmax := 44 }).die 15).clk ∧ (2, 15) ∈ (pw { excur := [(2, 15)] }).pwr.excur ∧ (2, 15) ∉ (pw {}).pwr.excur ∧
    up.links.open_ = [] ∧ (run 0x001 []).tracked ≠ [] ∧ (pw { thermTrip := true, tripReleased := true }).pwr.tripReleased = true ∧
    (pw { thermTrip := true }).pwr.tripReleased = false ∧ (8, 15) ∉ (pw {}).pwr.excur := by
  unfold NoQueuedParts; decide +kernel
/-- A part of a shot on core 33 of die 15, which the rail fault of that die ends. -/
def onDie : State := { run 0x001 [] with tracked := [{ tr 0x001 [] with running := [(543, 0)] }], dies := [(15, { clk := 41, fmax := 44 })] }
theorem wit_CoolantExcursionsAndTrips_rail : (∃ x ∈ onDie.tracked, ∃ q ∈ x.running, q.1 / 34 = 15) ∧ (0x8000#16).getLsbD 15 = true ∧
    (0x7FFF#16).getLsbD 15 = false ∧ (onDie.die 15).stopped = false ∧ NoQueuedParts onDie := by
  unfold NoQueuedParts; decide +kernel

/-! ## Boot, update, ledger -/

def bs (b : Boot) : State := { up with boot := b }
/-- Images: CONFIRMED, NEW and unsound. -/
def img : ImageHeader := { svn := 3 }
def stg (n : Byte) : Boot := { stage := n, stepping := 0xB0, minSvn := 3, bankA := some img }
theorem wit_BootAndResets_stages : (stg 0).done = false ∧ (stg 0).failed = false ∧ (bs (stg 0)).pwr.catTrip = false ∧ (7#4 ≠ 0 ∧ 7#4 ≠ 5 ∧ (7#4).toNat < 8) ∧
    ({ stg 1 with bankA := none } : Boot).bankA = none ∧ (stg 1).bankB = none ∧ img.valid = true ∧ img.sound = true ∧ img.state = 2 ∧
    (stg 1).minSvn.toNat ≤ img.svn.toNat ∧ ({ img with svn := 2 } : ImageHeader).svn.toNat < (stg 1).minSvn.toNat ∧
    ({ img with seq := 2, sigOk := false } : ImageHeader).sound = false ∧ ({ img with seq := 2, sigOk := false } : ImageHeader).state.toNat ≤ 3 ∧
    ({ img with state := 0 } : ImageHeader).sound = true ∧ ({ img with state := 0 } : ImageHeader).seq.toNat < ({ img with seq := 2 } : ImageHeader).seq.toNat := by
  decide +kernel
theorem wit_BootAndResets_later : ((bs (stg 3)).cd (bs (stg 3)).activeCd).entState = 1 ∧
    (({ bs (stg 3) with cds := [(0, { entState := 2 })] } : State).cd (bs (stg 3)).activeCd).entState = 2 ∧
    (({ bs (stg 3) with cds := [] } : State).cd (bs (stg 3)).activeCd).entState = 0 ∧ (stg 3).running = some img ∧
    (({ bs (stg 4) with pcie := [(0, { perst := true })] } : State).pf 0).perst = true ∧ ((bs (stg 4)).pf 0).perst = false ∧ (stg 6).warm = false ∧
    (stg 6).fences = [] ∧ (0x8000#16).getLsbD 15 = true ∧ (0x8000#16) ≠ 0 ∧ (0x7FFF#16).getLsbD c15.die.val = false ∧ c15.die.val ∉ (stg 6).dieOut ∧
    (bs (stg 8)).ebtor = true ∧ up.boot.done = true ∧ ({ stg 1 with failed := true } : Boot).failed = true := by decide +kernel
/-- A pool with and without the bits of tenant 0's key; tenant 0 not open at stage 0x05; a board record. -/
theorem wit_BootAndResets_keys : ((bs (stg 3)).cd (bs (stg 3)).activeCd).waiting = [] ∧ 512 ≤ ((bs (stg 3)).cd (bs (stg 3)).activeCd).pool.toNat ∧
    (let s : State := { bs (stg 3) with cds := [(0, { entState := 1, pool := 511 })] }
     (s.cd s.activeCd).entState = 1 ∧ ¬ 512 ≤ (s.cd s.activeCd).pool.toNat) ∧
    (let s : State := { bs (stg 5) with sec := {}, cds := [(0, { entState := 1, pool := 512 })] }
     s.boot.stage = 5 ∧ (s.tenant 0).opened = false ∧ (s.cd s.activeCd).entState = 1 ∧ 512 ≤ (s.cd s.activeCd).pool.toNat) ∧
    (let s : State := { bs (stg 5) with sec := {}, cds := [] }; (s.tenant 0).opened = false ∧ (s.cd s.activeCd).entState = 0) ∧
    ((bs (stg 5)).tenant 0).opened = true ∧ ((stg 4).running.map (fun h => { h with board := some (7, 9) })).bind (·.board) = some (7, 9) ∧
    up.pwr.planAsk = none := by decide +kernel
theorem wit_BootAndResets_resets : up.ebtor = true ∧ ({ stg 9 with fwuActivating := true } : Boot).fwuActivating = true ∧ up.boot.fwuActivating = false ∧
    ({ glb := { idLock := true } } : State).glb.idLock = true ∧ (({ reels := [(7, { en := true, owner := 1 })] } : State).reel 7).owner.toNat = (1 : Fin 2).val ∧
    (up.reel 7).owner.toNat ≠ (1 : Fin 2).val ∧ (({ pcie := [(1, { perst := true })] } : State).pf (1 : Fin 2).val).perst = true ∧
    ({ rstBusy := true } : Boot).rstBusy = true ∧ up.boot.rstBusy = false := by decide +kernel
/-- Words of GLB_RST_CTRL: KEY 0xC5, die 15, hub 7, core 33 of die 15. -/
theorem wit_BootAndResets_words : (∀ v ∈ [0x00C50000, 0x000003C0, 0x000001C0, 0x000087C0], bit v 27 = false ∧ fld v 24 3 = 0 ∧ fld v 1 5 = 0) ∧
    fld 0x00C50000 16 8 = 0xC5 ∧ fld 0x000003C0 16 8 = 0 ∧ fld 0x000003C0 6 4 = 15 ∧ fld 0x000001C0 6 4 = (7 : Fin 8).val ∧ fld 0x000087C0 6 4 = 15 ∧
    fld 0x000087C0 10 6 = 33 ∧ NoQueuedParts up := by unfold NoQueuedParts; decide +kernel
theorem wit_BootAndResets_reach : ((on { at_ 0 with role := 4 }).core c15).role = 4 ∧ ((on { at_ 0 with role := 0 }).core c15).role = 0 ∧
    up.isCueCore c15.key = false ∧ 3 ∈ (({ dies := [(15, { clk := 41, fmax := 41, touched := [3] })] } : State).die 15).touched ∧
    (keyed false).wkey 31 ≠ none ∧ ((keyed false).wkey 31).any (fun k => !k.bound) = true ∧
    (({ hubs := [(0, { vault := [{ blk := 0, dirty := true }] })] } : State).hub 0).lost.length +
      (({ hubs := [(0, { vault := [{ blk := 0, dirty := true }] })] } : State).hub 0).vault.length ≤ 16384 ∧ hubOf 0 = (0 : Fin 8).val := by decide +kernel
theorem wit_BootAndResets_ends : (∀ i ∈ [2, 3, 4], ({ rstWhat := some (BitVec.ofNat 4 i, 7, 0) } : Boot).rstWhat ≠ none) ∧ up.boot.rstWhat = none ∧
    ({ rstWhat := some (3, 7, 0) } : Boot).rstWhat = some (3, 7, 0) ∧ ({ rstWhat := some (2, 15, 0) } : Boot).rstWhat = some (2, (15 : Fin 16).val, 0) ∧
    15 ∉ ({ rstWhat := some (2, 15, 0) } : Boot).dieOut ∧ ({ rstWhat := some (4, 15, 33) } : Boot).rstWhat = some (4, c15.die.val, c15.core.val) ∧ up.clocks = true ∧
    ((on { at_ 0 with role := 5 }).core c15).role = 5 ∧ ((on { at_ 0 with role := 4 }).core c15).role = 4 ∧ c15 ∈ [c15] ∧ c15 ∉ ([] : List CoreId) := by decide +kernel

def info (sig : Bool) (svn : Byte) : ImageInfo :=
  { headerOk := true, sigOk := sig, digestsOk := true, version := 2, svn := svn, raise := true, digests := [0, 0, 0, 0] }
/-- The running image in TRIAL; the other one CONFIRMED, with the same loader and with another. -/
def trial : Boot := { stg 0xFF with bankA := some { img with state := 1, raise := true, svn := 4 }, bankB := some img, fwuPending := true }
theorem wit_FirmwareUpdateTakeoverAndJtag_ops : ({ trial with fwuBusy := true } : Boot).fwuBusy = true ∧ (bs trial).boot.fwuBusy = false ∧ (bs trial).ebtor = true ∧
    trial.quiescing = false ∧ trial.fwuActivating = false ∧ ((info false 3).headerOk && (info false 3).sigOk && (info false 3).digestsOk) = false ∧
    ((info true 2).headerOk && (info true 2).sigOk && (info true 2).digestsOk) = true ∧ (info true 2).svn.toNat < trial.minSvn.toNat ∧
    trial.minSvn.toNat ≤ (info true 3).svn.toNat ∧ (stg 0xFF).running.any (fun h => h.state = 1) = false ∧
    trial.running = some { img with state := 1, raise := true, svn := 4 } ∧ trial.minSvn.toNat < (4#8).toNat ∧ (stg 0xFF).other = none ∧
    trial.other = some img ∧ img.valid = true ∧ img.state = 2 ∧ (stg 0xFF).fwuPending = false ∧ trial.fwuPending = true ∧ img.digests.getD 0 0 = 0 := by decide +kernel
theorem wit_FirmwareUpdateTakeoverAndJtag_window : ({ img with digests := [1, 0, 0, 0] } : ImageHeader).digests.getD 0 0 ≠ img.digests.getD 0 0 ∧
    ({ trial with quiescing := true } : Boot).quiescing = true ∧ ({ trial with fwuActivating := true } : Boot).warmPending = false ∧ trial.switched = false ∧
    ({ trial with switched := true } : Boot).switched = true ∧ (up.cd (1 - up.activeCd)).ok = true ∧
    (({ up with cds := [] } : State).cd (1 - up.activeCd)).ok = false ∧ ({ stg 1 with stepping := 0xA1 } : Boot).stepping = 0xA1 ∧ (stg 1).stepping = 0xB0 ∧
    ({ up with sec := { lifecycle := 1 } } : State).sec.lifecycle = 1 := by decide +kernel

/-- 3 · 2^-20 and −1 · 2^-18, and −0, into a ledger at 2^-30: neither order loses anything. -/
theorem wit_LedgerAdditionIsExactInOneOrderAsInAnother : let g := Ledger.cleared false (-30)
    let xs := [Contrib.fin 3 (-20), .negZero, .fin (-1) (-18)]
    g.wloss = false ∧ g.sat = false ∧ g.nan = false ∧ (xs.foldl Ledger.add g).wloss = false ∧ (xs.foldl Ledger.add g).sat = false ∧
    (xs.foldl Ledger.add g).nan = false ∧ (-30 : Int) ≤ g.wbase ∧ (∀ n f, Contrib.fin n f ∈ xs → (-30 : Int) ≤ f) ∧
    ([Contrib.fin (-1) (-18), .fin 3 (-20), .negZero] : List Contrib).Perm xs ∧
    ([Contrib.fin (-1) (-18), .fin 3 (-20), .negZero].foldl Ledger.add g).sat = false := by
  refine ⟨by decide, by decide, by decide, by decide +kernel, by decide +kernel, by decide +kernel, by decide, ?_, by decide, by decide +kernel⟩
  intro n f h
  simp at h
  omega

/-! ## Ill-formed commands -/

def acc (size : Nat) (v : Dword) : BarAccess := { port := 0, ide := false, off := 0, size := size, val := v }
def pkt (n : Nat) : Packet :=
  { ptype := 0, pflags := 0, dst := 0, src := 0, groupid := 0, cser := 0, dhash := 0, chunk := 0, blk := 0, arg := 0, payload := List.replicate n 0 }
def badTile : StatTile := { tfd := 2, codes := [[0, 0], [0]] }
def badRow : StreamRow := { row1 with absent := [32] }

theorem test_wf_access : Instr.wellFormed (.doorbell (acc 0 0)) = false ∧ Instr.wellFormed (.registerWrite (acc 4 0x100000000)) = false ∧
    Instr.wellFormed (.mailboxWrite (.controlDie 0) 0 0 0) = false ∧ Instr.wellFormed (.dieCueXWrite 0 0 0 0 0) = false ∧
    Instr.wellFormed (.dieCueXWrite 0 255 2 0 0) = false := by decide
theorem test_wf_matrix : Instr.wellFormed (.shadowLoadComplete c15 badTile) = false ∧
    Instr.wellFormed (.shadowLoadComplete c15 { tfd := 2, codes := List.replicate 33 [] }) = false ∧
    Instr.wellFormed (.rowLatch c15 3 badRow) = false ∧ Instr.wellFormed (.rowLatch c15 2 row1) = false ∧
    Instr.wellFormed (.arrivingSumAdd c15 384 (zeros 400) true) = false ∧ Instr.wellFormed (.arrivingSumAdd c15 0 (zeros 399) true) = false ∧
    Instr.wellFormed (.sillageMerge 0 (zeros 31)) = false ∧ Instr.wellFormed (.routingRecordMerge 0 (zeros 33)) = false := by decide +kernel
theorem test_wf_links : Instr.wellFormed (.flitReceive 0 (zeros 192) 0 true) = false ∧ Instr.wellFormed (.linkLaggard 0 2 1) = false ∧
    Instr.wellFormed (.linkLaggardClear 0 2 1) = false ∧ Instr.wellFormed (.roceSend 0 0 0x1000000 (pkt 0)) = false ∧
    Instr.wellFormed (.arp 0 (zeros 6) (zeros 4) (zeros 3)) = false ∧ Instr.wellFormed (.arp 0 (zeros 6) (zeros 5) (zeros 4)) = false ∧
    Instr.wellFormed (.arp 0 (zeros 5) (zeros 4) (zeros 4)) = false ∧ Instr.wellFormed (.neighbourDiscovery 0 (zeros 5) (zeros 16) (zeros 16)) = false ∧
    Instr.wellFormed (.neighbourDiscovery 0 (zeros 6) (zeros 15) (zeros 16)) = false ∧
    Instr.wellFormed (.neighbourDiscovery 0 (zeros 6) (zeros 16) (zeros 4)) = false := by decide +kernel
theorem pkt_wf (n : Nat) : (pkt n).wf = decide (n ≤ 4192) := by
  have h : (32 + n ≤ 22 * 192) = (n ≤ 4192) := propext (by omega)
  simp only [Packet.wf, pkt, List.length_replicate, h]
theorem test_wf_packets : (∀ i ∈ [Instr.packetForward 0 (pkt 4193), .openPkt (pkt 4193), .openAck (pkt 4193), .confirm (pkt 4193), .exp (pkt 4193),
      .sum (pkt 4193), .data (pkt 4193), .back (pkt 4193), .abort (pkt 4193), .mailbox (pkt 4193), .doorbellPacket false (pkt 4193), .reject (pkt 4193),
      .mgmt (pkt 4193), .roceSend 0 0 0 (pkt 4193)], i.wellFormed = false) ∧ Instr.wellFormed (.data (pkt 4192)) = true := by
  have h := pkt_wf 4193
  have k := pkt_wf 4192
  generalize pkt 4193 = x at h
  generalize pkt 4192 = y at k
  simp [Instr.wellFormed, h, k]
theorem test_wf_security : Instr.wellFormed (.challenge 0 (zeros 31)) = false ∧ Instr.wellFormed (.getMeasurements 0 1 (zeros 33)) = false ∧
    Instr.wellFormed (.getMeasurements 0 256 (zeros 32)) = false ∧ Instr.wellFormed (.keyExchange 0 (zeros 95)) = false ∧
    Instr.wellFormed (.cakInstall 0 0 (zeros 33) 0) = false ∧ Instr.wellFormed (.fwuStage { info true 0 with digests := [] }) = false ∧
    Instr.wellFormed (.bootStage 0 true true 0 (List.replicate 545 c15)) = false ∧ Instr.wellFormed (.resetComplete (List.replicate 545 c15)) = false ∧
    Instr.wellFormed (.excursionClear 0 17) = false ∧ Instr.wellFormed (.poolRefill 0 513) = false := by decide +kernel

/-! ## Worked examples of the spec -/

/-- Chapters 0, 1 and 8: GLB_PART_ID 0x4E4B_B000, GLB_CD_STATUS 0x0001_000E, RNG_STATUS 0x0100_1801. -/
theorem test_register_reads : (bs (stg 1)).regVal .partId = 0x4E4BB000 ∧
    ({ up with glb := { active := 2, takeovers := 1 }, cds := [(0, { ok := true }), (1, { ok := true })] } : State).regVal .cdStatus = 0x0001000E ∧
    ({ up with glb := { active := 1, lkat := true }, cds := [(0, { pool := 512, entState := 1, fails := 1 })] } : State).regVal .rngStatus = 0x01001801 := by
  decide +kernel
/-- Chapter 2: UE6M2 0x81 is 2.5 = 5 × 2^-1; the fit and OCP scales of A = 13 and of A = 0.875 with S = 0.0625. -/
theorem test_scales : scaleParts .fine 0x81 = some (5, -1) ∧ chooseScale .e2m1 .coarse false 13 1 1 1 = 0x81 ∧
    chooseScale .e2m1 .coarse true 13 1 1 1 = 0x80 ∧ chooseScale .e2m1 .fine false 7 8 1 16 = 0x81 := by decide +kernel
/-- Chapter 2: the scaled values 3.25, −0.625, 0.1875, −0.0625, 2.25, 1.25; 1.8 with draws 0x8000 and 0xA000. -/
theorem test_e2m1_rounding : ([Num.fin 13 4, .fin (-5) 8, .fin 3 16, .fin (-1) 16, .fin 9 4, .fin 5 4].map (EFmt.e2m1.conv true .rne)) =
    [0x5, 0x9, 0x0, 0x8, 0x4, 0x2] ∧ EFmt.e2m1.conv true (.sto 0x8000) (.fin 9 5) = 0x4 ∧ EFmt.e2m1.conv true (.sto 0xA000) (.fin 9 5) = 0x3 := by decide +kernel
/-- Chapter 3: +2^26, 2^-2 and −2^26 in a ledger with WBASE −135 leave L = 2^133, in either order. -/
theorem test_ledger_sum : (([Contrib.fin 1 26, .fin 1 (-2), .fin (-1) 26].foldl Ledger.add (Ledger.cleared false (-135))).l = 2 ^ 133) ∧
    (([Contrib.fin (-1) 26, .fin 1 26, .fin 1 (-2)].foldl Ledger.add (Ledger.cleared false (-135))).readout (.fin 1 1) (.fin 1 1)).eq (.fin 1 4) = true := by decide +kernel
/-- Chapter 3: 5.75, −1.25 and 2^-9 on three devices give BEXP −89 and 0x4090_1000; 2^-130 is lost with WLOSS. -/
theorem test_ledger96 : let g (n e : Int) := (Ledger.cleared false (-135)).add (.fin n e)
    maxP (maxP (g 23 (-2)).p (g (-5) (-2)).p) (g 1 (-9)).p = some 2 ∧ bexpOf (some 2) 3 = -89 ∧
    ((((g 23 (-2)).toL96 (-89)).1.combine ((g (-5) (-2)).toL96 (-89)).1).combine ((g 1 (-9)).toL96 (-89)).1) = .fin (2305 * 2 ^ 80) ∧
    toF32 ((L96.fin (2305 * 2 ^ 80)).num (-89)) = 0x40901000 ∧ (g 1 (-130)).toL96 (-89) = (.fin 0, true) := by decide +kernel
/-- Chapter 5: the eight tokens of the example of R143, expert by expert: C = 3, DROP 0. -/
theorem test_drop_lowest : let d : RouteD := { RouteD.parse [] with c := 3, drop := 0 }
    ((d.keep [(2, 0), (5, 0)]).1.map (·.1)) = [2, 5] ∧ ((d.keep [(0, 0), (1, 0), (2, 0), (3, 0), (5, 0), (7, 0)]).1.map (·.1)) = [0, 1, 2] ∧
    ((d.keep [(0, 0), (3, 0), (4, 0), (6, 0), (7, 0)]).1.map (·.1)) = [0, 3, 4] ∧ ((d.keep [(1, 0), (4, 0), (6, 0)]).1.map (·.1)) = [1, 4, 6] := by decide +kernel
/-- Chapter 7: HIST 4 and SHIFT 19: the scale 2^-16, and the block scale UE6M2 0xBC of the largest element 5.5. -/
theorem test_master_scale : (f32Num 0x37800000).eq (.fin 1 65536) = true ∧ chooseScale .e2m1 .fine false 11 2 1 65536 = 0xBC := by decide +kernel
/-- Chapter 9: the word of the MMA example decodes as it is written; with bit 28 it is bad. -/
theorem test_mma_word : mxWordBad 0 0x00141000200D0008 = false ∧ mxWordBad 0 0x00141000300D0008 = true ∧ opOf 0x00141000200D0008 = 0 ∧
    flagOf 0x00141000200D0008 29 = true := by decide
/-- Chapter 11: the block of 0x12_3456_7000 has pc 0x1A4 and hub 4, the next pc 0x1AB and hub 3. -/
theorem test_placement : pcOfBlock 0x1234567 = 0x1A4 ∧ hubOf 0x1234567 = 4 ∧ stackOf 0x1A4 = 8 ∧ chanOf 0x1A4 = 26 ∧ pseudoOf 0x1A4 = 0 ∧
    indexOf 0 0x1234567 = 18641 ∧ pcOf 0x1234568 = 0x1AB ∧ hubOf 0x1234568 = 3 := by decide
/-- Chapter 15: block 0x04_1C20_3000 of a region from 0x04_1C00_0000 with TWEAK_BASE 0x100 has tweak 0x303. -/
theorem test_tweak : sealedTweak { base := 0x041C000000, len := 0x400000, kind := 1, owner := 0, slot := 0, tweak := 0x100 } 0x041C203000 = 0x303 := by decide
/-- Chapter 18: the bytes 0x40 0x14 read TIN 40 and the flow 300 reads 30; IDCODE of A1. -/
theorem test_plant_and_idcode : (match exec (.plantSensorRead (some 0x1440) none (some 300) 0) up with
    | .next t => t.pwr.tin = 40 ∧ t.pwr.flow = 30 | _ => False) ∧ (bs { stg 0 with stepping := 0xA1 }).idcode = 0x14E4BB47 := by
  refine ⟨?_, by decide +kernel⟩
  show (plantSensorRead (some 0x1440) none (some 300) 0 up).pwr.tin = 40 ∧ (plantSensorRead (some 0x1440) none (some 300) 0 up).pwr.flow = 30
  decide +kernel
/-- Table 6-9: 2^3, 2^(1/2), ln 2, tanh 1/2 and GELU(2) = 1.9544997 in binary32, and what lies within the bound of each. -/
theorem test_bounded_functions :
    (realFn .exp2 3 1).map toF32 = some 0x41000000 ∧ (realFn .exp2 1 2).map toF32 = some 0x3FB504F3 ∧
    (realFn .log 2 1).map toF32 = some 0x3F317218 ∧ (realFn .tanh 1 2).map toF32 = some 0x3EEC9A9F ∧
    (realFn .geluErf 2 1).map (withinUlps 2 · 0x3FFA2D0C) = some true ∧ (realFn .geluErf 2 1).map (withinUlps 2 · 0x3FFA2D10) = some false ∧
    (realFn .recip (-3) 1).map (fun v => (withinUlps 1 v 0xBEAAAAAB, withinUlps 1 v 0xBEAAAAAA, withinUlps 1 v 0xBEAAAAAC)) =
      some (true, true, false) := by
  refine ⟨?_, ?_, ?_, ?_, ?_, ?_, ?_⟩ <;> decide +kernel
/-- R177: what a free word picks lies within the bound. -/
theorem test_near_ulps : ∀ free : Fin 11, withinUlps 2 (.fin 1 3) (nearUlps 2 (.fin 1 3) (BitVec.ofNat 32 free.val)) = true := by decide +kernel
end Sys2Proof.Tests
end

section
/-!
The merges of R71 and R144: the fields of a merged record, what a record read and a partial write of one block do, and the hub's merge
as one update of its 32 bytes under a new slate of their block.
-/

namespace Sys2Proof

/-! ## Fields of a record -/

theorem bytesAt_of_length {l : List Byte} {n : Nat} (h : l.length = n) : bytesAt l 0 n = l := h ▸ bytesAt_self l

theorem leNat_lt (l : List Byte) : leNat l < 256 ^ l.length := by
  induction l with
  | nil => simp [leNat]
  | cons b l ih =>
    have hb : b.toNat < 256 := b.isLt
    rw [leNat, List.length_cons, Nat.pow_succ]
    omega

theorem leAt_lt (l : List Byte) (a n : Nat) : leAt l a n < 256 ^ n := by
  simpa [leAt] using leNat_lt (bytesAt l a n)

/-- A field that lies behind the first field of a record. -/
theorem leAt_leBytes_skip {a k : Nat} (n v : Nat) (r : List Byte) (h : k ≤ a) : leAt (leBytes k v ++ r) a n = leAt r (a - k) n := by
  have := leAt_append_right (leBytes k v) r (a - k) n
  rwa [leBytes_length, Nat.add_sub_cancel' h] at this

section SillBytes

variable (amax : Word) (flags elems clips nans infs : Nat)

@[simp] theorem sillBytes_length : (sillBytes amax flags elems clips nans infs).length = 32 := by simp [sillBytes, zeros]

theorem leAt_sillBytes_amax : leAt (sillBytes amax flags elems clips nans infs) 0 4 = amax.toNat := by
  simp only [sillBytes, List.append_assoc, leAt_leBytes]
  exact Nat.mod_eq_of_lt amax.isLt

theorem leAt_sillBytes_flags : leAt (sillBytes amax flags elems clips nans infs) 4 4 = flags % 2 ^ 32 := by
  simp [sillBytes, leAt_leBytes_skip, leAt_leBytes]

theorem leAt_sillBytes_elems : leAt (sillBytes amax flags elems clips nans infs) 8 8 = elems % 2 ^ 64 := by
  simp [sillBytes, leAt_leBytes_skip, leAt_leBytes]

theorem leAt_sillBytes_clips : leAt (sillBytes amax flags elems clips nans infs) 16 4 = clips % 2 ^ 32 := by
  simp [sillBytes, leAt_leBytes_skip, leAt_leBytes]

theorem leAt_sillBytes_nans : leAt (sillBytes amax flags elems clips nans infs) 20 4 = nans % 2 ^ 32 := by
  simp [sillBytes, leAt_leBytes_skip, leAt_leBytes]

theorem leAt_sillBytes_infs : leAt (sillBytes amax flags elems clips nans infs) 24 4 = infs % 2 ^ 32 := by
  simp [sillBytes, leAt_leBytes_skip, leAt_leBytes]

end SillBytes

/-! ## A sillage merge (R71) -/

theorem satField_fst (w n : Nat) : (satField w n).1 = min (2 ^ w - 1) n := by
  unfold satField
  split <;> simp only <;> omega

theorem satField_snd (w n : Nat) : (satField w n).2 = decide (2 ^ w ≤ n) := by
  unfold satField
  split <;> simp only [Bool.false_eq, Bool.true_eq, decide_eq_false_iff_not, decide_eq_true_eq] <;> omega

/-- One of the four sums of a merge saturates, so that R71 sets CNT_SAT. -/
def countSaturates (p q : List Byte) : Bool :=
  decide (2 ^ 64 ≤ leAt p 8 8 + leAt q 8 8) || decide (2 ^ 32 ≤ leAt p 16 4 + leAt q 16 4) ||
  decide (2 ^ 32 ≤ leAt p 20 4 + leAt q 20 4) || decide (2 ^ 32 ≤ leAt p 24 4 + leAt q 24 4)

/-- The FLAGS bit CNT_SAT (Table 2-9). -/
def cntSatFlag (sat : Bool) : Nat := if sat then 4 else 0

theorem mergeSillage_eq (p q : List Byte) : mergeSillage p q =
    sillBytes (BitVec.ofNat 32 (max (leAt p 0 4) (leAt q 0 4))) ((leAt p 4 4 ||| leAt q 4 4) ||| cntSatFlag (countSaturates p q))
      (min (2 ^ 64 - 1) (leAt p 8 8 + leAt q 8 8)) (min (2 ^ 32 - 1) (leAt p 16 4 + leAt q 16 4))
      (min (2 ^ 32 - 1) (leAt p 20 4 + leAt q 20 4)) (min (2 ^ 32 - 1) (leAt p 24 4 + leAt q 24 4)) := by
  simp only [mergeSillage, satField_fst, satField_snd]
  rfl

@[simp] theorem mergeSillage_length (p q : List Byte) : (mergeSillage p q).length = 32 := by simp [mergeSillage_eq]

section MergedFields

variable (p q r : List Byte)

theorem mergeSillage_amax : leAt (mergeSillage p q) 0 4 = max (leAt p 0 4) (leAt q 0 4) := by
  have hp := leAt_lt p 0 4
  have hq := leAt_lt q 0 4
  rw [mergeSillage_eq, leAt_sillBytes_amax, BitVec.toNat_ofNat]
  omega

theorem mergeSillage_flags :
    leAt (mergeSillage p q) 4 4 = (leAt p 4 4 ||| leAt q 4 4) ||| cntSatFlag (countSaturates p q) := by
  have hp : leAt p 4 4 < 2 ^ 32 := leAt_lt p 4 4
  have hq : leAt q 4 4 < 2 ^ 32 := leAt_lt q 4 4
  have hs : cntSatFlag (countSaturates p q) < 2 ^ 32 := by unfold cntSatFlag; split <;> decide
  rw [mergeSillage_eq, leAt_sillBytes_flags]
  exact Nat.mod_eq_of_lt (Nat.or_lt_two_pow (Nat.or_lt_two_pow hp hq) hs)

theorem mergeSillage_elems : leAt (mergeSillage p q) 8 8 = min (2 ^ 64 - 1) (leAt p 8 8 + leAt q 8 8) := by
  rw [mergeSillage_eq, leAt_sillBytes_elems]; omega

theorem mergeSillage_clips : leAt (mergeSillage p q) 16 4 = min (2 ^ 32 - 1) (leAt p 16 4 + leAt q 16 4) := by
  rw [mergeSillage_eq, leAt_sillBytes_clips]; omega

theorem mergeSillage_nans : leAt (mergeSillage p q) 20 4 = min (2 ^ 32 - 1) (leAt p 20 4 + leAt q 20 4) := by
  rw [mergeSillage_eq, leAt_sillBytes_nans]; omega

theorem mergeSillage_infs : leAt (mergeSillage p q) 24 4 = min (2 ^ 32 - 1) (leAt p 24 4 + leAt q 24 4) := by
  rw [mergeSillage_eq, leAt_sillBytes_infs]; omega

theorem countSaturates_comm : countSaturates q p = countSaturates p q := by
  simp only [countSaturates, Nat.add_comm]

theorem mergeSillage_comm : mergeSillage q p = mergeSillage p q := by
  simp only [mergeSillage_eq, countSaturates_comm p q, Nat.max_comm, Nat.or_comm, Nat.add_comm]

/-- Saturating sums in either grouping pass the top exactly when the whole sum does, so the two merges of three records find the
same overflows between them. -/
theorem countSaturates_assoc : (countSaturates p q || countSaturates (mergeSillage p q) r) =
    (countSaturates q r || countSaturates p (mergeSillage q r)) := by
  rw [Bool.eq_iff_iff]
  simp only [countSaturates, mergeSillage_elems, mergeSillage_clips, mergeSillage_nans, mergeSillage_infs, Bool.or_eq_true,
    decide_eq_true_eq]
  omega

theorem cntSatFlag_or (a b : Bool) : cntSatFlag a ||| cntSatFlag b = cntSatFlag (a || b) := by
  cases a <;> cases b <;> rfl

theorem or_regroup_left (x y z a b : Nat) : (x ||| y ||| a) ||| z ||| b = x ||| y ||| z ||| (a ||| b) := by ac_rfl

theorem or_regroup_right (x y z a b : Nat) : x ||| (y ||| z ||| a) ||| b = x ||| y ||| z ||| (a ||| b) := by ac_rfl

/-- The FLAGS of three merged records: all their flags, and CNT_SAT when either merge saturates. -/
theorem mergedFlags_assoc :
    (leAt (mergeSillage p q) 4 4 ||| leAt r 4 4) ||| cntSatFlag (countSaturates (mergeSillage p q) r) =
    (leAt p 4 4 ||| leAt (mergeSillage q r) 4 4) ||| cntSatFlag (countSaturates p (mergeSillage q r)) := by
  rw [mergeSillage_flags, mergeSillage_flags, or_regroup_left, or_regroup_right, cntSatFlag_or, cntSatFlag_or, countSaturates_assoc]

theorem satSum_assoc (top a b c : Nat) : min top (min top (a + b) + c) = min top (a + min top (b + c)) := by omega

theorem mergeSillage_assoc : mergeSillage (mergeSillage p q) r = mergeSillage p (mergeSillage q r) := by
  rw [mergeSillage_eq (mergeSillage p q) r, mergeSillage_eq p (mergeSillage q r), mergedFlags_assoc]
  rw [mergeSillage_amax, mergeSillage_elems, mergeSillage_clips, mergeSillage_nans, mergeSillage_infs, mergeSillage_amax,
    mergeSillage_elems, mergeSillage_clips, mergeSillage_nans, mergeSillage_infs, Nat.max_assoc, satSum_assoc _ (leAt p 8 8),
    satSum_assoc _ (leAt p 16 4), satSum_assoc _ (leAt p 20 4), satSum_assoc _ (leAt p 24 4)]

end MergedFields

@[simp] theorem mergeRouting_length (p q : List Byte) : (mergeRouting p q).length = 32 := by simp [mergeRouting, zeros]

/-! ## Bytes laid over a block -/

theorem putAt_length {l bs : List Byte} {a : Nat} (h : a + bs.length ≤ l.length) : (putAt l a bs).length = l.length := by
  simp [putAt]; omega

/-- The bytes laid over a record read back at their place. -/
theorem putAt_slice {l bs : List Byte} {a : Nat} (h : a + bs.length ≤ l.length) : ((putAt l a bs).drop a).take bs.length = bs := by
  have ha : (l.take a).length = a := List.length_take_of_le (by omega)
  rw [putAt, List.drop_left' ha, List.take_left]

/-- Every byte beside them is as it was. -/
theorem putAt_getD_outside {l bs : List Byte} {a i : Nat} (h : a + bs.length ≤ l.length) (hi : i < a ∨ a + bs.length ≤ i) :
    (putAt l a bs).getD i 0 = l.getD i 0 := by
  have ha : (l.take a).length = a := List.length_take_of_le (by omega)
  simp only [putAt, List.getD_eq_getElem?_getD]
  rcases hi with hi | hi
  · rw [List.getElem?_append_left (by omega), List.getElem?_take_of_lt hi]
  · rw [List.getElem?_append_right (by omega), ha, List.getElem?_append_right (by omega), List.getElem?_drop]
    congr 2
    omega

theorem tget_cset_same {α : Type} [DecidableEq α] (f : Nat → α) (t : Tab α) (k : Nat) (a : α) : tget f (cset f t k a) k = a := by
  rw [cset, tget_append_left _ _ _ _ (filter_drops (fun x => decide (x < k)) t k (by simp)),
    tget_append_right _ _ _ _ (tget_filter_drop f (fun x => decide (k < x)) t k (by simp))]
  split
  · next h => rw [tget_nil, h]
  · rw [tget_cons, if_pos rfl]

namespace Machine

/-! ## A read of one block that answers -/

theorem slateStatus_eq_none_iff (sl : Slate) (ok : Bool) (acc : Accept) :
    slateStatus sl ok acc = none ↔ sl.kind ≠ kUnwritten ∧ ok = true ∧ sl.stale = false ∧ acc.ok sl = true := by
  unfold slateStatus
  by_cases hk : sl.kind = kUnwritten
  case pos => simp [hk]
  cases ok
  case false => simp [hk]
  cases sl.stale <;> simp [hk]

/-- A read of one block answers exactly when every test of R287, R302, R314, R426 and R431 passes. -/
theorem readBlock_eq_ok_iff (s : State) (q : Req) (acc : Accept) (blk : Nat) (b : List Byte) :
    s.readBlock q acc blk = .ok b ↔ s.mapped (blk * 4096) = true ∧ s.hubServes blk = true ∧ s.denyRead q (blk * 4096) = none ∧
      s.poisoned blk = false ∧ s.unlisted blk = false ∧ slateStatus (s.slate blk) (s.slateOk blk (s.block blk)) acc = none ∧
      s.deliver blk (s.block blk) = b := by
  unfold State.readBlock
  dsimp only
  by_cases hm : s.mapped (blk * 4096) = true
  case neg => simp [hm]
  by_cases hv : s.hubServes blk = true
  case neg => simp [hm, hv]
  cases hdeny : s.denyRead q (blk * 4096)
  case some => simp [hm, hv]
  by_cases hp : s.poisoned blk = true
  case pos => simp [hm, hv, hp]
  by_cases hu : s.unlisted blk = true
  case pos => simp [hm, hv, hp, hu]
  cases slateStatus (s.slate blk) (s.slateOk blk (s.block blk)) acc
  case some => simp [hm, hv, hp, hu]
  case none => simp [hm, hv, hp, hu]

/-- A block that a tenant may read is the tenant's own (R426). -/
theorem ownerOf_of_denyRead {s : State} {q : Req} {a : Nat} (h : s.denyRead q a = none) : s.ownerOf a = q.tenant := by
  unfold State.denyRead at h
  split at h
  · cases h
  · next hn => exact Decidable.not_not.1 hn

/-- A block of an ordinary region is delivered as it is stored (R431). -/
theorem deliver_ordinary {s : State} {blk : Nat} (h : ∀ g, s.region (blk * 4096) = some g → g.kind = 0) (d : List Byte) :
    s.deliver blk d = d := by
  unfold State.deliver
  split
  · next g hg => rw [if_pos (h g hg)]
  · rfl

/-- A read of bytes within one block that answers has read the block. -/
theorem readBlock_of_read {s : State} {q : Req} {acc : Accept} {a len : Nat} {bs : List Byte} (hl : 0 < len)
    (hf : a % 4096 + len ≤ 4096) (h : s.read q acc a len = .ok bs) :
    ∃ b, s.readBlock q acc (a / 4096) = .ok b ∧ bs = (b.drop (a % 4096)).take len := by
  cases hb : s.readBlock q acc (a / 4096) with
  | error e => rw [read_of_fail hl hb] at h; cases h
  | ok b => rw [read_of_block hl hf hb] at h; cases h; exact ⟨b, rfl, rfl⟩

/-! ## A block that has been placed -/

section Place

variable (s : State) (blk : Nat) (data : List Byte) (sl : Slate)

@[simp] theorem place_slate : (s.place blk data sl).slate blk = sl := tget_cset_same ..

theorem place_block {data : List Byte} (h : data.length = 4096) : (s.place blk data sl).block blk = data := by
  have := tread_tput s.hbm.mem (blk * 4096) data
  rwa [h] at this

theorem place_byte (y : Nat) : tget zeroByte (s.place blk data sl).hbm.mem y =
    if blk * 4096 ≤ y ∧ y < blk * 4096 + data.length then data.getD (y - blk * 4096) 0 else tget zeroByte s.hbm.mem y :=
  tget_tput ..

/-- A hub whose vault takes a line keeps every other field. -/
theorem place_hub (h : Nat) : ∃ v, (s.place blk data sl).hub h = { s.hub h with vault := v } := by
  by_cases e : h = hubOf blk
  · subst e
    exact ⟨_, State.modHub_same ..⟩
  · exact ⟨_, State.modHub_other _ _ _ e⟩

@[simp] theorem place_poisoned (b : Nat) : (s.place blk data sl).poisoned b = s.poisoned b := by
  obtain ⟨v, hv⟩ := place_hub s blk data sl (hubOf b)
  simp only [State.poisoned, hv]

@[simp] theorem place_unlisted (b : Nat) : (s.place blk data sl).unlisted b = s.unlisted b := by
  obtain ⟨v, hv⟩ := place_hub s blk data sl (hubOf b)
  simp only [State.unlisted, hv]

@[simp] theorem place_hubServes (b : Nat) : (s.place blk data sl).hubServes b = s.hubServes b := by
  obtain ⟨v, hv⟩ := place_hub s blk data sl (hubOf b)
  unfold State.hubServes
  rw [hv]
  rfl

@[simp] theorem place_mapped (a : Nat) : (s.place blk data sl).mapped a = s.mapped a := rfl
@[simp] theorem place_region (a : Nat) : (s.place blk data sl).region a = s.region a := rfl
@[simp] theorem place_denyRead (q : Req) (a : Nat) : (s.place blk data sl).denyRead q a = s.denyRead q a := rfl

end Place

/-- A placed block whose slate is sealed over its data agrees with it. -/
theorem place_slateOk (s : State) (blk : Nat) (sl : Slate) {data : List Byte} (h : data.length = 4096) :
    (s.place blk data (sealSlate sl data)).slateOk blk ((s.place blk data (sealSlate sl data)).block blk) = true :=
  slateOk_of_seal (sl := sl) (by rw [place_slate, place_block s blk _ h])

/-- A requester that has read a block of an ordinary region reads what is then placed there, when it accepts the new slate. -/
theorem readBlock_place {s : State} {q : Req} {acc : Accept} {blk : Nat} {b data : List Byte} {sl : Slate}
    (hb : s.readBlock q acc blk = .ok b) (hreg : ∀ g, s.region (blk * 4096) = some g → g.kind = 0) (hd : data.length = 4096)
    (hk : sl.kind ≠ kUnwritten) (hst : sl.stale = false) (hacc : acc.ok (sealSlate sl data) = true) :
    (s.place blk data (sealSlate sl data)).readBlock q acc blk = .ok data := by
  obtain ⟨hm, hv, hdeny, hp, hu, -, -⟩ := (readBlock_eq_ok_iff ..).1 hb
  refine (readBlock_eq_ok_iff ..).2 ⟨by simpa using hm, by simpa using hv, by simpa using hdeny, by simpa using hp, by simpa using hu, ?_, ?_⟩
  · rw [place_slateOk s blk sl hd, place_slate, slateStatus_eq_none_iff]
    exact ⟨hk, rfl, hst, hacc⟩
  · rw [deliver_ordinary (by simpa using hreg), place_block s blk _ hd]

/-! ## A partial write of one block -/

theorem newSlate_gen (old : Slate) (whole : Bool) (kind fmt : BitVec 4) (tid : Word) :
    (newSlate old whole kind fmt tid).gen = old.gen + 1 := by
  unfold newSlate
  split
  · rfl
  · split <;> rfl

theorem newSlate_partial_stale (old : Slate) (kind fmt : BitVec 4) (tid : Word) : (newSlate old false kind fmt tid).stale = old.stale := by
  unfold newSlate
  split
  · exact Bool.and_true _
  · split <;> rfl

/-- A write as RECORD leaves RECORD or RAW, the kinds a record read accepts (R313, Table 12-4). -/
theorem newSlate_record_kind (old : Slate) (whole : Bool) (fmt : BitVec 4) (tid : Word) :
    (newSlate old whole kRecord fmt tid).kind = kRecord ∨ (newSlate old whole kRecord fmt tid).kind = kRaw := by
  unfold newSlate
  split
  · exact .inl rfl
  · split
    · exact .inl rfl
    · exact .inr rfl

theorem acceptRecord_ok_iff (sl : Slate) : acceptRecord.ok sl = true ↔ sl.kind = kRecord ∨ sl.kind = kRaw := by
  simp only [acceptRecord, Accept.ok, List.any_cons, List.any_nil, beq_self_eq_true, Bool.true_or, Bool.and_true, Bool.or_false,
    Bool.or_eq_true, beq_iff_eq]
  exact or_congr eq_comm eq_comm

/-- A partial write of a written block by its owner, which passes every test with no checkpoint, places the old data with the new bytes
laid over it (R312, R313). -/
theorem writeBlock_partial {s : State} {q : Req} {kind fmt : BitVec 4} {tid : Word} {blk off : Nat} {bs : List Byte}
    (hm : s.mapped (blk * 4096) = true) (hv : s.hubServes blk = true) (ho : s.ownerOf (blk * 4096) = q.tenant)
    (hp : s.poisoned blk = false) (hu : s.unlisted blk = false) (hk : (s.slate blk).kind ≠ kUnwritten)
    (hs : s.slateOk blk (s.block blk) = true) (hc : s.ckpt = none) (hl : bs.length < 4096) :
    s.writeBlock q [] kind fmt tid blk [(off, bs)] = .ok (s.place blk (putAt (s.block blk) off bs)
      (sealSlate (newSlate (s.slate blk) false kind fmt tid) (putAt (s.block blk) off bs))) := by
  have hsh : s.shadow blk = .ok s := by unfold State.shadow; rw [hc]
  have hup : s.unpoison blk = s := by simp [State.unpoison, hp, hu]
  have hw : decide (4096 ≤ ([(off, bs)].map (fun p => p.2.length)).sum) = false := by simpa using hl
  unfold State.writeBlock
  simp only [hm, hv, ho, hp, hu, hs, hsh, hw, hk, Bool.not_true, Bool.false_and, Bool.and_false, Bool.false_eq_true, if_false, ne_eq,
    not_true_eq_false, List.any_nil, List.isEmpty_nil, if_true]
  show Except.ok ((s.unpoison blk).place blk _ _) = _
  rw [hup]
  rfl

/-! ## The hub's merge -/

/-- What one atomic update of a 32-byte record leaves (R71): the record reads as new under a new slate of its block that agrees with the
block, and every byte outside it is as it was. -/
def RecordBecomes (s t : State) (q : Req) (a : Nat) (new : List Byte) : Prop :=
  t.read q acceptRecord a 32 = .ok new ∧ (t.slate (a / 4096)).gen = (s.slate (a / 4096)).gen + 1 ∧
  t.slateOk (a / 4096) (t.block (a / 4096)) = true ∧
  ∀ y : Nat, y < a ∨ a + 32 ≤ y → tget zeroByte t.hbm.mem y = tget zeroByte s.hbm.mem y

/-- Bytes of one block laid over it and placed change no byte beside them. -/
theorem place_putAt_byte (s : State) (sl : Slate) {a y : Nat} {bs : List Byte} (hf : a % 4096 + bs.length ≤ 4096)
    (hy : y < a ∨ a + bs.length ≤ y) :
    tget zeroByte (s.place (a / 4096) (putAt (s.block (a / 4096)) (a % 4096) bs) sl).hbm.mem y = tget zeroByte s.hbm.mem y := by
  have hlen : (s.block (a / 4096)).length = 4096 := tread_length ..
  have hfit : a % 4096 + bs.length ≤ (s.block (a / 4096)).length := by omega
  rw [place_byte]
  split
  · next h =>
    obtain ⟨hlo, hhi⟩ := h
    rw [putAt_length hfit, hlen] at hhi
    rw [putAt_getD_outside hfit (by omega), State.block, tread_getD _ _ _ _ (by omega), Nat.add_sub_cancel' hlo]
  · rfl

/-- A read-modify-write of a 32-byte record that its requester reads, in an ordinary region with no checkpoint. -/
theorem rmw_recordBecomes {s : State} {q : Req} {a : Nat} {g : List Byte → List Byte} {old : List Byte} (ha : a % 32 = 0)
    (hr : s.read q acceptRecord a 32 = .ok old) (hc : s.ckpt = none)
    (hreg : ∀ r, s.region (a / 4096 * 4096) = some r → r.kind = 0) (hg : (g old).length = 32) :
    ∃ t, s.rmw q a 32 g = .ok t ∧ RecordBecomes s t q a (g old) := by
  have hf : a % 4096 + 32 ≤ 4096 := by omega
  obtain ⟨b, hb, -⟩ := readBlock_of_read (by decide) hf hr
  obtain ⟨hm, hv, hdeny, hp, hu, hsl, -⟩ := (readBlock_eq_ok_iff ..).1 hb
  obtain ⟨hk, hok, hst, -⟩ := (slateStatus_eq_none_iff ..).1 hsl
  have hlen : (s.block (a / 4096)).length = 4096 := tread_length ..
  have hfit : a % 4096 + (g old).length ≤ (s.block (a / 4096)).length := by omega
  have hdata := (putAt_length hfit).trans hlen
  have hkind := newSlate_record_kind (s.slate (a / 4096)) false 0 0
  have hread := readBlock_place hb hreg hdata (by rcases hkind with h | h <;> rw [h] <;> decide)
    ((newSlate_partial_stale ..).trans hst) ((acceptRecord_ok_iff _).2 hkind)
  refine ⟨s.place (a / 4096) _ (sealSlate (newSlate (s.slate (a / 4096)) false kRecord 0 0) _), ?_, ?_, ?_,
    place_slateOk s _ _ hdata, fun y hy => place_putAt_byte s _ (by omega) (by omega)⟩
  · have hw : s.rmw q a 32 g = s.write q kRecord 0 0 a (g old) := by simp only [State.rmw, hr]; rfl
    rw [hw, write_of_block (by omega) (by omega),
      writeBlock_partial hm hv (ownerOf_of_denyRead hdeny) hp hu hk hok hc (by omega)]
  · rw [read_of_block (by decide) hf hread, ← hg, putAt_slice hfit]
  · rw [place_slate]
    exact newSlate_gen ..

/-- The hub's merge of a record that its owner reads. -/
theorem mergeRecord_recordBecomes {s : State} {a : Nat} {g : List Byte → List Byte} {old : List Byte} (ha : a % 32 = 0)
    (hr : s.read { tenant := s.ownerOf a, use := .other, range := stRange } acceptRecord a 32 = .ok old) (hc : s.ckpt = none)
    (hreg : ∀ r, s.region (a / 4096 * 4096) = some r → r.kind = 0) (hg : (g old).length = 32) :
    RecordBecomes s (s.mergeRecord a g) { tenant := s.ownerOf a, use := .other, range := stRange } a (g old) := by
  obtain ⟨t, ht, hbecomes⟩ := rmw_recordBecomes ha hr hc hreg hg
  have he : s.mergeRecord a g = t := by simp [State.mergeRecord, ha, ht]
  rwa [he]

theorem exec_sillageMerge {addr : BitVec 40} {rec : List Byte} (s : State) (h : rec.length = 32) :
    exec (.sillageMerge addr rec) s = .next (s.mergeRecord addr.toNat (mergeSillage rec)) :=
  congrArg (fun r => Host.Outcome.next (s.mergeRecord addr.toNat (mergeSillage r))) (bytesAt_of_length h)

theorem exec_routingRecordMerge {addr : BitVec 40} {rec : List Byte} (s : State) (h : rec.length = 32) :
    exec (.routingRecordMerge addr rec) s = .next (s.mergeRecord addr.toNat (mergeRouting rec)) :=
  congrArg (fun r => Host.Outcome.next (s.mergeRecord addr.toNat (mergeRouting r))) (bytesAt_of_length h)

/-- Settles O29: the fields of a merged sillage record, its two laws, and each merge as one read-modify-write of a record within a
block. -/
theorem hubMergesAreAtomicUpdates : Obligations.HubMergesAreAtomicUpdates := by
  unfold Obligations.HubMergesAreAtomicUpdates
  refine ⟨fun p q r => ⟨mergeSillage_amax p q, mergeSillage_elems p q, mergeSillage_clips p q, mergeSillage_nans p q,
    mergeSillage_infs p q, mergeSillage_flags p q, mergeSillage_comm p q, mergeSillage_assoc p q r⟩, ?_⟩
  intro addr rec old s q blk ha hrec hr hc hreg
  have hmerge (g : List Byte → List Byte) (hg : (g old).length = 32) :
      RecordBecomes s (s.mergeRecord addr.toNat g) q addr.toNat (g old) := mergeRecord_recordBecomes ha hr hc hreg hg
  exact ⟨⟨_, exec_sillageMerge s hrec, hmerge _ (mergeSillage_length rec old)⟩,
    ⟨_, exec_routingRecordMerge s hrec, hmerge _ (mergeRouting_length rec old)⟩⟩

end Machine
end Sys2Proof
end

section
/-!
The order in which contributions enter a ledger (R78): while it does not saturate, finite contributions and −0 enter by plain integer
addition (`Ledger.enter`), which commutes, and a sum that has not set WLOSS is the exact sum of what entered.
-/

namespace Sys2Proof

/-! ## What a contribution does to the flags -/

/-- A contribution that has a value: not an infinity and not a NaN. -/
def Contrib.Finite (c : Contrib) : Prop := c = .negZero ∨ ∃ n e, c = .fin n e

namespace Ledger

@[simp] theorem saturate_sat (g : Ledger) (neg : Bool) : (g.saturate neg).sat = true := by
  unfold saturate
  split
  · next h =>
    rw [Bool.and_eq_true] at h
    exact h.1
  · rfl

theorem addFin_sat_of_sat {g : Ledger} (h : g.sat = true) (n e : Int) : (g.addFin n e).sat = true := by
  simp only [addFin, if_pos h]
  split <;> exact h

theorem wloss_if_discarded (g : Ledger) (b : Bool) : (if b then { g with wloss := true } else g) = { g with wloss := g.wloss || b } := by
  cases b <;> simp

/-- A finite contribution that leaves SAT clear is placed in the window and added (R78, R81). -/
theorem addFin_of_unsaturated {g : Ledger} {n e : Int} (h : (g.addFin n e).sat = false) :
    g.addFin n e = { g with l := g.l + (rneShift n (e - g.wbase)).1, wloss := g.wloss || (rneShift n (e - g.wbase)).2 } := by
  have hsat : ¬ g.sat = true := fun hs => by simp [addFin_sat_of_sat hs] at h
  simp only [addFin, if_neg hsat, wloss_if_discarded] at h ⊢
  split at h
  · simp at h
  · next hlim => rw [if_neg hlim]

/-! One equation of `add` for each kind of contribution (R76, R83). -/

theorem add_of_nan {g : Ledger} (h : g.nan = true) (c : Contrib) : g.add c = g := if_pos h

section NanClear

variable {g : Ledger} (h : g.nan = false)
include h

theorem add_fin (n e : Int) : g.add (.fin n e) = { g with nz := false, empty := false }.addFin n e := by simp [add, h]
theorem add_negZero : g.add .negZero = { g with nz := g.empty || g.nz, empty := false } := by simp [add, h]
theorem add_inf (neg : Bool) : g.add (.inf neg) = { g with nz := false, empty := false }.saturate neg := by simp [add, h]
theorem add_nan : g.add .nan = { g with nan := true, nz := false, empty := false } := by simp [add, h]

end NanClear

/-- SAT is sticky (R76). -/
theorem add_sat_of_sat {g : Ledger} (h : g.sat = true) (c : Contrib) : (g.add c).sat = true := by
  cases hnan : g.nan with
  | true => rwa [add_of_nan hnan]
  | false =>
    cases c with
    | fin n e =>
      rw [add_fin hnan]
      exact addFin_sat_of_sat (by exact h) n e
    | negZero => rwa [add_negZero hnan]
    | inf neg => rw [add_inf hnan, saturate_sat]
    | nan => rwa [add_nan hnan]

/-- An infinity or a NaN never leaves a ledger with both SAT and NaN clear (R83). -/
theorem finite_of_add_flags {g : Ledger} {c : Contrib} (hsat : (g.add c).sat = false) (hnan : (g.add c).nan = false) : c.Finite := by
  have hg : g.nan = false := Bool.eq_false_iff.2 (fun h => by simp [add_of_nan h, h] at hnan)
  cases c with
  | fin n e => exact .inr ⟨n, e, rfl⟩
  | negZero => exact .inl rfl
  | inf neg => simp [add_inf hg] at hsat
  | nan => simp [add_nan hg] at hnan

theorem foldl_add_of_nan {g : Ledger} (h : g.nan = true) (xs : List Contrib) : xs.foldl add g = g := by
  induction xs with
  | nil => rfl
  | cons x xs ih => rw [List.foldl_cons, add_of_nan h, ih]

theorem foldl_add_sat_of_sat {g : Ledger} (h : g.sat = true) (xs : List Contrib) : (xs.foldl add g).sat = true := by
  induction xs generalizing g with
  | nil => exact h
  | cons x xs ih => exact ih (add_sat_of_sat h x)

theorem sat_of_foldl_add {g : Ledger} {xs : List Contrib} (h : (xs.foldl add g).sat = false) : g.sat = false :=
  Bool.eq_false_iff.2 (fun hs => by simp [foldl_add_sat_of_sat hs] at h)

theorem nan_of_foldl_add {g : Ledger} {xs : List Contrib} (h : (xs.foldl add g).nan = false) : g.nan = false :=
  Bool.eq_false_iff.2 (fun hn => by simp [foldl_add_of_nan hn, hn] at h)

/-- A sum that leaves SAT and NaN clear took finite contributions and −0 alone. -/
theorem finite_of_foldl_add_flags {g : Ledger} {xs : List Contrib} (hsat : (xs.foldl add g).sat = false)
    (hnan : (xs.foldl add g).nan = false) : ∀ x ∈ xs, x.Finite := by
  induction xs generalizing g with
  | nil => simp
  | cons x xs ih =>
    have hx : x.Finite := finite_of_add_flags (sat_of_foldl_add (xs := xs) hsat) (nan_of_foldl_add (xs := xs) hnan)
    exact List.forall_mem_cons.2 ⟨hx, ih hsat hnan⟩

/-! ## Addition that does not saturate -/

/-- What a contribution does to a ledger that does not saturate: its value, placed in the window, is added to L, and the flags follow
Table 3-2. An infinity or a NaN has no value to add. -/
def enter (g : Ledger) : Contrib → Ledger
  | .fin n e => { g with l := g.l + (rneShift n (e - g.wbase)).1, wloss := g.wloss || (rneShift n (e - g.wbase)).2,
                         nz := false, empty := false }
  | .negZero => { g with nz := g.empty || g.nz, empty := false }
  | .inf _ => g
  | .nan => g

@[simp] theorem enter_wbase (g : Ledger) (c : Contrib) : (g.enter c).wbase = g.wbase := by cases c <;> rfl
@[simp] theorem enter_wide (g : Ledger) (c : Contrib) : (g.enter c).wide = g.wide := by cases c <;> rfl
@[simp] theorem enter_nan (g : Ledger) (c : Contrib) : (g.enter c).nan = g.nan := by cases c <;> rfl

/-- WLOSS is sticky (R76). -/
theorem enter_wloss_of_wloss {g : Ledger} (h : g.wloss = true) (c : Contrib) : (g.enter c).wloss = true := by
  cases c <;> simp [enter, h]

@[simp] theorem foldl_enter_wbase (g : Ledger) (xs : List Contrib) : (xs.foldl enter g).wbase = g.wbase := by
  induction xs generalizing g with
  | nil => rfl
  | cons x xs ih => rw [List.foldl_cons, ih, enter_wbase]

@[simp] theorem foldl_enter_wide (g : Ledger) (xs : List Contrib) : (xs.foldl enter g).wide = g.wide := by
  induction xs generalizing g with
  | nil => rfl
  | cons x xs ih => rw [List.foldl_cons, ih, enter_wide]

theorem foldl_enter_wloss_of_wloss {g : Ledger} (h : g.wloss = true) (xs : List Contrib) : (xs.foldl enter g).wloss = true := by
  induction xs generalizing g with
  | nil => exact h
  | cons x xs ih => exact ih (enter_wloss_of_wloss h x)

/-- Two contributions enter in either order with one result: the integers add, and NZ survives only when both are −0. -/
theorem enter_right_comm (g : Ledger) (c d : Contrib) : (g.enter c).enter d = (g.enter d).enter c := by
  cases c with
  | fin n e => cases d <;> simp [enter, Int.add_right_comm, Bool.or_right_comm]
  | negZero => cases d <;> simp [enter]
  | inf neg => rfl
  | nan => rfl

theorem foldl_enter_of_perm {xs ys : List Contrib} (h : ys.Perm xs) (g : Ledger) : ys.foldl enter g = xs.foldl enter g :=
  h.foldl_eq' (fun c _ d _ g => enter_right_comm g c d) g

theorem add_eq_enter {g : Ledger} {c : Contrib} (hc : c.Finite) (hnan : g.nan = false) (hsat : (g.add c).sat = false) :
    g.add c = g.enter c := by
  obtain rfl | ⟨n, e, rfl⟩ := hc
  · exact add_negZero hnan
  · rw [add_fin hnan] at hsat ⊢
    exact addFin_of_unsaturated hsat

theorem foldl_add_eq_foldl_enter {g : Ledger} {xs : List Contrib} (hxs : ∀ x ∈ xs, x.Finite) (hnan : g.nan = false)
    (hsat : (xs.foldl add g).sat = false) : xs.foldl add g = xs.foldl enter g := by
  induction xs generalizing g with
  | nil => rfl
  | cons x xs ih =>
    obtain ⟨hx, hxs⟩ := List.forall_mem_cons.1 hxs
    have hstep := add_eq_enter hx hnan (sat_of_foldl_add (xs := xs) hsat)
    rw [List.foldl_cons, hstep] at hsat ⊢
    exact ih hxs (by simpa using hnan) hsat

end Ledger

/-! ## Exact sums -/

/-- A shift that discards no bit multiplies by 2^d. -/
theorem rneShift_exact {x d : Int} (h : (rneShift x d).2 = false) : (rneShift x d).1 * pow2Den d = x * pow2Num d := by
  by_cases hd : 0 ≤ d
  case pos => simp [rneShift, pow2Den, hd]
  have hpos : pow2Den d ≠ 0 := by simp [pow2Den, hd]
  have hmod : x.natAbs % pow2Den d = 0 := by simpa [rneShift, hd] using h
  have hquot : ((x.natAbs / pow2Den d : Nat) : Int) * pow2Den d = x.natAbs := by
    exact_mod_cast Nat.div_mul_cancel (Nat.dvd_of_mod_eq_zero hmod)
  have hval : (rneShift x d).1 = if x < 0 then -((x.natAbs / pow2Den d : Nat) : Int) else (x.natAbs / pow2Den d : Nat) := by
    simp [rneShift, hd, hmod, hpos]
  have hone : pow2Num d = 1 := if_neg hd
  rw [hval, hone, Int.natCast_one, Int.mul_one]
  split
  · rw [Int.neg_mul, hquot]
    omega
  · rw [hquot]
    omega

/-- A value placed in a window at w without loss, counted in units of 2^e. -/
theorem rneShift_exact_scaled {x f w e : Int} (hw : e ≤ w) (hf : e ≤ f) (h : (rneShift x (f - w)).2 = false) :
    (rneShift x (f - w)).1 * 2 ^ (w - e).toNat = x * 2 ^ (f - e).toNat := by
  have hexact := rneShift_exact h
  by_cases hd : 0 ≤ f - w
  · have hexp : (f - e).toNat = (f - w).toNat + (w - e).toNat := by omega
    simp only [pow2Den, pow2Num, hd, if_true, Int.mul_one, Int.natCast_pow, Int.cast_ofNat_Int] at hexact
    rw [hexact, hexp, Int.pow_add, Int.mul_assoc]
  · have hexp : (w - e).toNat = (-(f - w)).toNat + (f - e).toNat := by omega
    simp only [pow2Den, pow2Num, hd, if_false, Int.mul_one, Int.natCast_pow, Int.cast_ofNat_Int] at hexact
    rw [hexp, Int.pow_add, ← Int.mul_assoc, hexact]

/-- The value of a contribution in units of 2^e, for e at or below its weight. -/
def Contrib.scaled (e : Int) : Contrib → Int
  | .fin n f => n * 2 ^ (f - e).toNat
  | _ => 0

namespace Ledger

theorem enter_l_scaled {g : Ledger} {c : Contrib} {e : Int} (hw : e ≤ g.wbase) (hc : ∀ n f, c = .fin n f → e ≤ f)
    (hloss : (g.enter c).wloss = false) :
    (g.enter c).l * 2 ^ (g.wbase - e).toNat = g.l * 2 ^ (g.wbase - e).toNat + c.scaled e := by
  cases c with
  | fin n f =>
    obtain ⟨-, hexact⟩ := Bool.or_eq_false_iff.1 hloss
    rw [enter, Int.add_mul, rneShift_exact_scaled hw (hc n f rfl) hexact, Contrib.scaled]
  | negZero => exact (Int.add_zero _).symm
  | inf neg => exact (Int.add_zero _).symm
  | nan => exact (Int.add_zero _).symm

/-- A sum that has not set WLOSS has grown by what entered, counted in units of 2^e. -/
theorem foldl_enter_l_scaled {g : Ledger} {xs : List Contrib} {e : Int} (hw : e ≤ g.wbase) (hxs : ∀ n f, Contrib.fin n f ∈ xs → e ≤ f)
    (hloss : (xs.foldl enter g).wloss = false) :
    (xs.foldl enter g).l * 2 ^ (g.wbase - e).toNat = g.l * 2 ^ (g.wbase - e).toNat + (xs.map (Contrib.scaled e)).sum := by
  induction xs generalizing g with
  | nil => exact (Int.add_zero _).symm
  | cons x xs ih =>
    have hloss_step : (g.enter x).wloss = false := Bool.eq_false_iff.2 (fun h => by simp [foldl_enter_wloss_of_wloss h] at hloss)
    have hhead := enter_l_scaled hw (fun n f hx => hxs n f (hx ▸ List.mem_cons_self)) hloss_step
    have htail := ih (g := g.enter x) (by simpa using hw) (fun n f hx => hxs n f (List.mem_cons_of_mem _ hx)) hloss
    rw [enter_wbase] at htail
    rw [List.foldl_cons, htail, hhead, List.map_cons, List.sum_cons, Int.add_assoc]

end Ledger

/-- Settles O60: such a sum is the sum of plain entries, which commute and, with WLOSS clear, are exact. -/
theorem ledgerAdditionIsExactInOneOrderAsInAnother : Obligations.LedgerAdditionIsExactInOneOrderAsInAnother := by
  unfold Obligations.LedgerAdditionIsExactInOneOrderAsInAnother
  intro g xs _ _ hnan out hloss hsat houtnan
  have hfin : ∀ x ∈ xs, x.Finite := Ledger.finite_of_foldl_add_flags hsat houtnan
  have henter : out xs = xs.foldl Ledger.enter g := Ledger.foldl_add_eq_foldl_enter hfin hnan hsat
  rw [henter] at hloss ⊢
  refine ⟨hfin, Ledger.foldl_enter_wbase g xs, Ledger.foldl_enter_wide g xs, fun e hw hxs => Ledger.foldl_enter_l_scaled hw hxs hloss, ?_⟩
  intro ys hperm hysat
  calc out ys = ys.foldl Ledger.enter g := Ledger.foldl_add_eq_foldl_enter (fun y hy => hfin y (hperm.mem_iff.1 hy)) hnan hysat
    _ = xs.foldl Ledger.enter g := Ledger.foldl_enter_of_perm hperm g

end Sys2Proof
end

section
/-!
The rules that the events of a core share: reads of one core after writes to another, what the end of a part leaves of its core (R236,
R267), and what an access that fails does.
-/
namespace Sys2Proof.Machine

/-! ## Cores by identity and by key -/

theorem CoreId.key_inj {c d : CoreId} : c.key = d.key ↔ c = d := by
  obtain ⟨⟨a, _⟩, ⟨b, _⟩⟩ := c
  obtain ⟨⟨x, _⟩, ⟨y, _⟩⟩ := d
  simp only [CoreId.key, CoreId.mk.injEq, Fin.mk.injEq]
  omega

@[simp] theorem State.coreK_key (s : State) (c : CoreId) : s.coreK c.key = s.core c := rfl
@[simp] theorem State.modCoreK_key (s : State) (c : CoreId) (g : Core → Core) : s.modCoreK c.key g = s.modCore c g := rfl

@[simp] theorem State.modMx_same (s : State) (c : CoreId) (g : Mx → Mx) :
    (s.modMx c g).core c = { s.core c with mx := g (s.core c).mx } := State.modCore_same ..

theorem State.modCoreK_get_core (s : State) (k : Nat) (g : Core → Core) (c : CoreId) :
    (s.modCoreK k g).core c = if c.key = k then g (s.core c) else s.core c := by
  split
  · next h => subst h; exact State.modCore_same ..
  · next h => exact State.modCoreK_other s k g h

/-! ## What leaves every core alone -/

theorem LogOnly.core {s t : State} (h : LogOnly s t) (c : CoreId) : t.core c = s.core c := by
  obtain ⟨_, _, _, _, _, rfl, -⟩ := h
  rfl

theorem LogOnly.tracked {s t : State} (h : LogOnly s t) : t.tracked = s.tracked := by
  obtain ⟨_, _, _, _, _, rfl, -⟩ := h
  rfl

theorem markStale_foldl_logOnly (bs : List Nat) (s : State) : LogOnly s (bs.foldl State.markStale s) :=
  foldl_keeps .refl .trans (fun s b => (markStale_memoryOnly s b).logOnly) bs s

/-- Past the tracked shot that it counts in, the end of a unit's work touches memory alone (R315). -/
theorem unitDone_logOnly (s : State) (r : ShotRef) (p : Nat) (st : Half) :
    LogOnly (s.modTracked r (·.partDone p st)) (s.unitDone r p st) := by
  unfold State.unitDone
  dsimp only
  split
  · split
    · exact markStale_foldl_logOnly ..
    · exact .refl _
  · exact .refl _

@[simp] theorem unitDone_core (s : State) (r : ShotRef) (p : Nat) (st : Half) (c : CoreId) : (s.unitDone r p st).core c = s.core c :=
  (unitDone_logOnly s r p st).core c

/-! ## No part waits for a core -/

theorem Tracked.settle_queued (t : Tracked) : t.settle.queued = t.queued := by
  unfold Tracked.settle
  split <;> rfl

theorem Tracked.partDone_queued {t : Tracked} (h : t.queued = []) (p : Nat) (st : Half) : (t.partDone p st).queued = [] := by
  simp [Tracked.partDone, Tracked.settle_queued, h]

theorem NoQueuedParts.of_tracked {s t : State} (h : NoQueuedParts s) (ht : t.tracked = s.tracked) : NoQueuedParts t := by
  unfold NoQueuedParts
  rwa [ht]

theorem NoQueuedParts.modTracked {s : State} (h : NoQueuedParts s) (r : ShotRef) {g : Tracked → Tracked}
    (hg : ∀ t : Tracked, t.queued = [] → (g t).queued = []) : NoQueuedParts (s.modTracked r g) := by
  intro y hy
  obtain ⟨t, ht, rfl⟩ := List.mem_map.1 hy
  split
  · exact hg t (h t ht)
  · exact h t ht

theorem NoQueuedParts.unitDone {s : State} (h : NoQueuedParts s) (r : ShotRef) (p : Nat) (st : Half) : NoQueuedParts (s.unitDone r p st) :=
  (h.modTracked r (fun _ ht => Tracked.partDone_queued ht p st)).of_tracked (unitDone_logOnly s r p st).tracked

theorem NoQueuedParts.kickPrograms {s : State} (h : NoQueuedParts s) : s.kickPrograms = s := kickPrograms_none h

/-! ## The end of a part -/

theorem releasePartner_tracked (s : State) (k : Nat) : (s.releasePartner k).tracked = s.tracked := by
  unfold State.releasePartner
  split <;> rfl

/-- A released pair changes of a core its place in the pair alone (R327). -/
theorem releasePartner_core (s : State) (k : Nat) (c : CoreId) :
    ∃ p r n, (s.releasePartner k).core c = { s.core c with partner := p, role := r, votes := n } := by
  unfold State.releasePartner
  split
  · exact ⟨_, _, _, rfl⟩
  · simp only [State.modCoreK_get_core]
    split <;> split <;> exact ⟨_, _, _, rfl⟩

/-- The part of core c has ended with a fault, and its matrix unit stays as it was (Table 9-18). -/
structure PartFails (s t : State) (c : CoreId) : Prop where
  pstate : (t.core c).pstate = 5
  part : (t.core c).part = none
  mx : (t.core c).mx = (s.core c).mx

theorem endPart_partFails {s : State} (hq : NoQueuedParts s) (c : CoreId) (st : Half) : PartFails s (s.endPart c.key st 5) c := by
  unfold State.endPart
  split
  · next h => constructor <;> simp_all
  · next r p h =>
    obtain ⟨q, role, n, hrel⟩ := releasePartner_core s c.key c
    have hcchk (u : State) (g) : (u.modCchk g).core c = u.core c := rfl
    rw [NoQueuedParts.kickPrograms]
    · constructor <;> simp [hcchk, hrel]
    · apply NoQueuedParts.unitDone
      exact hq.of_tracked (releasePartner_tracked s c.key)

theorem failAccess_partFails {s : State} (hq : NoQueuedParts s) {c : CoreId} (hp : (s.core c).part ≠ none) {st : Half}
    (hst : st ≠ stOperandRange) (a : Nat) : PartFails s (s.failAccess c.key st a) c := by
  unfold State.failAccess State.failCore
  obtain ⟨⟨r, p⟩, hpart⟩ := Option.ne_none_iff_exists'.1 hp
  simp only [if_neg hst, State.coreK_key, hpart, State.modCoreK_key]
  have hcount : ∀ u : State, NoQueuedParts u → (u.core c).mx = (s.core c).mx →
      PartFails s ((u.slateFault st a r.reel.val r.seq).endPart c.key st 5) c := by
    intro u hu hmx
    have hlog := slateFault_logOnly u st a r.reel.val r.seq
    obtain ⟨hstate, hnone, hkeep⟩ := endPart_partFails (hu.of_tracked hlog.tracked) c st
    exact ⟨hstate, hnone, by rw [hkeep, hlog.core, hmx]⟩
  split
  · exact hcount _ hq (by simp)
  · exact hcount s hq rfl

end Sys2Proof.Machine
end

section
/-!
What becomes of a core's shares of split blocks (R510) when the work of another core commits or fails, and what an instruction's commit
(R172, R315) leaves of every core.
-/
namespace Sys2Proof.Machine

@[simp] theorem modTracked_core (s : State) (r : ShotRef) (g : Tracked → Tracked) (c : CoreId) :
    (s.modTracked r g).core c = s.core c := rfl

/-! ## A commit of one instruction -/

@[simp] theorem noteShot_core (s : State) (v : Core) (p : PartOut) (c : CoreId) : (s.noteShot v p).core c = s.core c := by
  unfold State.noteShot
  split <;> rfl

@[simp] theorem noteShot_hbm (s : State) (v : Core) (p : PartOut) : (s.noteShot v p).hbm = s.hbm := by
  unfold State.noteShot
  split <;> rfl

@[simp] theorem flagShot_core (s : State) (v : Core) (wloss sat : Bool) (c : CoreId) : (s.flagShot v wloss sat).core c = s.core c := by
  unfold State.flagShot
  split <;> rfl

@[simp] theorem flagShot_hbm (s : State) (v : Core) (wloss sat : Bool) : (s.flagShot v wloss sat).hbm = s.hbm := by
  unfold State.flagShot
  split <;> rfl

/-- The state an instruction goes on in once its part has committed. -/
def State.afterCommit (u : State) (v : Core) (k : Nat) (p : PartOut) : State :=
  ((u.modCoreK k (·.addCounts p.counts)).noteShot v p).flagShot v p.wloss p.sat

@[simp] theorem afterCommit_hbm (u : State) (v : Core) (k : Nat) (p : PartOut) : (u.afterCommit v k p).hbm = u.hbm := by
  simp [State.afterCommit]

@[simp] theorem afterCommit_mx (u : State) (v : Core) (k : Nat) (p : PartOut) (c : CoreId) :
    ((u.afterCommit v k p).core c).mx = (u.core c).mx := by
  simp only [State.afterCommit, flagShot_core, noteShot_core, State.modCoreK_get_core]
  split <;> rfl

@[simp] theorem afterCommit_vxTry (u : State) (v : Core) (k : Nat) (p : PartOut) (c : CoreId) :
    ((u.afterCommit v k p).core c).vxTry = (u.core c).vxTry := by
  simp only [State.afterCommit, flagShot_core, noteShot_core, State.modCoreK_get_core]
  split <;> rfl

theorem commitInstr_of_runParts {s u : State} {v : Core} {k : Nat} {p : PartOut} {g : State → Iss}
    (h : s.runParts v.req v.taint v.whose.1 v.whose.2 [p] = some (u, [none])) : s.commitInstr v k p g = g (u.afterCommit v k p) := by
  unfold State.commitInstr
  rw [h]
  rfl

/-- An instruction's commit waits, stops with a status, or lets it go on; no matrix unit changes by it. -/
theorem commitInstr_cases (s : State) (v : Core) (k : Nat) (p : PartOut) (g : State → Iss) :
    s.commitInstr v k p g = .wait ∨
    ∃ u : State, (∀ c, (u.core c).mx = (s.core c).mx) ∧
      ((∃ st, s.commitInstr v k p g = .stop u st) ∨ s.commitInstr v k p g = g u) := by
  unfold State.commitInstr
  split
  · exact .inl rfl
  · next u fs hrun =>
    obtain ⟨hlog, -⟩ := runParts_keeps hrun
    dsimp only
    split
    · refine .inr ⟨u.afterCommit v k p, fun c => ?_, .inr rfl⟩
      rw [afterCommit_mx, hlog.core]
    · refine .inr ⟨_, fun c => ?_, .inl ⟨_, rfl⟩⟩
      split <;> simp only [State.modCoreK_get_core, hlog.core] <;> split <;> rfl

/-- A part that writes nothing commits and changes nothing. -/
theorem runParts_of_nothing (s : State) (q : Req) (taint : List Nat) (reel : Nat) (seq : Word) :
    s.runParts q taint reel seq [{}] = some (s, [none]) := rfl

/-! ## Shares of a block -/

/-- No share of block blk waits in the core's output staging. -/
def Core.LacksShare (blk : Nat) (v : Core) : Prop := ∀ x ∈ v.mx.shares, x.1 ≠ blk

section LacksShare

variable {blk : Nat} {c : CoreId} {s : State}

theorem lacksShare_of_mx {v w : Core} (h : v.LacksShare blk) (hmx : w.mx = v.mx) : w.LacksShare blk := by
  unfold Core.LacksShare
  rwa [hmx]

theorem lacksShare_modCoreK {k : Nat} {g : Core → Core} (h : (s.core c).LacksShare blk)
    (hg : ∀ v : Core, v.LacksShare blk → (g v).LacksShare blk) : ((s.modCoreK k g).core c).LacksShare blk := by
  rw [State.modCoreK_get_core]
  split
  · exact hg _ h
  · exact h

/-- A part that starts on a core finds its cells and its staging empty (R428), and any other core keeps them. -/
theorem startPart_lacksShare (h : (s.core c).LacksShare blk) (r : ShotRef) (t : Tracked) (p : Nat) :
    ((s.startPart r t p).core c).LacksShare blk := by
  unfold State.startPart
  dsimp only
  split
  · exact h
  next k _ =>
  generalize (if t.mode = 4 then s.helper k [] else none) = mate
  have hstarted : ∀ g : Core → Core, (∀ v, (g v).mx.shares = []) → ((s.modCoreK k g).core c).LacksShare blk := by
    intro g hg
    rw [State.modCoreK_get_core]
    split
    · intro x hx
      simp [hg] at hx
    · exact h
  split
  · exact h
  split
  · exact h
  split
  · exact lacksShare_modCoreK h (fun _ h => h)
  · rw [unitDone_core, (slateFault_logOnly ..).core]
    split
    · exact lacksShare_modCoreK h (fun _ h => h)
    · exact h
  · rw [modTracked_core]
    cases mate with
    | none => exact hstarted _ (fun _ => rfl)
    | some m => exact lacksShare_modCoreK (hstarted _ (fun _ => rfl)) (fun _ h => h)

theorem kickPrograms_lacksShare (h : (s.core c).LacksShare blk) : (s.kickPrograms.core c).LacksShare blk := by
  unfold State.kickPrograms
  split
  · exact h
  · refine foldl_holds (P := fun s : State => (s.core c).LacksShare blk) (fun s t h => ?_) _ s h
    unfold State.startParts
    split
    · exact h
    · split
      · exact h
      · exact foldl_holds (P := fun s : State => (s.core c).LacksShare blk) (fun s p h => startPart_lacksShare h _ _ p) _ s h

theorem endPart_lacksShare (h : (s.core c).LacksShare blk) (k : Nat) (st : Half) (pstate : BitVec 3) :
    ((s.endPart k st pstate).core c).LacksShare blk := by
  unfold State.endPart
  split
  · exact lacksShare_modCoreK h (fun _ h => h)
  · apply kickPrograms_lacksShare
    rw [unitDone_core]
    refine lacksShare_modCoreK ?_ (fun _ h => h)
    obtain ⟨_, _, _, hrel⟩ := releasePartner_core s k c
    show ((s.releasePartner k).core c).LacksShare blk
    exact lacksShare_of_mx h (by rw [hrel])

/-- Blocks that form on one core add no share to another (R510). -/
theorem settleIss_formBlocks_lacksShare (h : (s.core c).LacksShare blk) (k : Nat) (p : Prod) :
    ((s.settleIss k (s.formBlocks k p)).core c).LacksShare blk := by
  unfold State.formBlocks
  dsimp only
  obtain hwait | ⟨u, hmx, ⟨st, hstop⟩ | hnext⟩ := commitInstr_cases s (s.coreK k) k _ _
  · rw [hwait]
    exact h
  · rw [hstop]
    exact endPart_lacksShare (lacksShare_of_mx h (hmx c)) k st 5
  · rw [hnext]
    exact lacksShare_modCoreK (lacksShare_of_mx h (hmx c)) (fun v h x hx => h x (List.mem_filter.1 hx).1)

end LacksShare

/-- With no share in its staging a core forms no block. -/
theorem formBlocks_of_no_shares {s : State} {k : Nat} (h : (s.coreK k).mx.shares = []) (p : Prod) :
    ∃ t, s.formBlocks k p = .next t ∧ t.hbm = s.hbm ∧ ∀ c, (t.core c).mx = (s.core c).mx := by
  have hkeep (l : List (Nat × List Share)) : l.filter (fun x => !([] : List Nat).contains x.1) = l :=
    List.filter_eq_self.2 (fun _ _ => rfl)
  unfold State.formBlocks
  simp only [h, List.filterMap_nil, List.map_nil, List.eraseDups_nil, List.foldl_nil]
  refine ⟨_, commitInstr_of_runParts (runParts_of_nothing ..), afterCommit_hbm .., fun c => ?_⟩
  rw [State.modCoreK_get_core]
  split
  · simp only [hkeep]
    exact afterCommit_mx ..
  · exact afterCommit_mx ..

end Sys2Proof.Machine
end

section
/-!
The rules of the matrix unit alone: what entering, committing, rotating, restoring and swapping change of it (R87, R105, R106, R110,
R118, R329, R330).
-/
namespace Sys2Proof.Machine

namespace Mx

variable {m : Mx}

/-- No set stands beside the cells with its last tile awaiting its check (R329). -/
def Unchecked (m : Mx) : Prop := ∀ o, m.shadowSet = some o → o.check = false

theorem Unchecked.cases (h : m.Unchecked) : m.shadowSet = none ∨ ∃ o, m.shadowSet = some o ∧ o.check = false := by
  cases hset : m.shadowSet with
  | none => exact .inl rfl
  | some o => exact .inr ⟨o, rfl, h o hset⟩

@[simp] theorem enterAll_nil : m.enterAll [] = m := rfl

/-! ## Sets that finish -/

theorem finished_of_left (h : 0 < m.left) : m.finished = [] := by simp [finished, h]
theorem finished_of_idle (h : m.busy = false) : m.finished = [] := by simp [finished, h]
theorem finished_of_uncommitted (hcur : m.cur = true) (hcheck : m.checked = true) : m.finished = [] := by simp [finished, hcur, hcheck]

theorem rowGroup_whole {acc : BitVec 2} (h : acc ≠ 1) (r : Nat) : rowGroup acc r = 0 := if_neg h
theorem rowGroups_whole {acc : BitVec 2} (h : acc ≠ 1) (rows : Nat) : rowGroups acc rows = [0] := if_neg h

/-- With no check and a row still due an output tile that drains whole is not finished. -/
theorem finished_of_due (hcheck : m.checked = false) (hacc : m.acc ≠ 1) (hdue : m.due ≠ []) : m.finished = [] := by
  obtain ⟨y, ys, hys⟩ := List.exists_cons_of_ne_nil hdue
  simp [finished, hcheck, rowGroups_whole hacc, rowGroup_whole hacc, hys]

/-- With no check an output tile that drains whole is finished once its last stationary tile has no row due and no block is missing. -/
theorem finished_of_complete (hcheck : m.checked = false) (hacc : m.acc ≠ 1) (hdue : m.due = []) (hbusy : m.busy = true)
    (hleft : m.left = 0) (hback : m.back = false) (hblocks : m.blocksDue ≤ m.blocksAdded) (hset : m.shadowSet = none) :
    m.finished = [0] := by
  simp [finished, hcheck, rowGroups_whole hacc, hdue, hbusy, hleft, hback, hset, hblocks]

theorem rotate_of_unfinished (h : m.finished = []) : m.rotate = m := by simp [rotate, h]

/-- A rotation moves sums between the cells and the set beside them, and may leave the cells free. -/
theorem rotate_eq (m : Mx) : ∃ l f b o, m.rotate = { m with ledgers := l, f32 := f, busy := b, shadowSet := o } := by
  unfold rotate
  dsimp only
  split
  · split <;> exact ⟨_, _, _, _, rfl⟩
  · split <;> exact ⟨_, _, _, _, rfl⟩

theorem splitGroups_whole {α : Type} {acc : BitVec 2} (h : acc ≠ 1) (t : Tab α) : splitGroups acc [0] t = (t, []) := by
  simp [splitGroups, rowGroup_whole h]

/-- A finished output tile that drains whole leaves the cells free for the next one (R110). -/
theorem rotate_of_finished_whole (h : m.finished = [0]) (hacc : m.acc ≠ 1) (hset : m.shadowSet = none) :
    m.rotate = { m with ledgers := [], f32 := [], busy := false,
                        shadowSet := some { m.asSet with ledgers := m.ledgers, f32 := m.f32, ready := [0], mine := false } } := by
  simp [rotate, h, hset, splitGroups_whole hacc, rowGroups_whole hacc, asSet]

/-! ## Commit -/

/-- The commit of the tile before the swap keeps the pending sums of the tile in the cells. -/
theorem commitTile_of_back (h : m.back = true) : ∃ l f o, m.commitTile =
    { m with ledgers := l, f32 := f, shadowSet := o, pendCheck := [], back := false, mism := 0,
             readGens := (m.active.map (·.gens)).getD [] } := by
  unfold commitTile
  rw [if_pos h]
  dsimp only
  split
  · split <;> exact ⟨_, _, _, rfl⟩
  · exact ⟨_, _, _, rfl⟩

theorem commitTile_of_back_unchecked (h : m.back = true) (hu : m.Unchecked) : m.commitTile =
    { m.enterAll m.pendCheck with pendCheck := [], back := false, mism := 0, readGens := (m.active.map (·.gens)).getD [] } := by
  unfold commitTile
  rw [if_pos h]
  split
  · next o ho => simp [hu o ho]
  · rfl

theorem commitTile_of_cur (h : m.back = false) :
    m.commitTile = { m.enterAll m.pendTile with pendTile := [], cur := false, mism := 0, readGens := [] } := by
  simp [commitTile, h]

@[simp] theorem commitTile_mism : m.commitTile.mism = 0 := by
  cases h : m.back with
  | true =>
    obtain ⟨_, _, _, he⟩ := commitTile_of_back h
    rw [he]
  | false => rw [commitTile_of_cur h]

@[simp] theorem rotate_mism : m.rotate.mism = m.mism := by
  obtain ⟨_, _, _, _, h⟩ := m.rotate_eq
  rw [h]

@[simp] theorem rotate_shares (m : Mx) : m.rotate.shares = m.shares := by
  obtain ⟨_, _, _, _, h⟩ := m.rotate_eq
  rw [h]

theorem pass_of_awaits (h : m.awaits = true) : m.pass = m.commitTile.rotate := if_pos h

theorem pass_mism (h : m.awaits = true) : m.pass.mism = 0 := by rw [pass_of_awaits h, rotate_mism, commitTile_mism]

theorem pass_of_back (ha : m.awaits = true) (h : m.back = true) :
    m.pass.back = false ∧ m.pass.pendCheck = [] ∧ m.pass.pendTile = m.pendTile := by
  obtain ⟨_, _, _, hc⟩ := commitTile_of_back h
  obtain ⟨_, _, _, _, hr⟩ := m.commitTile.rotate_eq
  rw [pass_of_awaits ha, hr, hc]
  exact ⟨rfl, rfl, rfl⟩

theorem pass_of_cur (ha : m.awaits = true) (h : m.back = false) : m.pass.cur = false ∧ m.pass.pendTile = [] := by
  obtain ⟨_, _, _, _, hr⟩ := m.commitTile.rotate_eq
  rw [pass_of_awaits ha, hr, commitTile_of_cur h]
  exact ⟨rfl, rfl⟩

/-- With a checked tile in the cells the commit of the one before it adds the latter's pending sums to the ledgers. -/
theorem pass_ledgers_of_back (ha : m.awaits = true) (h : m.back = true) (hcur : m.cur = true) (hcheck : m.checked = true)
    (hu : m.Unchecked) : m.pass.ledgers = (m.enterAll m.pendCheck).ledgers := by
  have hfin : m.commitTile.finished = [] := by
    rw [commitTile_of_back_unchecked h hu]
    exact finished_of_uncommitted hcur hcheck
  rw [pass_of_awaits ha, rotate_of_unfinished hfin, commitTile_of_back_unchecked h hu]

/-! ## Retake -/

theorem restored_ledgers (h : m.Unchecked) : m.restored.ledgers = m.ledgers := by
  unfold restored
  dsimp only
  split
  · next o ho => simp [h o ho]
  · rfl

/-! ## Rows -/

/-- A row that is not the tile's last leaves its sums in the cells. -/
theorem landed_of_due (hcheck : m.checked = false) (hacc : m.acc ≠ 1) (hdue : m.due ≠ []) : m.landed = m := by
  have hempty : m.due.isEmpty = false := by simpa using hdue
  simp [landed, hempty, rotate_of_unfinished (finished_of_due hcheck hacc hdue)]

/-- The last row of an output tile that drains whole frees its set to drain. -/
theorem landed_of_complete (hcheck : m.checked = false) (hacc : m.acc ≠ 1) (hdue : m.due = []) (hbusy : m.busy = true)
    (hleft : m.left = 0) (hback : m.back = false) (hblocks : m.blocksDue ≤ m.blocksAdded) (hset : m.shadowSet = none) :
    m.landed.busy = false ∧ m.landed.ledgers = [] ∧
    m.landed.shadowSet = some { m.asSet with ledgers := m.ledgers, f32 := m.f32, ready := [0], mine := false } := by
  have hland : m.landed = { m with cur := false, readGens := [] }.rotate := by simp [landed, hcheck, hdue]
  have hfin : ({ m with cur := false, readGens := [] } : Mx).finished = [0] :=
    finished_of_complete hcheck hacc hdue hbusy hleft hback hblocks hset
  rw [hland, rotate_of_finished_whole hfin hacc hset]
  exact ⟨rfl, rfl, rfl⟩

/-- Rows that land change neither the rows due nor the sums pending. -/
theorem landed_eq (m : Mx) : ∃ l f b o cur gens, m.landed =
    { m with ledgers := l, f32 := f, busy := b, shadowSet := o, cur := cur, readGens := gens } := by
  unfold landed
  split
  · obtain ⟨_, _, _, _, h⟩ := rotate_eq { m with cur := false, readGens := [] }
    exact ⟨_, _, _, _, _, _, h⟩
  · obtain ⟨_, _, _, _, h⟩ := m.rotate_eq
    exact ⟨_, _, _, _, _, _, h⟩

/-- The matrix unit with row r latched (R108). -/
def latch (m : Mx) (r : Nat) : Mx := { m with due := m.due.filter (· ≠ r), latched := r :: m.latched, state := 2 }

/-- The matrix unit once row r has landed with contributions ps (R108, R329). -/
def takeRow (m : Mx) (r : Nat) (ps : List Pend) : Mx :=
  if m.checked then { m.latch r with pendTile := m.pendTile ++ ps } else ((m.latch r).enterAll ps).landed

section TakeRow

variable {r : Nat} {ps : List Pend}

theorem takeRow_due_latched (m : Mx) (r : Nat) (ps : List Pend) :
    (m.takeRow r ps).due = m.due.filter (· ≠ r) ∧ (m.takeRow r ps).latched = r :: m.latched := by
  unfold takeRow
  split
  · exact ⟨rfl, rfl⟩
  · obtain ⟨_, _, _, _, _, _, h⟩ := ((m.latch r).enterAll ps).landed_eq
    rw [h]
    exact ⟨rfl, rfl⟩

theorem takeRow_of_checked (hcheck : m.checked = true) :
    (m.takeRow r ps).pendTile = m.pendTile ++ ps ∧ (m.takeRow r ps).ledgers = m.ledgers := by
  rw [takeRow, if_pos hcheck]
  exact ⟨rfl, rfl⟩

theorem takeRow_of_unchecked (hcheck : m.checked = false) : m.takeRow r ps = ((m.latch r).enterAll ps).landed := by
  simp [takeRow, hcheck]

theorem takeRow_of_due (hcheck : m.checked = false) (hacc : m.acc ≠ 1) (hmore : ∃ y ∈ m.due, y ≠ r) :
    (m.takeRow r ps).ledgers = (m.enterAll ps).ledgers ∧ (m.takeRow r ps).f32 = (m.enterAll ps).f32 ∧
    (m.takeRow r ps).pendTile = m.pendTile := by
  obtain ⟨y, hy, hne⟩ := hmore
  have hdue : m.due.filter (· ≠ r) ≠ [] := List.ne_nil_of_mem (List.mem_filter.2 ⟨hy, by simpa using hne⟩)
  rw [takeRow_of_unchecked hcheck, landed_of_due (m := (m.latch r).enterAll ps) hcheck hacc hdue]
  exact ⟨rfl, rfl, rfl⟩

theorem takeRow_of_last (hcheck : m.checked = false) (hacc : m.acc ≠ 1) (hlast : ∀ y ∈ m.due, y = r) (hbusy : m.busy = true)
    (hleft : m.left = 0) (hback : m.back = false) (hblocks : m.blocksDue ≤ m.blocksAdded) (hset : m.shadowSet = none) :
    (m.takeRow r ps).busy = false ∧ (m.takeRow r ps).ledgers = [] ∧ ∃ o, (m.takeRow r ps).shadowSet = some o ∧ o.ready = [0] ∧
      o.ledgers = (m.enterAll ps).ledgers ∧ o.f32 = (m.enterAll ps).f32 := by
  have hdue : m.due.filter (· ≠ r) = [] := List.filter_eq_nil_iff.2 (fun y hy => by simp [hlast y hy])
  obtain ⟨hfree, hempty, ho⟩ := landed_of_complete (m := (m.latch r).enterAll ps) hcheck hacc hdue hbusy hleft hback hblocks hset
  rw [takeRow_of_unchecked hcheck]
  exact ⟨hfree, hempty, _, ho, rfl, rfl, rfl⟩

end TakeRow

/-! ## Arriving blocks -/

/-- The matrix unit once an arriving block has entered (R114): pending while the tile in the cells is checked. -/
def addBlock (m : Mx) (ps : List Pend) : Mx :=
  let m := { m with blocksAdded := m.blocksAdded + 1 }
  if m.cur && m.checked then { m with pendTile := m.pendTile ++ ps } else (m.enterAll ps).rotate

section AddBlock

variable {ps : List Pend}

theorem addBlock_blocksAdded (m : Mx) (ps : List Pend) : (m.addBlock ps).blocksAdded = m.blocksAdded + 1 := by
  unfold addBlock
  dsimp only
  split
  · rfl
  · obtain ⟨_, _, _, _, h⟩ := rotate_eq (enterAll { m with blocksAdded := m.blocksAdded + 1 } ps)
    rw [h]
    rfl

theorem addBlock_of_checked (hcur : m.cur = true) (hcheck : m.checked = true) :
    (m.addBlock ps).ledgers = m.ledgers ∧ (m.addBlock ps).pendTile = m.pendTile ++ ps := by
  simp [addBlock, hcur, hcheck]

/-- A block whose tile is not checked enters at once, and no set is finished while stationary tiles are still to come. -/
theorem addBlock_of_unchecked (h : m.cur = false ∨ m.checked = false) (hleft : 0 < m.left) :
    (m.addBlock ps).ledgers = (m.enterAll ps).ledgers ∧ (m.addBlock ps).pendTile = m.pendTile := by
  have hskip : (m.cur && m.checked) = false := by obtain h | h := h <;> simp [h]
  have hfin : (enterAll { m with blocksAdded := m.blocksAdded + 1 } ps).finished = [] := finished_of_left hleft
  simp only [addBlock, hskip, Bool.false_eq_true, if_false, rotate_of_unfinished hfin]
  exact ⟨rfl, rfl⟩

end AddBlock

/-! ## Drained sets -/

theorem drained_shares (m : Mx) (o : DrainSet) (g : Nat) : (m.drained o g).shares = m.shares := rotate_shares _

/-- The last group leaves an idle unit without a set (R110, R124). -/
theorem drained_of_last {o : DrainSet} {g : Nat} (hready : o.ready = [g]) (htodo : o.todo = []) (hidle : m.busy = false) :
    (m.drained o g).shadowSet = none ∧ (m.drained o g).state = if m.shadow.isSome then 1 else 0 := by
  have hlast : [g].filter (· ≠ g) = [] := by simp
  have hrot : Mx.rotate { m with shadowSet := none } = { m with shadowSet := none } := rotate_of_unfinished (finished_of_idle hidle)
  simp only [drained, hready, htodo, hlast, List.isEmpty_nil, Bool.and_self, if_true, hrot]
  simp [hidle]

/-! ## A new output tile -/

/-- An output tile with no initial values begins with empty cells. -/
theorem begin_sums_of_no_bias (m : Mx) (f : TileStart) (t : StatTile) (checked : Bool) :
    (m.begin f t checked []).ledgers = [] ∧ (m.begin f t checked []).f32 = [] := by
  by_cases hacc : f.acc = 2 <;> simp [Mx.begin, hacc]

/-- What a new output tile brings, whatever its initial values. -/
theorem begin_brings (m : Mx) (f : TileStart) (t : StatTile) (checked : Bool) (init : List Pend) :
    (m.begin f t checked init).acc = f.acc ∧ (m.begin f t checked init).wbase = f.wbase ∧ (m.begin f t checked init).busy = true ∧
    (m.begin f t checked init).rowsN = f.rows ∧ (m.begin f t checked init).left = f.tiles - 1 := by
  by_cases hacc : f.acc = 2
  · simp only [Mx.begin, if_pos hacc, and_self]
  · simp only [Mx.begin, if_neg hacc, enterAll, and_self]

/-- The output tile before, when its last tile awaits its check, leaves its committed sums beside the cells (R110). -/
theorem begin_shadowSet_of_busy (h : m.busy = true) (f : TileStart) (t : StatTile) (checked : Bool) (init : List Pend) :
    ∃ o, (m.begin f t checked init).shadowSet = some o ∧ o.ledgers = m.ledgers ∧ o.check = true := by
  by_cases hacc : f.acc = 2
  · simp only [Mx.begin, if_pos hacc, h, if_true]
    exact ⟨_, rfl, rfl, rfl⟩
  · simp only [Mx.begin, if_neg hacc, h, if_true, enterAll]
    exact ⟨_, rfl, rfl, rfl⟩

end Mx

end Sys2Proof.Machine
end

section
/-!
The events inside a core, case by case: what each does to the core it names when the core runs (R105 to R118, R327 to R331, R510).
-/
namespace Sys2Proof.Machine

/-! ## What the events are made of -/

/-- The governor's measure of a tile touches two counters of the core (R337). -/
theorem measureTile_core (s : State) (c : CoreId) (cycles : Nat) :
    ∃ n r, (s.measureTile c.key cycles).core c = { s.core c with slowTile := n, mx := { (s.core c).mx with slowRun := r } } := by
  unfold State.measureTile
  dsimp only
  split
  · exact ⟨_, _, rfl⟩
  · rw [State.modCoreK_key, State.modCore_same]
    exact ⟨_, _, rfl⟩

theorem measureTile_hbm (s : State) (k cycles : Nat) : (s.measureTile k cycles).hbm = s.hbm := by
  unfold State.measureTile
  dsimp only
  split <;> rfl

/-- The state after a swap that leaves the matrix unit of core c at m: the tile before is measured, and the new one counts. -/
def State.swapped (s : State) (c : CoreId) (cycles : Nat) (m : Mx) : State :=
  (if (s.core c).mx.active.isSome then s.measureTile c.key cycles else s).modCoreK c.key
    (fun v => { v with mxTiles := satInc v.mxTiles, mx := { m with slowRun := v.mx.slowRun } })

/-- A swap from s to t leaves the matrix unit of core c at m, but for the governor's count of slow tiles. -/
structure SwapsTo (s t : State) (c : CoreId) (m : Mx) : Prop where
  mx : ∃ r, (t.core c).mx = { m with slowRun := r }
  mxTiles : (t.core c).mxTiles = satInc (s.core c).mxTiles
  hbm : t.hbm = s.hbm

theorem swapped_swapsTo (s : State) (c : CoreId) (cycles : Nat) (m : Mx) : SwapsTo s (s.swapped c cycles m) c m := by
  unfold State.swapped
  split
  · obtain ⟨n, r, h⟩ := measureTile_core s c cycles
    exact ⟨⟨_, by rw [State.modCoreK_key, State.modCore_same]⟩, by rw [State.modCoreK_key, State.modCore_same, h],
      measureTile_hbm s c.key cycles⟩
  · exact ⟨⟨_, by rw [State.modCoreK_key, State.modCore_same]⟩, by rw [State.modCoreK_key, State.modCore_same], rfl⟩

/-- The matrix unit of a core as it begins an output tile whose epilogue is that of p, with bias b (R110, R167). -/
def State.beginTile (s : State) (v : Core) (f : TileStart) (t : StatTile) (p : Prod) (b : List Byte) : Mx :=
  v.mx.begin f t (tileChecked (s.coreMode v) v.whose.2.toNat f) (tileInitial f p b (min 32 t.codes.length))

theorem beginTile_brings (s : State) (v : Core) (f : TileStart) (t : StatTile) (p : Prod) (b : List Byte) :
    (s.beginTile v f t p b).acc = f.acc ∧ (s.beginTile v f t p b).wbase = f.wbase ∧ (s.beginTile v f t p b).busy = true ∧
    (s.beginTile v f t p b).rowsN = f.rows ∧ (s.beginTile v f t p b).left = f.tiles - 1 := Mx.begin_brings ..

theorem beginTile_sums_of_no_bias (s : State) (v : Core) (f : TileStart) (t : StatTile) {p : Prod} (b : List Byte) (h : p.bias ≠ 1) :
    (s.beginTile v f t p b).ledgers = [] ∧ (s.beginTile v f t p b).f32 = [] := by
  rw [State.beginTile, tileInitial, if_pos h]
  exact Mx.begin_sums_of_no_bias ..

theorem retakeOn_get_core (s : State) (c d : CoreId) : (s.retakeOn c.key).core d = if d = c then
    { s.core d with mxMism := satInc (s.core d).mxMism, retakes := satInc (s.core d).retakes,
                    mxDiscard := satAdd (s.core d).mxDiscard (s.core d).mx.lostTiles, mx := (s.core d).mx.retake }
    else s.core d := by
  simp only [State.retakeOn, State.modCoreK_get_core, CoreId.key_inj]

theorem pairPassed_of_fresh {s : State} {c : CoreId} (h : (s.core c).vxTry = 0) : s.pairPassed c.key = s := by
  simp [State.pairPassed, h]

theorem pair_agrees {mode : Nat} {agree : Bool} (h : pairedMode mode = false ∨ agree = true) : (pairedMode mode && !agree) = false := by
  obtain h | h := h <;> simp [h]

/-- What the elements of an arriving block add to the cells of a row (R96, R114). -/
def blockPends (row : Nat) (b : L96Block) : List Pend :=
  (List.range 32).map (fun i =>
    { cell := row * 32 + i, add := (b.elems.getD i .empty).contrib b.bexp, wloss := b.wloss, arriving := true })

theorem blockPends_length (row : Nat) (b : L96Block) : (blockPends row b).length = 32 := by simp [blockPends]
theorem blockPends_arriving (row : Nat) (b : L96Block) : ∀ q ∈ blockPends row b, q.arriving = true := by simp [blockPends]

/-- The product whose blocks core d forms: the one that drains there, or the one in its cells (R510). -/
def State.shareProd (s : State) (d : CoreId) : Except Half Prod :=
  match (s.core d).mx.shadowSet with
  | some o => drainProduct o.acc o.stat o.desc (s.coreEval (s.core d))
  | none => drainProduct (s.core d).mx.acc (s.core d).mx.stat (s.core d).mx.desc (s.coreEval (s.core d))

/-- The shares of a block stand with core d, and no longer with core c. -/
def State.sharesMoved (s : State) (c d : CoreId) (blk : Nat) : State :=
  (s.modMx c (fun m => { m with shares := m.shares.filter (fun x => x.1 ≠ blk) })).modMx d
    (fun m => { m with shares := m.shares ++ (s.core c).mx.shares.filter (fun x => x.1 == blk) })

theorem sharesMoved_lacksShare (s : State) {c d : CoreId} (h : d ≠ c) (blk : Nat) : ((s.sharesMoved c d blk).core c).LacksShare blk := by
  have hkey : c.key ≠ d.key := fun hk => h (CoreId.key_inj.1 hk).symm
  unfold State.sharesMoved State.modMx
  rw [State.modCore_other _ _ _ hkey, State.modCore_same]
  intro x hx
  simpa using (List.mem_filter.1 hx).2

section Events

variable {s : State} {c : CoreId} (hrun : s.coreRuns c = true)
include hrun

/-! ## The shadow load -/

theorem shadowLoadComplete_enters {t : StatTile} (hempty : (s.core c).mx.shadow = none) (hindex : tileIndexBad t = false)
    (hfresh : ((s.core c).mx.mism = 0 ∧ (s.core c).votes = 0) ∨ s.tileStale (s.core c).mx t = false) :
    shadowLoadComplete c t s = s.modMx c (fun m => { m with shadow := some t, state := if m.state = 0 then 1 else m.state }) := by
  have hpass : ((decide (0 < (s.core c).mx.mism) || decide (0 < (s.core c).votes)) && s.tileStale (s.core c).mx t) = false := by
    obtain ⟨hmism, hvotes⟩ | hstale := hfresh
    · simp [hmism, hvotes]
    · simp [hstale]
  simp [shadowLoadComplete, hrun, hempty, hindex, hpass]

section BadTile

variable {t : StatTile} (hempty : (s.core c).mx.shadow = none)
  (hbad : tileIndexBad t = true ∨ (0 < (s.core c).mx.mism ∧ s.tileStale (s.core c).mx t = true))
include hempty hbad

/-- Bad indices fail the part (R129), and so does a block that a retake finds changed, once the fault is logged (R117). -/
theorem shadowLoadComplete_fails :
    ∃ u st, LogOnly s u ∧ st ≠ stOperandRange ∧ shadowLoadComplete c t s = u.failAccess c.key st 0 := by
  cases hindex : tileIndexBad t with
  | true => exact ⟨s, 0x0307, .refl s, by decide, by simp [shadowLoadComplete, hrun, hempty, hindex]⟩
  | false =>
    obtain ⟨hmism, hstale⟩ := hbad.resolve_left (by simp [hindex])
    have hlog := fault_logOnly s
      { status := 0x0306, kind := 6, outcome := 3, loc := locCore c.key, reel := (s.core c).whose.1, seq := (s.core c).whose.2 }
    exact ⟨_, 0x0306, hlog, by decide, by simp [shadowLoadComplete, hrun, hempty, hindex, hmism, hstale]⟩

theorem shadowLoadComplete_partFails (hpart : (s.core c).part ≠ none) (hq : NoQueuedParts s) :
    PartFails s (shadowLoadComplete c t s) c := by
  obtain ⟨u, st, hlog, hst, he⟩ := shadowLoadComplete_fails hrun hempty hbad
  have hpartu : (u.core c).part ≠ none := by rwa [hlog.core]
  obtain ⟨hpstate, hnone, hmx⟩ := failAccess_partFails (hq.of_tracked hlog.tracked) hpartu hst 0
  rw [he]
  exact ⟨hpstate, hnone, by rw [hmx, hlog.core]⟩

end BadTile

/-! ## The swap -/

section Swap

variable {t : StatTile} {due : SwapIn} (cyc : Nat) (hshadow : (s.core c).mx.shadow = some t) (hebtor : s.ebtor = true)
include hshadow hebtor

theorem tileSwap_waits_for_rows (hdue : (s.core c).mx.due ≠ []) :
    tileSwap c due cyc s = s.modMx c (fun m => { m with state := 4 }) := by
  simp [tileSwap, hrun, hshadow, hebtor, hdue]

variable (hdue : (s.core c).mx.due = [])
include hdue

theorem tileSwap_waits_for_grant (hgrant : s.waitsGrant c.key = true) :
    tileSwap c due cyc s = s.modMx c (fun m => { m with state := 3 }) := by
  simp [tileSwap, hrun, hshadow, hebtor, hdue, hgrant]

variable (hgrant : s.waitsGrant c.key = false)
include hgrant

theorem tileSwap_waits_for_check (hback : (s.core c).mx.back = true) : tileSwap c due cyc s = s := by
  simp [tileSwap, hrun, hshadow, hebtor, hdue, hgrant, hback]

variable (hback : (s.core c).mx.back = false)
include hback

/-- With stationary tiles of its reduction still to come, the output tile in the cells goes on (R105). -/
theorem tileSwap_continues (hfence : (s.core c).fenceNext = none) (hfirst : due.first = none) (hbusy : (s.core c).mx.busy = true)
    (hleft : 0 < (s.core c).mx.left) : SwapsTo s (tileSwap c due cyc s) c
      ({ (s.core c).mx with left := (s.core c).mx.left - 1 }.swap t due.rows ((s.core c).mx.cur && (s.core c).mx.checked)) := by
  have hne : (s.core c).mx.left ≠ 0 := by omega
  have hswap : tileSwap c due cyc s = s.swapped c cyc
      ({ (s.core c).mx with left := (s.core c).mx.left - 1 }.swap t due.rows ((s.core c).mx.cur && (s.core c).mx.checked)) := by
    simp [tileSwap, State.swapped, hrun, hshadow, hebtor, hdue, hgrant, hback, hfence, hfirst, hbusy, hne]
  rw [hswap]
  exact swapped_swapsTo ..

variable {f : TileStart} (hfirst : due.first = some f) (hleft : (s.core c).mx.left = 0) (hheld : (s.core c).mx.held = none)
include hfirst hleft hheld

theorem tileSwap_waits_for_set (hbusy : (s.core c).mx.busy = true) (hset : (s.core c).mx.shadowSet ≠ none) :
    tileSwap c due cyc s = s.modMx c (fun m => { m with state := 4 }) := by
  have hsome : (s.core c).mx.shadowSet.isSome = true := Option.isSome_iff_ne_none.2 hset
  simp [tileSwap, hrun, hshadow, hebtor, hdue, hgrant, hback, hfirst, hleft, hheld, hbusy, hsome]

/-- With the cells or the set beside them free, an output tile begins (R110). -/
theorem tileSwap_begins {p : Prod} {b : List Byte} (hfence : (s.core c).fenceNext = none)
    (hblocks : (s.core c).mx.blocksDue ≤ (s.core c).mx.blocksAdded)
    (hp : drainProduct f.acc f.stat f.desc (s.coreEval (s.core c)) = .ok p)
    (hb : p.readBias (s.coreReader (s.core c) []) = .ok b) (hfree : (s.core c).mx.busy = false ∨ (s.core c).mx.shadowSet = none) :
    SwapsTo s (tileSwap c due cyc s) c
      ((s.beginTile (s.core c) f t p b).swap t due.rows ((s.core c).mx.cur && (s.core c).mx.checked)) := by
  have hfits : (decide ((s.core c).mx.blocksAdded < (s.core c).mx.blocksDue) ||
      ((s.core c).mx.busy && (s.core c).mx.shadowSet.isSome)) = false := by
    obtain h | h := hfree <;> simp [h, hblocks]
  have hswap : tileSwap c due cyc s = s.swapped c cyc
      ((s.beginTile (s.core c) f t p b).swap t due.rows ((s.core c).mx.cur && (s.core c).mx.checked)) := by
    simp [tileSwap, State.swapped, State.beginTile, hrun, hshadow, hebtor, hdue, hgrant, hback, hfence, hfirst, hleft, hheld, hfits,
      hp, hb]
  rw [hswap]
  exact swapped_swapsTo ..

end Swap

/-! ## Rows -/

section Rows

variable {arr : Fin 4} {x : StreamRow} {t : StatTile} (hactive : (s.core c).mx.active = some t) (harr : x.row % 4 = arr.val)
  (hdue : x.row ∈ (s.core c).mx.due)
include hactive harr hdue

theorem rowLatch_waits (htakes : (s.core c).mx.takesRow x.row = false) :
    rowLatch c arr x s = s.modMx c (fun m => { m with state := 4 }) := by
  simp [rowLatch, hactive, hrun, harr, hdue, htakes]

theorem rowLatch_latches {ps : List Pend} {n : Nat} (htakes : (s.core c).mx.takesRow x.row = true)
    (hps : rowContribs (s.core c).mx t x = some (ps, n)) :
    ((rowLatch c arr x s).core c).mx = (s.core c).mx.takeRow x.row ps ∧
    ((rowLatch c arr x s).core c).mxMacs = satAdd (s.core c).mxMacs n := by
  have hguard : (!s.coreRuns c || decide (x.row % 4 ≠ arr.val) || !(s.core c).mx.due.contains x.row) = false := by
    simp [hrun, harr, hdue]
  unfold rowLatch
  dsimp only
  split
  · next hnone => simp [hactive] at hnone
  · next t' ht =>
    cases hactive.symm.trans ht
    simp only [hguard, htakes, hps, Bool.not_true, Bool.false_eq_true, if_false, State.modCore_same]
    exact ⟨rfl, trivial⟩

end Rows

/-! ## Checks -/

section Checks

variable (hmode : s.coreMode (s.core c) ≠ 0) (hawaits : (s.core c).mx.awaits = true)
include hmode hawaits

/-- Agreement commits; a mismatch that the commit has absorbed counts as a transient (R330). -/
theorem tileCheck_agrees : ∃ ts, ((tileCheck c true s).core c).mx = { (s.core c).mx.pass with transients := ts } := by
  simp only [tileCheck, hrun, hawaits, hmode, decide_false, Bool.not_true, Bool.or_false, Bool.false_eq_true, if_false, if_true]
  split
  · simp only [State.transient, State.modCoreK_key, State.modCore_same, (fault_logOnly ..).core, State.modMx_same]
    exact ⟨_, rfl⟩
  · rw [State.modMx_same]
    exact ⟨_, rfl⟩

theorem tileCheck_first_mismatch (hmism : (s.core c).mx.mism = 0) :
    tileCheck c false s = (s.retakeOn c.key).modMx c (fun m => { m with mism := 1 }) := by
  simp [tileCheck, hrun, hawaits, hmode, hmism]

end Checks

section Mirror

variable {p : CoreId} {r : ShotRef} {i : Nat} (hpartner : (s.core c).partner = some p) (hpart : (s.core c).part = some (r, i))
  (hmode : s.coreMode (s.core c) = 4) (th : Option (CoreId × Dword))
include hpartner hpart hmode

theorem mirrorVote_equal (a : Dword) :
    ((mirrorVote c a a th s).core c).mx = (s.core c).mx.pass ∧ ((mirrorVote c a a th s).core c).votes = 0 := by
  simp only [mirrorVote, hpartner, hpart, hrun, hmode, ne_eq, not_true_eq_false, decide_false, Bool.not_true, Bool.or_self,
    Bool.false_eq_true, if_false, if_true]
  split <;> simp [(fault_logOnly ..).core]

/-- A first difference retakes on both cores of the pair. -/
theorem mirrorVote_first_difference {a b : Dword} (hab : a ≠ b) (hpc : p ≠ c) (hvotes : (s.core c).votes = 0) {d : CoreId}
    (hd : d = c ∨ d = p) :
    ((mirrorVote c a b th s).core d).mx = (s.core d).mx.retake ∧ ((mirrorVote c a b th s).core d).votes = 1 := by
  have hretake : mirrorVote c a b th s = (((s.retakeOn c.key).retakeOn p.key).modCoreK c.key (fun v => { v with votes := 1 })).modCoreK
      p.key (fun v => { v with votes := 1 }) := by
    simp [mirrorVote, hpartner, hpart, hrun, hmode, hab, hvotes]
  rw [hretake]
  simp only [State.modCoreK_get_core, retakeOn_get_core, CoreId.key_inj]
  obtain rfl | rfl := hd
  · simp [hpc.symm]
  · simp [hpc]

end Mirror

/-! ## Arriving sums -/

section Sums

variable {row : Nat} {blk : List Byte} {agree : Bool} (hagree : pairedMode (s.coreMode (s.core c)) = false ∨ agree = true)
  (hu : (s.core c).mx.Unchecked)
include hagree hu

theorem arrivingSumAdd_enters {b : L96Block} (hfresh : (s.core c).vxTry = 0) (hb : L96Block.decode (bytesAt blk 0 400) = some b) :
    arrivingSumAdd c row blk agree s = s.modMx c (·.addBlock (blockPends row b)) := by
  obtain hset | ⟨o, hset, hcheck⟩ := hu.cases
  · simp only [arrivingSumAdd, hrun, hset, pair_agrees hagree, hb, pairPassed_of_fresh hfresh, Bool.not_true, Bool.or_false,
      Bool.false_eq_true, if_false]
    rfl
  · simp only [arrivingSumAdd, hrun, hset, hcheck, pair_agrees hagree, hb, pairPassed_of_fresh hfresh, Bool.not_true, Bool.or_false,
      Bool.false_eq_true, if_false]
    rfl

theorem arrivingSumAdd_rejects (hb : L96Block.decode (bytesAt blk 0 400) = none) :
    arrivingSumAdd c row blk agree s = s.failAccess c.key stTransport 0 := by
  obtain hset | ⟨o, hset, hcheck⟩ := hu.cases
  · simp [arrivingSumAdd, hrun, hset, pair_agrees hagree, hb]
  · simp [arrivingSumAdd, hrun, hset, hcheck, pair_agrees hagree, hb]

end Sums

/-! ## Drain and shares -/

theorem ledgerDrain_waits_for_blocks {agree : Bool} (hheld : (s.core c).mx.held = none) (hset : (s.core c).mx.shadowSet = none)
    (hbusy : (s.core c).mx.busy = true) (hleft : (s.core c).mx.left = 0) (hdue : (s.core c).mx.due = [])
    (hblocks : (s.core c).mx.blocksAdded < (s.core c).mx.blocksDue) :
    ledgerDrain c agree s = s.modMx c (fun m => { m with state := 4 }) := by
  simp [ledgerDrain, hrun, hheld, hset, hbusy, hleft, hdue, hblocks]

/-- A group that drains through its epilogue commits its part and leaves its set; with no share to keep, no block is split (R110,
R172). -/
theorem ledgerDrain_commits {agree : Bool} {o : DrainSet} {g : Nat} {rest : List Nat} {p : Prod} {b : List Byte} {x : Worked} {u : State}
    (hheld : (s.core c).mx.held = none) (hset : (s.core c).mx.shadowSet = some o) (hcheck : o.check = false)
    (hready : o.ready = g :: rest) (hfresh : (s.core c).vxTry = 0)
    (hagree : pairedMode (s.coreMode (s.core c)) = false ∨ agree = true) (hshares : (s.core c).mx.shares = [])
    (hp : drainProduct o.acc o.stat o.desc (s.coreEval (s.core c)) = .ok p) (hb : p.readBias (s.coreReader (s.core c) []) = .ok b)
    (hx : (drainJob p).finish (s.coreReader (s.core c) []) b (o.tile g) (o.result g) = .ok x)
    (hwhole : tileShares p o.stat (o.tile g) x.terms (fun i n => (cellAt o.stat [(o.tile g, (.ok x : Tried))] i n).2) = [])
    (hcommit : s.runParts (s.core c).req (s.core c).taint (s.core c).whose.1 (s.core c).whose.2
      [((drainJob p).outcome 1 [(o.tile g, .ok x)]).headD {}] = some (u, [none])) :
    (ledgerDrain c agree s).hbm = u.hbm ∧ ((ledgerDrain c agree s).core c).mx = (s.core c).mx.drained o g := by
  obtain ⟨hlog, -⟩ := runParts_keeps hcommit
  generalize hpart : ((drainJob p).outcome 1 [(o.tile g, (.ok x : Tried))]).headD {} = part at hcommit
  generalize hw : u.afterCommit (s.core c) c.key part = w
  have hmx : (w.core c).mx = (s.core c).mx := by rw [← hw, afterCommit_mx, hlog.core]
  have hpass : w.pairPassed c.key = w := pairPassed_of_fresh (by rw [← hw, afterCommit_vxTry, hlog.core, hfresh])
  have hkeeps : ∀ m : Mx, { m.drained o g with shares := m.shares } = m.drained o g := fun m => by rw [← Mx.drained_shares m o g]
  have hdrain : ledgerDrain c agree s = s.settleIss c.key ((w.modMx c (·.drained o g)).formBlocks c.key p) := by
    simp only [ledgerDrain, hrun, hheld, hset, hcheck, hready, hp, pair_agrees hagree, hb, hx, hwhole, hpart, bind, Except.bind,
      Iss.ofRead, commitInstr_of_runParts hcommit, hw, hpass, State.modCoreK_key, Option.isSome_none, Bool.not_true, Bool.or_self,
      Bool.false_eq_true, if_false, List.head?_cons, List.append_nil, hkeeps]
    rfl
  have hnone : ((w.modMx c (·.drained o g)).coreK c.key).mx.shares = [] := by
    rw [State.coreK_key, State.modMx_same, Mx.drained_shares, hmx, hshares]
  obtain ⟨t, ht, hhbm, hcore⟩ := formBlocks_of_no_shares hnone p
  have hwhbm : w.hbm = u.hbm := by rw [← hw, afterCommit_hbm]
  rw [hdrain, ht]
  exact ⟨hhbm.trans hwhbm, (hcore c).trans (by rw [State.modMx_same, hmx])⟩

theorem sharePass_leaves {d : CoreId} {blk : Nat} {p : Prod} (hdc : d ≠ c) (hrund : s.coreRuns d = true)
    (hshare : ∃ x ∈ (s.core c).mx.shares, x.1 = blk) (hp : s.shareProd d = .ok p) :
    ((sharePass c d blk s).core c).LacksShare blk := by
  have hmine : ((s.core c).mx.shares.filter (fun x => x.1 == blk)).isEmpty = false := by
    obtain ⟨x, hx, rfl⟩ := hshare
    exact List.isEmpty_eq_false_iff_exists_mem.2 ⟨x, List.mem_filter.2 ⟨hx, by simp⟩⟩
  have hpass : sharePass c d blk s = (s.sharesMoved c d blk).settleIss d.key ((s.sharesMoved c d blk).formBlocks d.key p) := by
    unfold State.shareProd at hp
    cases hset : (s.core d).mx.shadowSet <;> simp only [hset] at hp <;>
      simp only [sharePass, State.sharesMoved, hset, hp, hrun, hrund, hmine, Bool.not_true, Bool.or_self, Bool.false_eq_true, if_false]
  rw [hpass]
  exact settleIss_formBlocks_lacksShare (sharesMoved_lacksShare s hdc blk) d.key p

end Events

end Sys2Proof.Machine
end

section
/-!
The obligation on the events inside a core, clause by clause.
-/
namespace Sys2Proof.Machine

/-- Settles O52: each event of a core that runs, by the case its clause names. -/
theorem matrixEventsLoadCheckAndDrain : Obligations.MatrixEventsLoadCheckAndDrain := by
  unfold Obligations.MatrixEventsLoadCheckAndDrain
  rintro s c v rfl hrun m mode unchecked state
  refine ⟨?load, ?loadFails, ?swap, ?row, ?check, ?mirror, ?sums, ?waits, ?drain, ?share⟩
  case load =>
    intro t hempty hindex hfresh
    exact congrArg Host.Outcome.next (shadowLoadComplete_enters hrun hempty hindex hfresh)
  case loadFails =>
    intro t hempty hbad hpart hq
    obtain ⟨hpstate, hnone, hmx⟩ := shadowLoadComplete_partFails hrun hempty hbad hpart hq
    exact ⟨_, rfl, hpstate, hnone, by rw [hmx]; exact hempty⟩
  case swap =>
    intro t due cyc hshadow hebtor
    refine ⟨fun hdue => ?_, fun hdue hgrant => ?_, fun hdue hgrant hback => ?_,
      fun hdue hgrant hback hfence hfirst hbusy hleft => ?_,
      fun f p b hdue hgrant hback hfence hfirst hleft hheld hblocks hp hb => ⟨fun hbusy hset => ?_, fun hfree => ?_⟩⟩
    · exact congrArg Host.Outcome.next (tileSwap_waits_for_rows hrun cyc hshadow hebtor hdue)
    · exact congrArg Host.Outcome.next (tileSwap_waits_for_grant hrun cyc hshadow hebtor hdue hgrant)
    · exact congrArg Host.Outcome.next (tileSwap_waits_for_check hrun cyc hshadow hebtor hdue hgrant hback)
    · obtain ⟨⟨r, hmx⟩, htiles, hhbm⟩ := tileSwap_continues hrun cyc hshadow hebtor hdue hgrant hback hfence hfirst hbusy hleft
      refine ⟨_, rfl, ?_⟩
      rw [hmx, htiles, hhbm]
      refine ⟨rfl, rfl, rfl, rfl, rfl, rfl, rfl, rfl, rfl, fun hcur hcheck => ?_⟩
      rw [hcur, hcheck]
      exact ⟨rfl, rfl, rfl⟩
    · exact congrArg Host.Outcome.next (tileSwap_waits_for_set hrun cyc hshadow hebtor hdue hgrant hback hfirst hleft hheld hbusy hset)
    · obtain ⟨⟨r, hmx⟩, -, hhbm⟩ := tileSwap_begins hrun cyc hshadow hebtor hdue hgrant hback hfirst hleft hheld hfence hblocks
        hp hb hfree
      obtain ⟨hacc, hwbase, hbegun, hrows, htiles⟩ := beginTile_brings s (s.core c) f t p b
      refine ⟨_, rfl, ?_⟩
      rw [hmx, hhbm]
      exact ⟨rfl, rfl, rfl, rfl, rfl, htiles, hacc, hwbase, hbegun, hrows, rfl, beginTile_sums_of_no_bias s _ f t b,
        fun hbusy => Mx.begin_shadowSet_of_busy hbusy ..⟩
  case row =>
    intro arr x t ps n hactive harr hdue
    refine ⟨fun htakes => congrArg Host.Outcome.next (rowLatch_waits hrun hactive harr hdue htakes), fun htakes hps => ?_⟩
    obtain ⟨hmx, hmacs⟩ := rowLatch_latches hrun hactive harr hdue htakes hps
    obtain ⟨hrows, hlatched⟩ := m.takeRow_due_latched x.row ps
    refine ⟨_, rfl, ?_⟩
    rw [hmx, hmacs]
    exact ⟨hrows, hlatched, rfl, Mx.takeRow_of_checked, Mx.takeRow_of_due, Mx.takeRow_of_last⟩
  case check =>
    intro hmode hawaits
    refine ⟨?_, fun hmism => ?_⟩
    · obtain ⟨ts, hmx⟩ := tileCheck_agrees hrun hmode hawaits
      refine ⟨_, rfl, ?_⟩
      rw [hmx]
      exact ⟨by rw [← Mx.pass_of_awaits hawaits], by rw [← Mx.pass_of_awaits hawaits], Mx.pass_mism hawaits, Mx.pass_of_back hawaits,
        Mx.pass_ledgers_of_back hawaits, Mx.pass_of_cur hawaits⟩
    · refine ⟨_, congrArg Host.Outcome.next (tileCheck_first_mismatch hrun hmode hawaits hmism), ?_⟩
      rw [State.modMx_same, retakeOn_get_core, if_pos rfl]
      exact ⟨Mx.restored_ledgers, rfl, rfl, fun p hp => (List.mem_filter.1 hp).2, rfl, rfl, rfl, rfl, rfl, rfl⟩
  case mirror =>
    intro p r i a b th hpartner hpc hpart hmode
    refine ⟨?_, fun hab hvotes => ?_⟩
    · rintro rfl
      exact ⟨_, rfl, mirrorVote_equal hrun hpartner hpart hmode th a⟩
    · obtain ⟨hmx, hvote⟩ := mirrorVote_first_difference hrun hpartner hpart hmode th hab hpc hvotes (.inl rfl)
      obtain ⟨hmxp, hvotep⟩ := mirrorVote_first_difference hrun hpartner hpart hmode th hab hpc hvotes (.inr rfl)
      refine ⟨_, rfl, hvote, hvotep, ?_⟩
      rw [hmx, hmxp]
      exact ⟨Mx.restored_ledgers, Mx.restored_ledgers, rfl, rfl⟩
  case sums =>
    intro row blk agree hagree hfresh hu
    refine ⟨fun b hb => ?_, fun hb hpart hq => ?_⟩
    · refine ⟨_, blockPends row b, congrArg Host.Outcome.next (arrivingSumAdd_enters hrun hagree hu hfresh hb), ?_⟩
      rw [State.modMx_same]
      exact ⟨Mx.addBlock_blocksAdded .., blockPends_length .., blockPends_arriving row b, Mx.addBlock_of_checked,
        Mx.addBlock_of_unchecked⟩
    · obtain ⟨hpstate, hnone, -⟩ := failAccess_partFails hq hpart (by decide : stTransport ≠ stOperandRange) 0
      exact ⟨_, congrArg Host.Outcome.next (arrivingSumAdd_rejects hrun hagree hu hb), hpstate, hnone⟩
  case waits =>
    intro agree hheld hset hbusy hleft hdue hblocks
    exact congrArg Host.Outcome.next (ledgerDrain_waits_for_blocks hrun hheld hset hbusy hleft hdue hblocks)
  case drain =>
    intro agree o g rest p b x u t ws hheld hset hcheck hready hfresh hagree hshares hp hb hx hwhole hcommit
    obtain ⟨hhbm, hmx⟩ := ledgerDrain_commits hrun hheld hset hcheck hready hfresh hagree hshares hp hb hx hwhole hcommit
    refine ⟨_, rfl, hhbm, ?_⟩
    rw [hmx]
    refine ⟨(Mx.drained_shares ..).trans hshares, ?_⟩
    rintro rfl htodo hidle
    exact Mx.drained_of_last hready htodo hidle
  case share =>
    intro d blk p hdc hrund hshare w hp
    exact ⟨_, rfl, sharePass_leaves hrun hdc hrund hshare hp⟩

end Sys2Proof.Machine
end

section
/-!
The shots on recipe tables and cast entries that a step boundary may have to wait for (R184, R188, R198, R206, R376 to R379): what each does
once its accesses are answered.
-/
namespace Sys2Proof.Machine

/-- A shot that runs runs its meaning. -/
theorem ShotRuns.withShot {s : State} {r : ShotRef} {op : Nat} {x : Tracked} (h : ShotRuns s r op x) (g : Tracked → State) :
    s.withShot r op g = g x := by
  obtain ⟨htracked, hphase, hop, hclocks, hebtor, htrip⟩ := h
  exact withShot_runs g htracked hphase hop hclocks hebtor htrip

variable {s : State} {r : ShotRef} {x : Tracked}

/-! ## RECIPE_BIND -/

theorem bindJob_of_idle {j : Word} (h : s.jobRuns j = false) (a : BitVec 40) (ten : BitVec 6) :
    s.bindJob j a ten = s.modJob j (fun y => { y with table := a, tenant := ten, bindNext := none }) := by
  rw [State.bindJob, h]
  rfl

theorem bindJob_of_running {j : Word} (h : s.jobRuns j = true) (a : BitVec 40) (ten : BitVec 6) :
    s.bindJob j a ten = s.modJob j (fun y => { y with bindNext := some (a, ten) }) := if_pos h

/-- An unbind, and a table that keeps R188, bind. -/
theorem recipeBind_binds {tb : RTable} (h : ShotRuns s r 0x400 x)
    (hgood : leAt x.shot.body 8 5 = 0 ∨ (s.readAt x.req (leAt x.shot.body 8 5) = .ok tb ∧
      tableBad true (BitVec.ofNat 32 (leAt x.shot.body 0 4)) tb.h tb.es = false)) :
    recipeBind r s = ((s.bindJob (BitVec.ofNat 32 (leAt x.shot.body 0 4)) (BitVec.ofNat 40 (leAt x.shot.body 8 5)) x.tenant).adminDone
      r).landed r 0 := by
  unfold recipeBind
  rw [h.withShot]
  by_cases ha : leAt x.shot.body 8 5 = 0
  case pos => exact if_pos ha
  case neg =>
    obtain ⟨hread, htable⟩ := hgood.resolve_left ha
    simp only [if_neg ha, hread, htable, Bool.false_eq_true, if_false]
    rfl

theorem recipeBind_rejects {tb : RTable} (h : ShotRuns s r 0x400 x) (ha : leAt x.shot.body 8 5 ≠ 0)
    (hread : s.readAt x.req (leAt x.shot.body 8 5) = .ok tb)
    (htable : tableBad true (BitVec.ofNat 32 (leAt x.shot.body 0 4)) tb.h tb.es = true) :
    recipeBind r s = s.modTracked r (fun t => t.reject 0x0109) := by
  unfold recipeBind
  rw [h.withShot]
  simp only [if_neg ha, hread, htable, if_true]
  rfl

/-! ## RECIPE_WRITE -/

/-- A recipe-write of an entry replaces that entry and clears its AMAXH (R195). -/
theorem applyWrite_entry {tb : RTable} {w : Nat × List Byte} (hw : w.1 ≠ 0xFFFF) (q : Req) (a : Nat) :
    s.applyWrite q a tb w = .ok { tb with es := tb.es.set w.1 (bytesAt w.2 0 64 ++ zeros 64) } := if_neg hw

/-- The table that the recipe-writes of a job will meet, with those pending applied. -/
def State.futureTable (s : State) (j : Word) : Except Stop RTable :=
  let f := (s.job j).future
  let q : Req := { tenant := f.2, use := .other, range := stRange }
  (s.readAt q f.1.toNat).bind (s.applyWrites q f.1.toNat (s.job j).writes)

/-- A recipe-write of the header or of an entry below COUNT is judged by the table it makes (R188). -/
theorem recipeWrite_judged {tb new : RTable} (h : ShotRuns s r 0x401 x) :
    let j : Word := BitVec.ofNat 32 (leAt x.shot.body 0 4)
    let f := (s.job j).future
    let w := (leAt x.shot.body 4 2, bytesAt x.shot.body 16 128)
    f.1 ≠ 0 → s.futureTable j = .ok tb → (w.1 = 0xFFFF ∨ w.1 < tb.es.length) →
    s.applyWrite { tenant := f.2, use := .other, range := stRange } f.1.toNat tb w = .ok new →
    recipeWrite r s = if tableBad false j new.h new.es then s.modTracked r (fun t => t.reject 0x0109)
      else ((s.modJob j (fun y => { y with writes := y.writes ++ [w] })).adminDone r).landed r 0 := by
  intro j f w haddr htable hw hnew
  have ha : ¬ f.1.toNat = 0 := fun h0 => haddr (BitVec.eq_of_toNat_eq h0)
  have hindex : (decide (w.1 ≠ 0xFFFF) && decide (tb.es.length ≤ w.1)) = false := by
    rcases hw with hw | hw
    · simp [hw]
    · simp [Nat.not_le.2 hw]
  unfold recipeWrite
  rw [h.withShot]
  unfold State.futureTable at htable
  dsimp only at htable ⊢
  rw [if_neg ha, htable]
  dsimp only
  rw [if_neg (by rw [hindex]; exact Bool.false_ne_true), hnew]
  rfl

/-! ## EVAL_SNAPSHOT and LSCHECK -/

theorem evalSnapshot_notes (h : ShotRuns s r 0x402 x) :
    evalSnapshot r s =
      ((s.modJob (BitVec.ofNat 32 (leAt x.shot.body 0 4)) (fun y => { y with snapNext := true })).adminDone r).landed r 0 := by
  unfold evalSnapshot
  rw [h.withShot]
  rfl

/-- A flag write whose mask names every bit writes its value. -/
theorem flagUpdate_allOnes {v : Nat} (hv : v < 2 ^ 64) : flagUpdate (BitVec.ofNat 64 v) (BitVec.allOnes 64) = fun _ => leBytes 8 v := by
  funext old
  rw [flagUpdate, BitVec.not_allOnes, BitVec.and_zero, BitVec.zero_or, BitVec.and_allOnes, BitVec.toNat_ofNat, Nat.mod_eq_of_lt hv]

theorem b2n_lt (b : Bool) : b2n b < 2 ^ 64 := by cases b <;> decide

/-- The sillage records of a table's entries with LSCHK = 1, as an LSCHECK reads them (R198). -/
def State.lschkRecords (s : State) (x : Tracked) (tb : RTable) : Except Stop (List (List Byte)) :=
  (tb.es.filter (fun e => bit (eState e) 2)).mapM (fun e => s.read x.req acceptRecord (eSill e) 32)

/-- A check whose reads are answered writes the overflow word, and on an evaluation reel nothing (R198, R205), and lands. -/
theorem lscheck_lands {tb : RTable} {recs : List (List Byte)} {u : State} (h : ShotRuns s r 0x015 x) :
    let j : Word := BitVec.ofNat 32 (leAt x.shot.body 0 4)
    (s.job j).table ≠ 0 → s.readAt (s.jobReq j) (s.job j).table.toNat = .ok tb → s.lschkRecords x tb = .ok recs →
    (if x.eval then .ok s else s.rmw x.req (hOvf tb.h) 8 (fun _ => leBytes 8 (b2n (recs.any overflowed)))) = .ok u →
    lscheck r s = u.landed r 0 := by
  intro j hbound hread hrecs hwrite
  rw [← flagUpdate_allOnes (b2n_lt _)] at hwrite
  unfold State.lschkRecords at hrecs
  unfold lscheck
  rw [h.withShot]
  dsimp only
  rw [if_neg hbound, hread]
  simp only [bind, Except.bind, hrecs]
  cases heval : x.eval
  case true =>
    rw [heval] at hwrite
    cases hwrite
    rfl
  case false =>
    rw [heval, if_neg Bool.false_ne_true] at hwrite
    simp only [Bool.false_eq_true, if_false, hwrite]
    rfl

/-! ## CAST_WRITE -/

/-- c is the entry that a CAST_WRITE carries: with VALID = 1 its member list reads as l, and no member has a reserved bit. -/
def State.CarriesCast (s : State) (x : Tracked) (l : List Byte) (c : Cast) : Prop :=
  let b := x.shot.body
  let job : Word := BitVec.ofNat 32 (leAt b 28 4)
  let ms := (cut 8 l).map (fun m => BitVec.ofNat 64 (leNat m))
  if bit (leAt b 2 1) 0 then s.read x.req .any (leAt b 16 5) (8 * leAt b 8 4) = .ok l ∧
      c = { valid := true, feedOk := bit (leAt b 2 1) 1, groupid := BitVec.ofNat 32 (leAt b 4 4), myrank := leAt b 12 4,
            members := ms, timeout := BitVec.ofNat 32 (leAt b 24 4), job := job : Cast } ∧ ∀ m ∈ ms, m.toNat < 2 ^ 56
  else c = { job := job : Cast }

section CastWrite

variable {l : List Byte} {c : Cast}

theorem State.CarriesCast.job (hc : s.CarriesCast x l c) : c.job = BitVec.ofNat 32 (leAt x.shot.body 28 4) := by
  unfold State.CarriesCast at hc
  dsimp only at hc
  split at hc
  · obtain ⟨-, rfl, -⟩ := hc
    rfl
  · rw [hc]

/-- A CAST_WRITE fails on an entry that is VALID and breaks R378, and is accepted with any other. -/
theorem castWrite_judged (h : ShotRuns s r 0x405 x) (hc : s.CarriesCast x l c) :
    castWrite r s = if c.valid && s.castInvalid c then s.landed r 0x0403
      else ((s.acceptCast (leAt x.shot.body 0 2) c).adminDone r).landed r 0 := by
  unfold State.CarriesCast at hc
  unfold castWrite
  rw [h.withShot]
  dsimp only at hc ⊢
  split at hc
  case isTrue hvalid =>
    obtain ⟨hread, rfl, hmembers⟩ := hc
    have hreserved : ((cut 8 l).map (fun m => BitVec.ofNat 64 (leNat m))).any (fun m => decide (2 ^ 56 ≤ m.toNat)) = false := by
      simpa using hmembers
    simp only [hvalid, Bool.not_true, Bool.false_eq_true, if_false, hread, hreserved, Bool.true_and]
    rfl
  case isFalse hvalid =>
    subst hc
    simp only [hvalid, Bool.not_false, if_true, Bool.false_and, Bool.false_eq_true, if_false]
    rfl

/-- An entry that no running job holds VALID and no collective has open is installed at once, with serial 0 (R377, R379). -/
theorem acceptCast_installs {i : Nat} (hfree : (s.cast i).valid = false ∨ (s.cast i).broken = true ∨ s.jobRuns c.job = false)
    (hopen : ∀ o ∈ s.links.open_, o.1 ≠ i) : s.acceptCast i c = s.modCast i (fun _ => { c with cser := 0 }) := by
  have hboundary : ((s.cast i).valid && !(s.cast i).broken && s.jobRuns c.job) = false := by
    rcases hfree with h | h | h <;> simp [h]
  have hclosed : s.links.open_.any (fun o => o.1 == i) = false := by simpa using hopen
  unfold State.acceptCast
  simp only [hboundary, hclosed, Bool.false_eq_true, if_false]
  rfl

/-- A VALID entry of a running job waits for the job's step boundary (R379). -/
theorem acceptCast_waits {i : Nat} (hvalid : (s.cast i).valid = true) (hbroken : (s.cast i).broken = false)
    (hruns : s.jobRuns c.job = true) :
    s.acceptCast i c = s.modLinks (fun k => { k with castNext := k.castNext ++ [(i, c, some c.job)] }) := by
  simp [State.acceptCast, hvalid, hbroken, hruns]

end CastWrite

end Sys2Proof.Machine
end

section
/-!
The obligation on the shots of recipe tables and cast entries, clause by clause.
-/
namespace Sys2Proof.Machine

/-- Settles O40: each shot on a recipe table or a cast entry, by the case its clause names. -/
theorem recipeShotsBindAndWrite : Obligations.RecipeShotsBindAndWrite := by
  unfold Obligations.RecipeShotsBindAndWrite
  intro s r x b j a bound
  refine ⟨?bind, ?bindBad, ?write, ?entry, ?snapshot, ?checkEval, ?check, ?cast⟩
  case bind =>
    intro tb hruns hgood
    have hbind : exec (.recipeBind r) s = .next (bound (s.bindJob j (BitVec.ofNat 40 a) x.tenant)) :=
      congrArg Host.Outcome.next (recipeBind_binds hruns hgood)
    exact ⟨fun hidle => by rw [hbind, bindJob_of_idle hidle], fun hrunning => by rw [hbind, bindJob_of_running hrunning]⟩
  case bindBad =>
    intro tb hruns ha hread hbad
    exact congrArg Host.Outcome.next (recipeBind_rejects hruns ha hread hbad)
  case write =>
    intro tb new hruns f q w haddr htable hw hnew
    have hwrite : exec (.recipeWrite r) s = .next (if tableBad false j new.h new.es then s.modTracked r (fun t => t.reject 0x0109)
        else bound (s.modJob j (fun y => { y with writes := y.writes ++ [w] }))) :=
      congrArg Host.Outcome.next (recipeWrite_judged hruns haddr htable hw hnew)
    exact ⟨fun hbad => by rw [hwrite, if_pos hbad], fun hgood => by rw [hwrite, if_neg (by rw [hgood]; exact Bool.false_ne_true)]⟩
  case entry =>
    intro q tb w y hcount hw
    refine ⟨_, applyWrite_entry hw q y, rfl, List.length_set, ?_, fun i hi => ?_⟩
    · simp [List.getD_eq_getElem?_getD, List.getElem?_set_self hcount]
    · simp [List.getD_eq_getElem?_getD, List.getElem?_set_ne hi.symm]
  case snapshot =>
    intro hruns
    exact congrArg Host.Outcome.next (evalSnapshot_notes hruns)
  case checkEval =>
    intro tb recs hruns hbound hread hrecs heval
    exact congrArg Host.Outcome.next (lscheck_lands hruns hbound hread hrecs (if_pos heval))
  case check =>
    intro tb recs u hruns hbound hread hrecs heval hrmw
    exact congrArg Host.Outcome.next (lscheck_lands hruns hbound hread hrecs (by rw [heval]; exact hrmw))
  case cast =>
    intro l c hruns i job ms hc
    have hjob : c.job = job := State.CarriesCast.job hc
    have hwrite : exec (.castWrite r) s = .next (if c.valid && s.castInvalid c then s.landed r 0x0403 else bound (s.acceptCast i c)) :=
      congrArg Host.Outcome.next (castWrite_judged hruns hc)
    refine ⟨fun hvalid hbad => by rw [hwrite, hvalid, hbad]; rfl, fun hgood => ?_⟩
    have haccepts : exec (.castWrite r) s = .next (bound (s.acceptCast i c)) := by
      rw [hwrite, if_neg (by rcases hgood with h | h <;> simp [h])]
    refine ⟨fun hfree hopen => ?_, fun hvalid hbroken hrunning => ?_⟩
    · rw [haccepts, acceptCast_installs (hjob ▸ hfree) hopen]
    · rw [haccepts, acceptCast_waits hvalid hbroken (hjob ▸ hrunning), hjob]

end Sys2Proof.Machine
end

section
/-!
Checkpoint streaming and restore (R208 to R213) with the two phases of an admin shot (R278): what each of their commands does, case by case.
-/
namespace Sys2Proof.Machine

/-! ## Failures that no slate has found -/

/-- A status that is no slate detection writes no fault record (Table 12-14). -/
theorem slateFault_of_no_detection {st : Half} (h : slateKind st = none) (s : State) (a reel : Nat) (seq : Word) :
    s.slateFault st a reel seq = s := by
  unfold State.slateFault
  split
  · rfl
  · rw [h]

theorem failShot_of_no_detection {st : Half} (h : slateKind st = none) (s : State) (r : ShotRef) (a : Nat) :
    s.failShot r st a = s.landed r st := by
  rw [State.failShot, slateFault_of_no_detection h]
  rfl

/-- With no fault record waiting there is none to place. -/
theorem logWaiting_of_none {s : State} (h : s.glb.flogWait = []) : s.logWaiting = s := by
  have hglb : { s.glb with flogWait := [] } = s.glb := by rw [← h]
  unfold State.logWaiting
  rw [h, List.foldl_nil, State.modGlb, hglb]

/-! ## Messages that leave the device -/

/-- A fold of steps that send nothing but messages sends them all, the last one first. -/
theorem foldl_sends {α : Type} {g : State → α → State} {f : α → List OutMsg}
    (hg : ∀ s a, g s a = { s with out := f a ++ s.out }) :
    ∀ (l : List α) (s : State), l.foldl g s = { s with out := l.reverse.flatMap f ++ s.out }
  | [], _ => rfl
  | a :: l, s => by
    rw [List.foldl_cons, foldl_sends hg l, hg]
    simp

theorem foldl_emit {α : Type} (f : α → OutMsg) (l : List α) (s : State) :
    l.foldl (fun s a => s.emit (f a)) s = { s with out := (l.map f).reverse ++ s.out } := by
  rw [← List.map_reverse, List.map_eq_flatMap]
  exact foldl_sends (f := fun a => [f a]) (fun _ _ => rfl) l s

/-- What Ebtor sends to connect to a target: two queues at each usable port (R375). -/
def State.connectMsgs (s : State) (n : Nat) : List OutMsg :=
  let ports := leAt (tget (fun _ => ([] : List Byte)) s.links.targets n) 18 1
  ((List.range 4).filter (ports.testBit ·)).reverse.flatMap (fun e => [.nvmeConnect n e 128 true, .nvmeConnect n e 128 false])

theorem connect_eq (s : State) (n : Nat) : s.connect n = { s with out := s.connectMsgs n ++ s.out } :=
  foldl_sends (f := fun e => [.nvmeConnect n e 128 true, .nvmeConnect n e 128 false]) (fun _ _ => rfl) _ s

/-! ## The two phases (R278) -/

section Phases

variable {s : State} {r : ShotRef} {x : Tracked} {p : Prepare}

theorem stage_of_room (h : (s.reel r.reel.val).staged.length < 16) : s.stage r p =
    (s.modReel r.reel.val (fun y => { y with staged := y.staged ++ [p] })).landed r 2 := if_neg (Nat.not_le.2 h)

theorem stage_of_full (h : 16 ≤ (s.reel r.reel.val).staged.length) : s.stage r p = s.modTracked r (fun t => t.reject 0x010C) := if_pos h

/-- A prepare that its commit has taken is staged no more. -/
theorem not_mem_unstage_staged : p ∉ ((s.unstage r p).reel r.reel.val).staged := by
  simp [State.unstage]

theorem checkpoint_of_busy (h : ShotRuns s r 0x403 x) (hbusy : s.ckpt ≠ none) : checkpoint r s = s.landed r 0x0230 := by
  unfold checkpoint
  rw [h.withShot]
  exact if_pos (Option.isSome_iff_ne_none.2 hbusy)

section Idle

variable (h : ShotRuns s r 0x403 x) (hidle : s.ckpt = none)
include h hidle

theorem checkpoint_prepare_of_no_target (hphase : leAt x.shot.body 4 1 = 0) (htarget : s.targetOk (leAt x.shot.body 12 4) = false) :
    checkpoint r s = s.landed r 0x0231 := by
  unfold checkpoint
  rw [h.withShot]
  simp only [hidle, Option.isSome_none, Bool.false_eq_true, if_false, if_pos hphase, htarget, Bool.not_false, if_true]
  rfl

/-- A prepare whose region list reads and keeps R208 is staged. -/
theorem checkpoint_prepare_stages {l : List Byte} (hphase : leAt x.shot.body 4 1 = 0) (htarget : s.targetOk (leAt x.shot.body 12 4) = true)
    (hread : s.read x.req .any (leAt x.shot.body 16 5) (16 * leAt x.shot.body 6 2) = .ok l)
    (hshadow : s.mapped (leAt x.shot.body 24 5) = true)
    (hregions : s.regionsBad ((List.range (leAt x.shot.body 6 2)).map (regionEntry l)) = none) :
    ∃ p : Prepare, p.shot = x.shot ∧ checkpoint r s = s.stage r p := by
  refine ⟨{ shot := x.shot,
            regions := ((List.range (leAt x.shot.body 6 2)).map (regionEntry l)).map (fun y => (y.1 / 4096, y.2 / 4096)) }, rfl, ?_⟩
  unfold checkpoint
  rw [h.withShot]
  simp only [hidle, Option.isSome_none, Bool.false_eq_true, if_false, if_pos hphase, htarget, Bool.not_true, hread, hregions, hshadow]

theorem checkpoint_commit_of_no_prepare (hphase : leAt x.shot.body 4 1 = 1) (hprep : s.prepared r x 8 = none) :
    checkpoint r s = s.modTracked r (fun t => t.reject 0x010B) := by
  have hcommit : ¬ leAt x.shot.body 4 1 = 0 := by rw [hphase]; decide
  unfold checkpoint
  rw [h.withShot]
  simp only [hidle, Option.isSome_none, Bool.false_eq_true, if_false, if_neg hcommit, hprep]
  rfl

/-- A commit with its prepare arms the capture: the checkpoint takes the prepare's job and regions, and nothing is captured yet (R209). -/
theorem checkpoint_commit_arms (hphase : leAt x.shot.body 4 1 = 1) (hprep : s.prepared r x 8 = some p)
    (htarget : s.targetOk (leAt p.shot.body 12 4) = true) :
    ∃ k : Ckpt, k.captured = false ∧ k.regions = p.regions ∧ k.job = BitVec.ofNat 32 (leAt p.shot.body 0 4) ∧ k.ref = r ∧
      checkpoint r s = { (((s.unstage r p).adminDone r).connect k.target).modTracked r (fun t => { t with phase := .running }) with
        ckpt := some k } := by
  have hcommit : ¬ leAt x.shot.body 4 1 = 0 := by rw [hphase]; decide
  refine ⟨{ job := BitVec.ofNat 32 (leAt p.shot.body 0 4), ref := r, cap := leAt p.shot.body 5 1, target := leAt p.shot.body 12 4,
            regions := p.regions, shadow := leAt p.shot.body 24 5 / 4096, shadowBlocks := leAt p.shot.body 32 8 / 4096 },
    rfl, rfl, rfl, rfl, ?_⟩
  unfold checkpoint
  rw [h.withShot]
  simp only [hidle, Option.isSome_none, Bool.false_eq_true, if_false, if_neg hcommit, hprep, htarget, Bool.not_true]

end Idle

theorem restore_prepare_stages (h : ShotRuns s r 0x404 x) (hphase : leAt x.shot.body 4 1 = 0)
    (htarget : s.targetOk (leAt x.shot.body 12 4) = true) : restore r s = s.stage r { shot := x.shot } := by
  unfold restore
  rw [h.withShot]
  simp only [if_pos hphase, htarget, Bool.not_true, Bool.false_eq_true, if_false]

/-- A commit with its prepare connects, unbinds the job's table and asks for the manifest. -/
theorem restore_commit_asks (h : ShotRuns s r 0x404 x) (hidle : s.restore = none) (hphase : leAt x.shot.body 4 1 = 1)
    (hprep : s.prepared r x 8 = some p) (htarget : s.targetOk (leAt p.shot.body 12 4) = true) :
    let j : Word := BitVec.ofNat 32 (leAt x.shot.body 0 4)
    let n := leAt p.shot.body 12 4
    ∃ k : Restore, k.job = j ∧ k.ref = r ∧ restore r s =
      ({ ((((s.unstage r p).adminDone r).connect n).modTracked r (fun t => { t with phase := .running })).modJob j
          (fun y => { y with table := 0, bindNext := none, writes := [], tenant := x.tenant }) with restore := some k }).emit
        (.nvmeRead n (s.targetL0 n)) := by
  have hcommit : ¬ leAt x.shot.body 4 1 = 0 := by rw [hphase]; decide
  dsimp only
  unfold restore
  rw [h.withShot]
  simp only [if_neg hcommit, hprep, hidle, Option.isSome_none, Bool.false_eq_true, if_false, htarget, Bool.not_true]
  exact ⟨_, rfl, rfl, rfl⟩

end Phases

/-! ## The stream (R210) -/

section Stream

variable {s : State} {k : Ckpt} {blk : Nat}

/-- The state in which pending block blk and its slate have been copied to shadow block sh. -/
def State.shadowed (s : State) (k : Ckpt) (blk sh : Nat) : State :=
  { (s.place sh (s.block blk) (sealSlate { s.slate blk with gen := (s.slate sh).gen + 1 } (s.block blk))) with
    ckpt := some { k with pend := k.pend.filter (· ≠ blk), copies := k.copies ++ [(blk, sh, s.slate blk)],
                          waiting := k.waiting.filter (· ≠ blk) } }

theorem shadowed_block (s : State) (k : Ckpt) (blk sh : Nat) : (s.shadowed k blk sh).block sh = s.block blk :=
  place_block s sh _ (tread_length ..)

theorem shadow_copies {sh : Nat} (hk : s.ckpt = some k) (hpend : blk ∈ k.pend) (hroom : k.freeShadow = some sh) :
    s.shadow blk = .ok (s.shadowed k blk sh) := by
  have hin : k.pend.contains blk = true := by simpa using hpend
  unfold State.shadow
  simp only [hk, hin, if_true, hroom]
  rfl

theorem checkpointShadowCopy_copies {sh : Nat} (hk : s.ckpt = some k) (hpend : blk ∈ k.pend) (hserves : s.hubServes blk = true)
    (hroom : k.freeShadow = some sh) : checkpointShadowCopy blk s = s.shadowed k blk sh := by
  have hin : k.pend.contains blk = true := by simpa using hpend
  unfold checkpointShadowCopy
  simp only [hk, hin, hserves, Bool.and_true, if_true, shadow_copies hk hpend hroom]

theorem checkpointShadowCopy_of_not_pending (hk : s.ckpt = some k) (hpend : blk ∉ k.pend) : checkpointShadowCopy blk s = s := by
  have hin : k.pend.contains blk = false := by simpa using hpend
  unfold checkpointShadowCopy
  simp only [hk, hin, Bool.false_and, Bool.false_eq_true, if_false]

/-- The stream reads a mapped, served and readable block of its tenant as it is stored. -/
theorem streamRead_stored {ten : BitVec 6} (hm : s.mapped (blk * 4096) = true) (hv : s.hubServes blk = true)
    (ho : s.ownerOf (blk * 4096) = ten) (hp : s.poisoned blk = false) (hu : s.unlisted blk = false)
    (hs : slateStatus (s.slate blk) (s.slateOk blk (s.block blk)) .any = none) : s.streamRead ten blk = .ok (s.block blk) := by
  unfold State.streamRead
  simp only [hm, hv, ho, hp, hu, hs, Bool.not_true, Bool.false_eq_true, if_false, ne_eq, not_true_eq_false]

/-- To go on once a block is sent is to send messages and to note it: no pending bit changes. -/
theorem ckptAdvance_sends (hk : s.ckpt = some k) :
    ∃ k' ms, s.ckptAdvance = { s with ckpt := some k', out := ms ++ s.out } ∧ k'.pend = k.pend := by
  unfold State.ckptAdvance
  rw [hk]
  dsimp only
  split
  · unfold State.ckptWrite
    dsimp only
    rw [foldl_emit (fun b : List Byte × Nat => OutMsg.nvmeWrite k.target (s.targetL0 k.target + 1 + b.2) b.1)]
    exact ⟨_, _, rfl, rfl⟩
  · split
    · exact ⟨{ k with flushSent := true }, [.nvmeFlush k.target], rfl, rfl⟩
    · exact ⟨k, [], by rw [← hk]; rfl, rfl⟩

/-- With every write of a checkpoint completed whose blocks are all sent, the Flush goes out (R211). -/
theorem ckptAdvance_flushes (hk : s.ckpt = some k) (hall : k.allSent = true) (hflush : k.flushSent = false) (hacked : k.unacked = []) :
    s.ckptAdvance = { s with ckpt := some { k with flushSent := true }, out := .nvmeFlush k.target :: s.out } := by
  unfold State.ckptAdvance
  simp only [hk, hall, hflush, hacked, List.isEmpty_nil, Bool.not_true, Bool.and_false, Bool.false_eq_true, if_false, Bool.not_false,
    Bool.and_self, if_true]
  rfl

theorem ckptAdvance_waits (hk : s.ckpt = some k) (hall : k.allSent = true) (hacked : k.unacked ≠ []) : s.ckptAdvance = s := by
  have hempty : k.unacked.isEmpty = false := by simpa using hacked
  unfold State.ckptAdvance
  simp only [hk, hall, hempty, Bool.not_true, Bool.and_false, Bool.false_eq_true, if_false]

/-- A sent block is written to each of its places on the target and is pending no more; memory is as it was (R210, R211). -/
theorem sendBlock_sends (hwait : s.glb.flogWait = []) (d : List Byte) (sl : Slate) :
    ∃ k' ms, s.sendBlock k blk d sl = { s with ckpt := some k', out := ms } ∧ k'.pend = k.pend.filter (· ≠ blk) ∧
      ∀ n : Nat, n < k.blocks.length → k.blocks.getD n 0 = blk →
        OutMsg.nvmeWrite k.target (s.targetL0 k.target + 1 + k.tableBlocks + k.slateBlocks + n) d ∈ ms := by
  unfold State.sendBlock
  dsimp only
  rw [foldl_emit (fun n => OutMsg.nvmeWrite k.target (s.targetL0 k.target + 1 + k.tableBlocks + k.slateBlocks + n) d)]
  obtain ⟨k', ms, hadvance, hpend⟩ := ckptAdvance_sends (s := { s with out := _, ckpt := some _ }) rfl
  rw [hadvance]
  refine ⟨k', _, logWaiting_of_none hwait, hpend, fun n hn hblk => ?_⟩
  refine List.mem_append_right _ (List.mem_append_left _ (List.mem_reverse.2 ?_))
  exact List.mem_map_of_mem (List.mem_filter.2 ⟨List.mem_range.2 hn, beq_iff_eq.2 hblk⟩)

/-- A pending block with no shadow copy that the stream reads is sent. -/
theorem checkpointBlockSend_sends {d : List Byte} (hk : s.ckpt = some k) (hclocks : s.clocks = true) (hebtor : s.ebtor = true)
    (hcopies : ∀ c ∈ k.copies, c.1 ≠ blk) (hpend : blk ∈ k.pend) (hread : s.streamRead (s.job k.job).tenant blk = .ok d) :
    checkpointBlockSend blk s = s.sendBlock k blk d (s.slate blk) := by
  have hin : k.pend.contains blk = true := by simpa using hpend
  have hnone : k.copies.find? (fun c => c.1 == blk) = none := by simpa [List.find?_eq_none] using hcopies
  unfold checkpointBlockSend
  simp only [hk, hclocks, hebtor, Bool.not_true, Bool.or_self, Bool.false_eq_true, if_false, hnone, hin, hread]

theorem checkpointManifestWrite_writes (hk : s.ckpt = some k) (hclocks : s.clocks = true) (hebtor : s.ebtor = true)
    (hflushed : k.flushed = true) (hsent : k.manifestSent = false) :
    checkpointManifestWrite s =
      { s with ckpt := some { k with manifestSent := true }, out := .nvmeWrite k.target (s.targetL0 k.target) k.manifest :: s.out } := by
  unfold checkpointManifestWrite
  simp only [hk, hclocks, hebtor, hflushed, hsent, Bool.not_false, Bool.and_self, if_true]
  rfl

/-! ## Completions (R211, R212) -/

/-- A completion that is no read's goes to the checkpoint, when it owes the command. -/
theorem nvmeCompletion_of_ckpt {d : NvmeRsp} (hk : s.ckpt = some k) (hebtor : s.ebtor = true) (href : d.ref = k.ref)
    (hread : ∀ lba, d.cmd ≠ .read lba) (ok : Bool) : nvmeCompletion ok d s =
      if s.ckptOwes k d.cmd then (if ok then s.ckptAck k d.cmd else s.ckptEnd stCkptTarget 0) else s := by
  have hstep : nvmeCompletion ok d s = if k.ref ≠ d.ref || !s.ckptOwes k d.cmd then s
      else if ok then s.ckptAck k d.cmd else s.ckptEnd stCkptTarget 0 := by
    unfold nvmeCompletion
    rw [hebtor, hk]
    cases hc : d.cmd with
    | read lba => exact absurd hc (hread lba)
    | write lba => rfl
    | flush => rfl
  rw [hstep, href]
  cases s.ckptOwes k d.cmd <;> simp

/-- A failed checkpoint ends with its status; nothing else changes when no slate has failed (R212). -/
theorem ckptEnd_of_no_detection {st : Half} (hk : s.ckpt = some k) (h : slateKind st = none) (hwait : s.glb.flogWait = []) (a : Nat) :
    s.ckptEnd st a = { s with ckpt := none }.landed k.ref st := by
  unfold State.ckptEnd
  simp only [hk, failShot_of_no_detection h]
  exact logWaiting_of_none hwait

theorem ckptAck_manifest (hsent : k.manifestSent = true) (hwait : s.glb.flogWait = []) :
    s.ckptAck k (.write (s.targetL0 k.target)) = { s with ckpt := none }.landed k.ref 0 := by
  unfold State.ckptAck
  simp only [hsent, beq_self_eq_true, Bool.and_self, if_true]
  exact logWaiting_of_none hwait

theorem ckptAck_flush (hsent : k.flushSent = true) : s.ckptAck k .flush = { s with ckpt := some { k with flushed := true } } :=
  if_pos hsent

theorem ckptAck_write (hsent : k.manifestSent = false) (lba : Nat) :
    s.ckptAck k (.write lba) = ({ s with ckpt := some { k with unacked := k.unacked.filter (· ≠ lba) } }).ckptAdvance := by
  unfold State.ckptAck
  simp only [hsent, Bool.false_and, Bool.false_eq_true, if_false]

/-- The completion of a block's write, once every block is sent: the Flush goes out with the last. -/
theorem ckptAck_write_of_allSent (lba : Nat) (hsent : k.manifestSent = false) (hall : k.allSent = true) (hflush : k.flushSent = false) :
    ∃ k', (s.ckptAck k (.write lba)).ckpt = some k' ∧ k'.unacked = k.unacked.filter (· ≠ lba) ∧
      ((∀ y ∈ k.unacked, y = lba) → (s.ckptAck k (.write lba)).out = OutMsg.nvmeFlush k.target :: s.out ∧ k'.flushSent = true) ∧
      ((∃ y ∈ k.unacked, y ≠ lba) → (s.ckptAck k (.write lba)).out = s.out ∧ k'.flushSent = false) := by
  have hnone : k.unacked.filter (· ≠ lba) = [] ↔ ∀ y ∈ k.unacked, y = lba := by simp [List.filter_eq_nil_iff]
  rw [ckptAck_write hsent]
  by_cases hlast : k.unacked.filter (· ≠ lba) = []
  case pos =>
    rw [ckptAdvance_flushes (k := { k with unacked := k.unacked.filter (· ≠ lba) }) rfl hall hflush hlast]
    exact ⟨_, rfl, rfl, fun _ => ⟨rfl, rfl⟩, fun ⟨y, hy, hne⟩ => absurd (hnone.1 hlast y hy) hne⟩
  case neg =>
    rw [ckptAdvance_waits (k := { k with unacked := k.unacked.filter (· ≠ lba) }) rfl hall hlast]
    exact ⟨_, rfl, rfl, fun hone => absurd (hnone.2 hone) hlast, fun _ => ⟨rfl, hflush⟩⟩

end Stream

/-! ## A restore's reads (R213) -/

section Restored

variable {s : State} {k : Restore} {d : NvmeRsp} {i : Nat}

/-- The completion of a read that the restore waits for. -/
theorem nvmeCompletion_of_restore (hebtor : s.ebtor = true) (hk : s.restore = some k) (href : d.ref = k.ref)
    (hcmd : d.cmd = .read (s.targetL0 k.target + i)) (hi : i ∈ k.out) (ok : Bool) :
    nvmeCompletion ok d s = if ok then (s.restoreData k i d.data).getD s else s.restoreEnd k stCkptTarget 0 := by
  have hin : k.out.contains i = true := by simpa using hi
  unfold nvmeCompletion
  rw [hebtor, hcmd, hk]
  simp only [Bool.not_true, Bool.false_eq_true, if_false, href, ne_eq, not_true_eq_false, decide_false, Nat.add_sub_cancel_left, hin,
    Nat.not_lt.2 (Nat.le_add_right _ _), Bool.or_self]

theorem restoreEnd_of_no_detection {st : Half} (h : slateKind st = none) (a : Nat) :
    s.restoreEnd k st a = { s with restore := none }.landed k.ref st := failShot_of_no_detection h ..

/-- A manifest that fails a check of R213 ends the restore. -/
theorem restoreData_of_bad_manifest {data : List Byte} (hfirst : k.manifest = [])
    (hbad : manifestOk (bytesAt data 0 4096) s.glb.contKey = false) :
    s.restoreData k i data = some (s.restoreEnd k stRestoreMismatch 0) := by
  unfold State.restoreData
  simp only [hfirst, List.isEmpty_nil, if_true, hbad, Bool.false_and, Bool.false_eq_true, if_false]

end Restored

end Sys2Proof.Machine
end

section
/-!
The obligation on checkpoints and restores, clause by clause.
-/
namespace Sys2Proof.Machine

/-- Settles O42: each command of a checkpoint or a restore, by the case its clause names. -/
theorem checkpointsStreamAndRestore : Obligations.CheckpointsStreamAndRestore := by
  unfold Obligations.CheckpointsStreamAndRestore
  intro s r x b staged
  refine ⟨?busy, ?noTarget, ?prepare, ?noPrepare, ?commit, ?shadow, ?notPending, ?send, ?manifest, ?completion, ?restore, ?restorePrepare,
    ?restoreCompletion⟩
  case busy => exact fun hruns hbusy => congrArg Host.Outcome.next (checkpoint_of_busy hruns hbusy)
  case noTarget =>
    exact fun hruns hidle hphase htarget => congrArg Host.Outcome.next (checkpoint_prepare_of_no_target hruns hidle hphase htarget)
  case prepare =>
    intro l hruns hidle hphase htarget hread hshadow hregions
    obtain ⟨p, hshot, hstage⟩ := checkpoint_prepare_stages hruns hidle hphase htarget hread hshadow hregions
    exact ⟨fun hroom => ⟨p, _, hshot, congrArg Host.Outcome.next (hstage.trans (stage_of_room hroom)), rfl⟩,
      fun hfull => congrArg Host.Outcome.next (hstage.trans (stage_of_full hfull))⟩
  case noPrepare =>
    exact fun hruns hidle hphase hprep => congrArg Host.Outcome.next (checkpoint_commit_of_no_prepare hruns hidle hphase hprep)
  case commit =>
    intro p hruns hidle hphase hprep htarget
    obtain ⟨k, hcaptured, hregions, hjob, href, hcommit⟩ := checkpoint_commit_arms hruns hidle hphase hprep htarget
    rw [connect_eq] at hcommit
    refine ⟨_, k, congrArg Host.Outcome.next hcommit, rfl, hcaptured, hregions, ?_, href, not_mem_unstage_staged, rfl⟩
    rw [hjob, BitVec.toNat_ofNat]
    exact Nat.mod_eq_of_lt (leAt_lt _ 0 4)
  case shadow =>
    intro k blk sh hk hpend hserves hroom
    exact ⟨_, _, congrArg Host.Outcome.next (checkpointShadowCopy_copies hk hpend hserves hroom), rfl, by simp, rfl, shadowed_block ..⟩
  case notPending => exact fun k blk hk hpend => congrArg Host.Outcome.next (checkpointShadowCopy_of_not_pending hk hpend)
  case send =>
    intro k blk hk hclocks hebtor hcopies hpend hm hv ho hp hu hs hwait
    have hread := streamRead_stored hm hv ho hp hu hs
    obtain ⟨k', ms, hsend, hpend', hsent⟩ := sendBlock_sends (k := k) (blk := blk) hwait (s.block blk) (s.slate blk)
    exact ⟨_, k', congrArg Host.Outcome.next ((checkpointBlockSend_sends hk hclocks hebtor hcopies hpend hread).trans hsend), rfl,
      by simp [hpend'], rfl, hsent⟩
  case manifest =>
    intro k hk hflushed hsent hclocks hebtor
    exact ⟨_, congrArg Host.Outcome.next (checkpointManifestWrite_writes hk hclocks hebtor hflushed hsent), rfl, rfl⟩
  case completion =>
    intro k d hk hebtor href hwait
    have hstep (ok : Bool) (hread : ∀ lba, d.cmd ≠ .read lba) : exec (.nvmeCompletion ok d) s =
        .next (if s.ckptOwes k d.cmd then (if ok then s.ckptAck k d.cmd else s.ckptEnd stCkptTarget 0) else s) :=
      congrArg Host.Outcome.next (nvmeCompletion_of_ckpt hk hebtor href hread ok)
    refine ⟨fun hcmd hsent => ?_, fun hcmd hsent hflushed => ?_, fun lba hcmd hlba hsent hall hflush => ?_, fun hread howes => ?_,
      fun hread howes ok => ?_⟩
    · have howes : s.ckptOwes k (.write (s.targetL0 k.target)) = true := by simp [State.ckptOwes, hsent]
      rw [hstep true (by simp [hcmd]), hcmd, if_pos howes, if_pos rfl, ckptAck_manifest hsent hwait]
    · have howes : s.ckptOwes k .flush = true := by simp [State.ckptOwes, hsent, hflushed]
      rw [hstep true (by simp [hcmd]), hcmd, if_pos howes, if_pos rfl, ckptAck_flush hsent]
    · have howes : s.ckptOwes k (.write lba) = true := by simp [State.ckptOwes, hlba]
      obtain ⟨k', hack⟩ := ckptAck_write_of_allSent (s := s) lba hsent hall hflush
      exact ⟨_, k', by rw [hstep true (by simp [hcmd]), hcmd, if_pos howes, if_pos rfl], hack⟩
    · rw [hstep false hread, if_pos howes, if_neg Bool.false_ne_true, ckptEnd_of_no_detection hk (by decide) hwait]
      rfl
    · rw [hstep ok hread, howes, if_neg Bool.false_ne_true]
  case restore =>
    intro p hruns hidle hphase hprep htarget j
    obtain ⟨k, hjob, href, hcommit⟩ := restore_commit_asks hruns hidle hphase hprep htarget
    rw [connect_eq] at hcommit
    refine ⟨_, k, congrArg Host.Outcome.next hcommit, rfl, hjob, href, ?_, by rw [connect_eq s]; rfl⟩
    exact congrArg Job.table (tget_tset_same ..)
  case restorePrepare =>
    exact fun hruns hphase htarget hroom =>
      congrArg Host.Outcome.next ((restore_prepare_stages hruns hphase htarget).trans (stage_of_room hroom))
  case restoreCompletion =>
    intro k d i hebtor hk href hcmd hi
    have hstep := nvmeCompletion_of_restore hebtor hk href hcmd hi
    refine ⟨fun hfirst hbad => congrArg Host.Outcome.next ((hstep true).trans ?_), congrArg Host.Outcome.next ((hstep false).trans ?_)⟩
    · rw [if_pos rfl, restoreData_of_bad_manifest hfirst hbad]
      exact restoreEnd_of_no_detection (by decide) 0
    · rw [if_neg Bool.false_ne_true]
      exact restoreEnd_of_no_detection (by decide) 0

end Sys2Proof.Machine
end

section
/-!
The refutation of the obligation on control instructions: a chunk that is over (R389) does not leave its queue when the word behind it
completes.
-/
namespace Sys2Proof.Machine

/-- A CCHK that has started, of a collective that is no longer open: its chunk is over. -/
def overChunk : Issued := { iw := 0x53000000C0000000, pc := 0, seq := 0, started := true }

/-- A core that runs, with a NOP due behind such a chunk. -/
def coreBehindChunk : Core := { pstate := 2, prog := [0x7000000000000000, 0x7000000000000000], queue := [overChunk] }

/-- Refutes O48: issue retires the chunk first, but NOP answers the state in which its command came, so that the chunk is in the queue
again once NOP has completed. -/
theorem not_controlInstructionsExecute : ¬ Obligations.ControlInstructionsExecute := by
  unfold Obligations.ControlInstructionsExecute
  intro h
  let s : State := { glb := { active := 1 }, cores := [(0, coreBehindChunk)] }
  let c : CoreId := ⟨0, 0⟩
  obtain ⟨-, -, -, -, -, -, -, -, -, -, -, -, -, -, -, hover, -⟩ := h s c 0x7000000000000000 coreBehindChunk
  have hclaim : nopInstruction c 0x7000000000000000 s = (s.modCore c _).pcTo c 1 := Host.Outcome.next.inj
    (hover overChunk (by decide +kernel) rfl (by decide +kernel) rfl (by unfold CoreAt; decide +kernel) (by decide +kernel))
  have hstays : ((nopInstruction c 0x7000000000000000 s).core c).queue = [overChunk] := by decide +kernel
  rw [hclaim] at hstays
  exact absurd hstays (by simp [State.pcTo])

end Sys2Proof.Machine
end

section
/-!
The parts of a context that chapter 9 lays out (R252, Tables 9-14 and 9-15): how long they are, and what a cursor record and a row
accumulator read back as.
-/
namespace Sys2Proof.Machine

/-! ## Lengths -/

theorem Issued.record_length (e : Issued) (i : Nat) : (e.record i).length = 64 := by simp [Issued.record, zeros]

theorem Core.header_length (v : Core) : v.header.length = 64 := by simp [Core.header, zeros]

/-- Fields of n bytes each, one after the other. -/
theorem fields_length {α : Type} (n : Nat) (f : α → Nat) (l : List α) : (l.flatMap (fun x => leBytes n (f x))).length = n * l.length := by
  induction l with
  | nil => rfl
  | cons a l ih => rw [List.flatMap_cons, List.length_append, leBytes_length, ih, List.length_cons, Nat.mul_succ, Nat.add_comm]

theorem registerPart_length (v : Core) : ((List.range 16).flatMap (fun i => leBytes 8 (v.par i).toNat)).length = 128 := by
  rw [fields_length, List.length_range]

/-- The cursor records of a queue take 64 bytes each (Table 9-14). -/
theorem recordPart_length (es : List Issued) (n : Nat) : ((es.zipIdx n).flatMap (fun x => x.1.record x.2)).length = 64 * es.length := by
  induction es generalizing n with
  | nil => rfl
  | cons e es ih =>
    rw [List.zipIdx_cons, List.flatMap_cons, List.length_append, ih, Issued.record_length, List.length_cons]
    omega

/-! ## A cursor record -/

/-- The parameter values a cursor record holds, one to 8 bytes. -/
theorem leAt_values (vs : List Dword) (r : List Byte) {i : Nat} (h : i < vs.length) :
    leAt (vs.flatMap (fun x => leBytes 8 x.toNat) ++ r) (8 * i) 8 = vs[i].toNat := by
  induction vs generalizing i with
  | nil => exact absurd h (Nat.not_lt_zero i)
  | cons v vs ih =>
    rw [List.flatMap_cons, List.append_assoc]
    cases i with
    | zero =>
      rw [Nat.mul_zero, leAt_leBytes]
      exact Nat.mod_eq_of_lt v.isLt
    | succ i =>
      rw [leAt_leBytes_skip _ _ _ (by omega), show 8 * (i + 1) - 8 = 8 * i by omega, ih (by simpa using h)]
      rfl

/-- A short field is padded with zeros. -/
theorem bytesAt_of_le {l : List Byte} {n : Nat} (h : l.length ≤ n) : bytesAt l 0 n = l ++ List.replicate (n - l.length) 0 := by
  simp [bytesAt, List.take_of_length_le h]

/-- A word names at most four parameter registers. -/
theorem regsOf_length_le (w : Dword) : (regsOf w).length ≤ 4 := by
  unfold regsOf
  split <;> simp

section Record

variable (e : Issued) (i : Nat)

/-- The fields of a cursor record, first to last. -/
theorem Issued.record_eq : e.record i =
    leBytes 8 e.iw.toNat ++ (leBytes 2 e.pc ++ (leBytes 1 ((engineOf e.iw).getD 0) ++ (leBytes 1 (b2n e.started) ++ (leBytes 4 i ++
      (bytesAt (e.prv.flatMap (fun x => leBytes 8 x.2.toNat)) 0 32 ++ (leBytes 8 e.pos ++ zeros 8)))))) := by
  simp only [Issued.record, List.append_assoc]

theorem Issued.record_iw : leAt (e.record i) 0 8 = e.iw.toNat := by
  rw [Issued.record_eq, leAt_leBytes]
  exact Nat.mod_eq_of_lt e.iw.isLt

theorem Issued.record_pc (h : e.pc < 2 ^ 16) : leAt (e.record i) 8 2 = e.pc := by
  rw [Issued.record_eq, leAt_leBytes_skip _ _ _ (by omega), leAt_leBytes]
  exact Nat.mod_eq_of_lt h

theorem Issued.record_started : leAt (e.record i) 11 1 = b2n e.started := by
  simp only [Issued.record_eq, leAt_leBytes_skip, Nat.reduceLeDiff, Nat.reduceSub, leAt_leBytes]
  cases e.started <;> rfl

theorem Issued.record_seq (h : i < 2 ^ 32) : leAt (e.record i) 12 4 = i := by
  simp only [Issued.record_eq, leAt_leBytes_skip, Nat.reduceLeDiff, Nat.reduceSub, leAt_leBytes]
  exact Nat.mod_eq_of_lt h

theorem Issued.record_pos (h : e.pos < 2 ^ 64) : leAt (e.record i) 48 8 = e.pos := by
  have hskip := leAt_append_right (bytesAt (e.prv.flatMap (fun x => leBytes 8 x.2.toNat)) 0 32) (leBytes 8 e.pos ++ zeros 8) 0 8
  rw [bytesAt_length] at hskip
  simp only [Issued.record_eq, leAt_leBytes_skip, Nat.reduceLeDiff, Nat.reduceSub]
  rw [hskip, leAt_leBytes]
  exact Nat.mod_eq_of_lt h

theorem Issued.record_value (hlen : e.prv.length ≤ 4) {j : Nat} (h : j < e.prv.length) :
    leAt (e.record i) (16 + 8 * j) 8 = e.prv[j].2.toNat := by
  have hvalues : e.prv.flatMap (fun x => leBytes 8 x.2.toNat) = (e.prv.map (·.2)).flatMap (fun x => leBytes 8 x.toNat) := by
    rw [List.flatMap_map]
  have hshort : ((e.prv.map (·.2)).flatMap (fun x => leBytes 8 x.toNat)).length ≤ 32 := by
    rw [fields_length, List.length_map]
    omega
  rw [Issued.record_eq, hvalues, bytesAt_of_le hshort, List.append_assoc]
  rw [leAt_leBytes_skip _ _ _ (by omega), leAt_leBytes_skip _ _ _ (by omega), leAt_leBytes_skip _ _ _ (by omega),
    leAt_leBytes_skip _ _ _ (by omega), leAt_leBytes_skip _ _ _ (by omega), show 16 + 8 * j - 8 - 2 - 1 - 1 - 4 = 8 * j by omega,
    leAt_values _ _ (by simpa using h)]
  simp

/-- A cursor record gives back its instruction, with its place in the queue for its order of issue. -/
theorem Issued.ofRecord_record (hpc : e.pc < 2 ^ 16) (hpos : e.pos < 2 ^ 64) (hi : i < 2 ^ 32) (hprv : e.prv.map (·.1) = regsOf e.iw) :
    Issued.ofRecord (e.record i) = { e with seq := i } := by
  have hlen : (regsOf e.iw).length = e.prv.length := by rw [← hprv, List.length_map]
  have hfour : e.prv.length ≤ 4 := hlen ▸ regsOf_length_le e.iw
  have hvalues : (List.range (regsOf e.iw).length).map (fun j => ((regsOf e.iw).getD j 0, BitVec.ofNat 64 (leAt (e.record i) (16 + 8 * j) 8))) =
      e.prv := by
    refine List.ext_getElem (by simp [hlen]) fun j _ hj => ?_
    rw [List.getElem_map, List.getElem_range, Issued.record_value e i hfour hj, BitVec.ofNat_toNat, BitVec.setWidth_eq, ← hprv]
    simp [hj]
  have hstarted : bit (b2n e.started) 0 = e.started := by cases e.started <;> rfl
  unfold Issued.ofRecord
  simp only [Issued.record_iw, BitVec.ofNat_toNat, BitVec.setWidth_eq, hvalues, Issued.record_pc e i hpc, Issued.record_started,
    Issued.record_seq e i hi, Issued.record_pos e i hpos, hstarted]

end Record

/-! ## A row accumulator -/

/-- The code of a row accumulator's special value in its image (assumption 63). -/
def specialCode : Option (Option Bool) → Nat
  | none => 0
  | some none => 1
  | some (some false) => 2
  | some (some true) => 3

/-- The flags byte of a row accumulator's image. -/
def rowFlags (negZ any : Bool) (special : Option (Option Bool)) : Nat := b2n negZ + 2 * b2n any + 4 * specialCode special

theorem rowFlags_fields (negZ any : Bool) (special : Option (Option Bool)) : bit (rowFlags negZ any special % 256) 0 = negZ ∧
    bit (rowFlags negZ any special % 256) 1 = any ∧ fld (rowFlags negZ any special % 256) 2 2 = specialCode special := by
  rcases special with _ | _ | _ | _ <;> revert negZ any <;> decide

theorem RowAcc.bytes_eq (a : RowAcc) : a.bytes =
    leBytes 40 a.sum.toNat ++ (leBytes 4 a.maxv.toNat ++ (leBytes 4 a.minv.toNat ++ (leBytes 1 (rowFlags a.negZ a.any a.special) ++ zeros 15))) := by
  simp only [RowAcc.bytes, List.append_assoc]
  rfl

theorem RowAcc.bytes_sum (a : RowAcc) : leAt a.bytes 0 40 = a.sum.toNat := by
  rw [RowAcc.bytes_eq, leAt_leBytes]
  exact Nat.mod_eq_of_lt (Nat.lt_of_lt_of_eq a.sum.isLt (Nat.pow_mul 2 8 40))

theorem RowAcc.bytes_maxv (a : RowAcc) : leAt a.bytes 40 4 = a.maxv.toNat := by
  rw [RowAcc.bytes_eq, leAt_leBytes_skip _ _ _ (by omega), leAt_leBytes]
  exact Nat.mod_eq_of_lt a.maxv.isLt

theorem RowAcc.bytes_minv (a : RowAcc) : leAt a.bytes 44 4 = a.minv.toNat := by
  simp only [RowAcc.bytes_eq, leAt_leBytes_skip, Nat.reduceLeDiff, Nat.reduceSub, leAt_leBytes]
  exact Nat.mod_eq_of_lt a.minv.isLt

theorem RowAcc.bytes_flags (a : RowAcc) : leAt a.bytes 48 1 = rowFlags a.negZ a.any a.special % 256 := by
  simp only [RowAcc.bytes_eq, leAt_leBytes_skip, Nat.reduceLeDiff, Nat.reduceSub, leAt_leBytes, Nat.pow_one]

theorem RowAcc.ofBytes_bytes (a : RowAcc) : RowAcc.ofBytes a.bytes = a := by
  obtain ⟨hnegZ, hany, hspecial⟩ := rowFlags_fields a.negZ a.any a.special
  unfold RowAcc.ofBytes
  simp only [RowAcc.bytes_sum, RowAcc.bytes_maxv, RowAcc.bytes_minv, RowAcc.bytes_flags, hnegZ, hany, hspecial, BitVec.ofNat_toNat,
    BitVec.setWidth_eq]
  obtain ⟨sum, negZ, any, special, maxv, minv⟩ := a
  rcases special with _ | _ | _ | _ <;> rfl

end Sys2Proof.Machine
end

section
/-!
Contexts (R252 to R254): what writing one changes, where it is kept, and what a saved core keeps.
-/
namespace Sys2Proof.Machine

variable {s t u y : State} {c : CoreId} {k n : Nat} {v : Core}

theorem writeParts_memoryOnly (ps : List (List Byte × BitVec 4 × BitVec 4)) {a : Nat} (h : State.writeParts a ps s = .ok t) :
    MemoryOnly s t := by
  induction ps generalizing a s with
  | nil =>
    cases h
    exact .refl _
  | cons p ps ih =>
    rw [State.writeParts] at h
    by_cases hempty : p.1.isEmpty = true
    · rw [if_pos hempty] at h
      exact ih h
    · rw [if_neg hempty] at h
      cases hw : s.write ebtorReq p.2.1 p.2.2 0 a p.1 with
      | error e =>
        rw [hw] at h
        cases h
      | ok u =>
        rw [hw] at h
        exact (write_memoryOnly hw).trans (ih h)

/-- What Ebtor keeps of context n of a core: where its parts lie, their sizes and the rest. -/
def Core.contextAt (v : Core) (n : Nat) : Context :=
  { base := Config.placeBlock 3 n % 0x2000000 * 4096, sizes := v.contextParts.map (·.1.length), live := v.liveUnits, rest := v.contextRest }

/-- A context that is put writes its parts and enters what Ebtor keeps of it. -/
theorem putContext_writes (h : s.putContext n v = .ok y) :
    ∃ z, MemoryOnly s z ∧ y = { z with contexts := tset z.contexts n (some (v.contextAt n)) } := by
  unfold State.putContext at h
  cases hw : State.writeParts (Config.placeBlock 3 n % 0x2000000 * 4096) v.contextParts s with
  | error e => simp [hw, bind, Except.bind] at h
  | ok z =>
    simp only [hw, bind, Except.bind, pure, Except.pure, Except.ok.injEq] at h
    exact ⟨z, writeParts_memoryOnly _ hw, h.symm⟩

theorem putContext_core (h : s.putContext n v = .ok y) (c : CoreId) : y.core c = s.core c := by
  obtain ⟨z, ⟨_, _, _, rfl⟩, rfl⟩ := putContext_writes h
  rfl

theorem putContext_tracked (h : s.putContext n v = .ok y) : y.tracked = s.tracked := by
  obtain ⟨z, ⟨_, _, _, rfl⟩, rfl⟩ := putContext_writes h
  rfl

theorem putContext_context (h : s.putContext n v = .ok y) : tget (fun _ => none) y.contexts n = some (v.contextAt n) := by
  obtain ⟨z, -, rfl⟩ := putContext_writes h
  exact tget_tset_same ..

/-- The parts of a context that chapter 9 lays out have the sizes it gives: the header, the parameter registers and the cursor
records (Table 9-15). -/
theorem Core.contextAt_sizes (v : Core) (n : Nat) : (v.contextAt n).sizes.take 2 = [64, 128] ∧
    (v.contextAt n).sizes.getD 3 0 = 64 * v.queue.length := by
  constructor
  · show [v.header.length, ((List.range 16).flatMap (fun i => leBytes 8 (v.par i).toNat)).length] = _
    rw [Core.header_length, registerPart_length]
  · exact recordPart_length v.queue 0

/-- The state that holds saved context n of core k: the chunks still to arrive are the context's, and the core keeps its number. -/
def State.contextSaved (y : State) (k n : Nat) : State :=
  (y.modCchk (fun l => l.map (fun x => if x.2.1 = k then (x.1, contextKey n, x.2.2) else x))).modCoreK k
    (fun c => { c.emptied with pstate := 4, saved := some n })

theorem saveContext_of_put (h : s.putContext s.contexts.length (s.coreK k) = .ok y) :
    s.saveContext k = .ok (y.contextSaved k s.contexts.length) := by
  unfold State.saveContext
  simp only [h, bind, Except.bind, pure, Except.pure]
  rfl

theorem saveContext_tracked (h : s.saveContext k = .ok u) : u.tracked = s.tracked := by
  cases hput : s.putContext s.contexts.length (s.coreK k) with
  | error e => simp [State.saveContext, hput, bind, Except.bind] at h
  | ok y =>
    rw [saveContext_of_put hput, Except.ok.injEq] at h
    subst h
    exact (putContext_tracked hput :)

theorem State.contextSaved_core (y : State) (c : CoreId) (n : Nat) :
    (y.contextSaved c.key n).core c = { (y.core c).emptied with pstate := 4, saved := some n } := by
  unfold State.contextSaved
  rw [State.modCoreK_key, State.modCore_same]
  rfl

/-! ## Cuts -/

theorem requestCut_runs (hrun : (s.core c).pstate = 2) (hfault : (s.core c).faultWait = none) (why : Nat) :
    s.requestCut c.key why = s.modCore c (fun x => { x with pstate := 3, cut := some why }) := by
  unfold State.requestCut
  rw [if_pos (by simp [hrun, hfault])]
  rfl

/-- A program whose precise fault waits ends instead of being cut (Table 9-16). -/
theorem requestCut_faulted (hfault : (s.core c).faultWait ≠ none) (why : Nat) : s.requestCut c.key why = s := by
  unfold State.requestCut
  rw [if_neg (by simp [Option.isNone_iff_eq_none, hfault])]

theorem cutRequest_of_runs (hc : s.clocks = true) (he : s.ebtor = true) (why : Fin 3) : cutRequest c why s = s.requestCut c.key why.val := by
  unfold cutRequest
  rw [if_pos (by simp [hc, he])]

theorem cutComplete_waits (h : s.canCut c.key = false) : cutComplete c s = s := by
  unfold cutComplete
  rw [if_neg (by simp [h])]

theorem cutComplete_cuts (hcutting : (s.core c).pstate = 3) (hc : s.clocks = true) (h : s.canCut c.key = true) :
    cutComplete c s = s.finishCut c.key := by
  unfold cutComplete
  rw [if_pos (by simp [hcutting, hc, h])]

/-- Core c with its cut counted, its issue and arrays stopped. -/
def State.cutCounted (s : State) (c : CoreId) : State :=
  s.modCore c (fun x => { x with pgCuts := satInc x.pgCuts, pstate := 4, mx := { x.mx with state := 6 } })

/-- For a handover the core keeps its context. -/
theorem finishCut_keeps (h : (s.core c).cut = some 1) : s.finishCut c.key = s.cutCounted c := by
  unfold State.finishCut
  dsimp only
  rw [if_pos (by simp [h])]
  rfl

/-- A preemption saves the context in HBM; with no part waiting no other starts. -/
theorem finishCut_saves (hkeep : (s.core c).cut ≠ some 1) (htest : (s.core c).cut ≠ some 2) (hq : NoQueuedParts s)
    (hput : (s.cutCounted c).putContext s.contexts.length ((s.cutCounted c).core c) = .ok y) :
    s.finishCut c.key = y.contextSaved c.key s.contexts.length := by
  have hsave : (s.cutCounted c).saveContext c.key = .ok (y.contextSaved c.key s.contexts.length) := saveContext_of_put hput
  have hnone : NoQueuedParts (y.contextSaved c.key s.contexts.length) :=
    (hq.of_tracked (s := s) (t := s.cutCounted c) rfl).of_tracked (saveContext_tracked hsave)
  unfold State.finishCut
  dsimp only
  rw [if_neg (by simpa using hkeep), show s.modCoreK c.key _ = s.cutCounted c from rfl, hsave]
  dsimp only
  rw [if_neg (by simpa using htest), hnone.kickPrograms]

end Sys2Proof.Machine
end

section
/-!
Fences and tests (R330 to R334, R341, R342): what fencing a core leaves of it, and that neither the stand-in that takes its index nor the
end of its test undoes that.
-/
namespace Sys2Proof.Machine

variable {s t : State} {c : CoreId} {k b : Nat} {cause : BitVec 4}

/-! ## What writes no core -/

theorem LogOnly.cores (h : LogOnly s t) : t.cores = s.cores := by
  obtain ⟨_, _, _, _, _, rfl, -⟩ := h
  rfl

theorem LogOnly.boot (h : LogOnly s t) : t.boot = s.boot := by
  obtain ⟨_, _, _, _, _, rfl, -⟩ := h
  rfl

theorem LogOnly.dies (h : LogOnly s t) : t.dies = s.dies := by
  obtain ⟨_, _, _, _, _, rfl, -⟩ := h
  rfl

/-- The cores and Ebtor's flash records are those of s, and no part waits for a core that did not wait in s. -/
structure SameCores (s t : State) : Prop where
  cores : t.cores = s.cores
  boot : t.boot = s.boot
  noQueued : NoQueuedParts s → NoQueuedParts t

theorem SameCores.refl (s : State) : SameCores s s := ⟨rfl, rfl, id⟩

theorem SameCores.trans {u : State} (h : SameCores s t) (g : SameCores t u) : SameCores s u :=
  ⟨g.cores.trans h.cores, g.boot.trans h.boot, g.noQueued ∘ h.noQueued⟩

theorem SameCores.core (h : SameCores s t) (c : CoreId) : t.core c = s.core c :=
  congrArg (fun x => tget (fun _ => ({} : Core)) x c.key) h.cores

theorem LogOnly.sameCores (h : LogOnly s t) : SameCores s t := ⟨h.cores, h.boot, fun hq => hq.of_tracked h.tracked⟩

theorem holdHead_same (s : State) (n : Nat) (st : Half) : SameCores s (s.holdHead n st) := by
  obtain ⟨b, h⟩ := hold_eq s n st (s.reel n).nextSeq
  rw [State.holdHead, h]
  exact ⟨rfl, rfl, id⟩

/-- The release of a job's step lands its STEP_ENDs and holds its reels (R35, R273). -/
theorem releaseStep_same (s : State) (j : Word) : SameCores s (s.releaseStep j) := by
  have hland : ∀ s : State,
      SameCores s { s with tracked := s.tracked.map (fun t => if t.isStepEnd j then t.landOne stSuccess else t) } := by
    refine fun s => ⟨rfl, rfl, fun hq y hy => ?_⟩
    obtain ⟨x, hx, rfl⟩ := List.mem_map.1 hy
    split
    · exact hq x hx
    · exact hq x hx
  have hreels (rs : List Nat) (s : State) :
      SameCores s (rs.foldl (fun s n => s.modReel n (fun r => { r with stepSeq := r.nextSeq })) s) :=
    foldl_keeps .refl .trans (fun _ _ => ⟨rfl, rfl, id⟩) rs s
  have hjob (s : State) : SameCores s (s.modJob j (fun x => { x with holdWith := none })) := ⟨rfl, rfl, id⟩
  unfold State.releaseStep
  dsimp only
  split
  · exact (hland s).trans ((hreels (s.jobReels j) _).trans (hjob _))
  · refine (hland s).trans ((hreels (s.jobReels j) _).trans ((hjob _).trans ?_))
    exact foldl_keeps .refl .trans (fun s n => holdHead_same s n _) _ _

theorem testEnds_same (s : State) (k : Nat) : SameCores s (s.testEnds k) := by
  refine foldl_keeps .refl .trans (fun s j => ?_) _ s
  have hjob (w : Word) (g : Job → Job) : SameCores s (s.modJob w g) := ⟨rfl, rfl, id⟩
  dsimp only
  split
  · exact (hjob ..).trans (releaseStep_same ..)
  · exact hjob ..

/-- The end of a test clears what the core gives back; with no part waiting nothing starts. -/
theorem testOver_same (hq : NoQueuedParts s) (k : Nat) :
    SameCores (s.modCoreK k (fun c => { c with home := 0x3FF, readmit := 0, mx := { c.mx with slowRun := 0 } })) (s.testOver k) := by
  have hends := testEnds_same (s.modCoreK k (fun c => { c with home := 0x3FF, readmit := 0, mx := { c.mx with slowRun := 0 } })) k
  rw [State.testOver, (hends.noQueued (hq.of_tracked rfl)).kickPrograms]
  exact hends

/-! ## The free stand-in -/

/-- A free stand-in is an idle core with ROLE stand-in (Table 12-9). -/
theorem freeStandIn_isFree {d : Nat} (h : s.freeStandIn d = some b) : s.isFreeStandIn b = true := by
  rcases Option.or_eq_some_iff.1 h with hdie | ⟨-, hany⟩
  · exact List.find?_some hdie
  · exact List.find?_some hany

theorem freeStandIn_role {d : Nat} (h : s.freeStandIn d = some b) : (s.coreK b).role = 1 :=
  eq_of_beq (Bool.and_eq_true_iff.1 (freeStandIn_isFree h)).1

/-! ## A fenced core -/

/-- The core is fenced with the cause: out of the logical map, with no work, its memories purged and the fence in flash (R333). -/
structure Fenced (t : State) (c : CoreId) (cause : BitVec 4) : Prop where
  role : (t.core c).role = 4
  fcause : (t.core c).fcause = cause
  logical : (t.core c).logical = 0x3FF
  part : (t.core c).part = none
  scratch : (t.core c).scratch = []
  organ : (t.core c).organ = []
  tl : (t.core c).tl = []
  recorded : (c.key, cause) ∈ t.boot.fences

theorem Fenced.of_same (h : Fenced s c cause) (hst : SameCores s t) : Fenced t c cause := by
  obtain ⟨hrole, hfcause, hlogical, hpart, hscratch, horgan, htl, hrecorded⟩ := h
  constructor <;> simpa only [hst.core, hst.boot]

theorem Fenced.of_core (h : Fenced s c cause) (hcore : t.core c = s.core c) (hboot : t.boot = s.boot) : Fenced t c cause := by
  obtain ⟨hrole, hfcause, hlogical, hpart, hscratch, horgan, htl, hrecorded⟩ := h
  constructor <;> simpa only [hcore, hboot]

theorem fence_fenced (s : State) (c : CoreId) (cause : BitVec 4) (kind : Nat) (st : Half) (reel : Nat) (seq : Word) :
    Fenced (s.fence c.key cause kind st reel seq) c cause := by
  refine Fenced.of_same ?_ (fault_logOnly ..).sameCores
  constructor <;> simp [Core.emptied, Core.purge]

theorem fence_noQueued (hq : NoQueuedParts s) (k : Nat) (cause : BitVec 4) (kind : Nat) (st : Half) (reel : Nat) (seq : Word) :
    NoQueuedParts (s.fence k cause kind st reel seq) := hq.of_tracked (fault_logOnly ..).tracked

/-- A fenced core is no stand-in, so filling an index again leaves it fenced (R334). -/
theorem Fenced.refill (h : Fenced s c cause) (l : BitVec 10) (k kind : Nat) : Fenced (s.refill l k kind) c cause := by
  unfold State.refill
  split
  · exact h
  · split
    · next b hfree =>
      have hne : c.key ≠ b := by
        rintro rfl
        exact absurd (h.role.symm.trans (freeStandIn_role hfree)) (by decide)
      exact h.of_core (State.modCoreK_other _ _ _ hne) rfl
    · exact h.of_same (fault_logOnly ..).sameCores

theorem refill_tracked (s : State) (l : BitVec 10) (k kind : Nat) : (s.refill l k kind).tracked = s.tracked := by
  unfold State.refill
  split
  · rfl
  · split
    · rfl
    · exact (fault_logOnly ..).tracked

theorem Fenced.testOver (h : Fenced s c cause) (hq : NoQueuedParts s) : Fenced (s.testOver c.key) c cause := by
  refine Fenced.of_same ?_ (testOver_same hq c.key)
  obtain ⟨hrole, hfcause, hlogical, hpart, hscratch, horgan, htl, hrecorded⟩ := h
  constructor <;> simpa

/-- A failed test fences its core, whatever becomes of its index (R331, R334). -/
theorem testFails_fenced (hq : NoQueuedParts s) (c : CoreId) (cause : BitVec 4) (kind : Nat) : Fenced (s.testFails c.key cause kind) c cause :=
  ((fence_fenced s c cause kind 0 0xFFFF 0).refill _ _ _).testOver
    ((fence_noQueued hq c.key cause kind 0 0xFFFF 0).of_tracked (refill_tracked ..))

/-! ## A blotter run -/

theorem testOver_role_logical (hq : NoQueuedParts s) (c : CoreId) :
    ((s.testOver c.key).core c).role = (s.core c).role ∧ ((s.testOver c.key).core c).logical = (s.core c).logical := by
  rw [(testOver_same hq c.key).core]
  simp

section Blotter

variable (hrole : (s.core c).role = 3) (hreadmit : (s.core c).readmit = 0)
include hrole hreadmit

theorem blotterResult_of_testing (pass : Bool) : blotterResult c pass s =
    if pass then (s.modCore c (fun v =>
      { v with role := if (s.core c).home ≠ 0x3FF && (s.physical (s.core c).home.toNat).isNone then 0 else 1,
               logical := if (s.core c).home ≠ 0x3FF && (s.physical (s.core c).home.toNat).isNone then (s.core c).home else 0x3FF })).testOver c.key
    else s.testFails c.key 4 0x0A := by
  unfold blotterResult
  dsimp only
  rw [if_neg (by simp [hrole]), if_neg (by simp [hreadmit])]
  rfl

/-- A pass makes the core a free stand-in when it has no vacant index to take back. -/
theorem blotterResult_stands_in (hq : NoQueuedParts s) (hhome : (s.core c).home = 0x3FF ∨ (s.physical (s.core c).home.toNat).isSome = true) :
    ((blotterResult c true s).core c).role = 1 ∧ ((blotterResult c true s).core c).logical = 0x3FF := by
  have hvacant : ((s.core c).home ≠ 0x3FF && (s.physical (s.core c).home.toNat).isNone) = false := by
    rcases hhome with h | h
    · simp [h]
    · simp [Option.isNone_eq_false_iff.2 h]
  rw [blotterResult_of_testing hrole hreadmit, if_pos rfl, hvacant]
  obtain ⟨hr, hl⟩ := testOver_role_logical (s := s.modCore c (fun v => { v with role := 1, logical := 0x3FF })) (hq.of_tracked rfl) c
  simpa using And.intro hr hl

/-- A pass gives the core back the index that is still vacant. -/
theorem blotterResult_gives_back (hq : NoQueuedParts s) (hhome : (s.core c).home ≠ 0x3FF)
    (hvacant : s.physical (s.core c).home.toNat = none) :
    ((blotterResult c true s).core c).role = 0 ∧ ((blotterResult c true s).core c).logical = (s.core c).home := by
  have htrue : ((s.core c).home ≠ 0x3FF && (s.physical (s.core c).home.toNat).isNone) = true := by simpa [hvacant] using hhome
  rw [blotterResult_of_testing hrole hreadmit, if_pos rfl, htrue]
  obtain ⟨hr, hl⟩ := testOver_role_logical (s := s.modCore c (fun v => { v with role := 0, logical := (s.core c).home })) (hq.of_tracked rfl) c
  simpa using And.intro hr hl

theorem blotterResult_fences (hq : NoQueuedParts s) : Fenced (blotterResult c false s) c 4 := by
  rw [blotterResult_of_testing hrole hreadmit]
  exact testFails_fenced hq c 4 0x0A

end Blotter

/-! ## A stagehand fault -/

/-- The stand-in step fences the core whether its work moves, waits in HBM or was none (R331, R334). -/
theorem standInStep_fenced (hq : NoQueuedParts s) (kind : Nat) (st : Half)
    (hwork : (s.core c).part = none ∨ s.freeStandIn c.die.val ≠ none ∨ ∃ u, (s.releasePartner c.key).saveContext c.key = .ok u) :
    Fenced (s.standInStep c.key cause kind st) c cause := by
  have hgone {u : State} (hu : NoQueuedParts u) (reel : Nat) (seq : Word) :
      Fenced ((u.fence c.key cause kind st reel seq).fault
        { kind := kind, outcome := 5, loc := locCore c.key, reel := reel, seq := seq }).kickPrograms c cause := by
    have hlog := fault_logOnly (u.fence c.key cause kind st reel seq)
      { kind := kind, outcome := 5, loc := locCore c.key, reel := reel, seq := seq }
    rw [((fence_noQueued hu c.key cause kind st reel seq).of_tracked hlog.tracked).kickPrograms]
    exact (fence_fenced ..).of_same hlog.sameCores
  have hreleased : NoQueuedParts (s.releasePartner c.key) := hq.of_tracked (releasePartner_tracked s c.key)
  have hdie : c.key / 34 = c.die.val := by unfold CoreId.key; omega
  unfold State.standInStep
  rw [hdie]
  dsimp only
  split
  · exact fence_fenced ..
  · next hfree =>
    split
    · exact hgone hreleased _ _
    · next hpart =>
      rcases hwork with hnone | hsome | ⟨u, hsave⟩
      · exact absurd (by simp [hnone]) hpart
      · exact absurd hfree hsome
      · rw [hsave]
        have hu : NoQueuedParts u := hreleased.of_tracked (saveContext_tracked hsave)
        have hsaved : NoQueuedParts (u.modCoreK c.key (fun c => { c with saved := none })) := hu
        exact hgone hsaved _ _

/-- A stagehand fault fences its core (R182). -/
theorem stagehandFault_fenced (hq : NoQueuedParts s) (hrole : (s.core c).role ≠ 4)
    (hwork : (s.core c).part = none ∨ ((s.core c).role ≠ 0 ∧ (s.core c).role ≠ 2) ∨ s.freeStandIn c.die.val ≠ none ∨
      ∃ u, (s.releasePartner c.key).saveContext c.key = .ok u) : Fenced (stagehandFault c s) c 5 := by
  unfold stagehandFault
  dsimp only
  rw [if_neg hrole]
  split
  · next hworks =>
    have hnot : ¬ ((s.core c).role ≠ 0 ∧ (s.core c).role ≠ 2) := by simpa [← Classical.or_iff_not_imp_left] using hworks
    exact standInStep_fenced hq 0x07 0 (hwork.imp_right fun h => h.resolve_left hnot)
  · split
    · exact testFails_fenced hq c 5 0x07
    · exact fence_fenced ..

end Sys2Proof.Machine
end

section
/-!
Moves (R254, R331, R341): what a core that takes the work of another holds then, what it leaves, and when a test is due.
-/
namespace Sys2Proof.Machine

variable {s : State} {c : CoreId} {a b n : Nat} {img : Core}

theorem State.modCoreK_get_coreK (s : State) (k : Nat) (g : Core → Core) (x : Nat) :
    (s.modCoreK k g).coreK x = if x = k then g (s.coreK x) else s.coreK x := by
  split
  · next h => subst h; exact State.modCoreK_same ..
  · next h => exact State.modCoreK_other s k g h

/-- The ledgers go with the work at their committed state (R330). -/
theorem Core.takeContext_ledgers (dst : Core) {src : Core} (h : src.mx.Unchecked) : (dst.takeContext src).mx.ledgers = src.mx.ledgers :=
  Mx.restored_ledgers h

/-! ## Resumption -/

/-- A read of a table whose values have been mapped, where the map keeps the value of an entry not listed. -/
theorem tget_mapValues {α : Type} {f : Nat → α} {g : α → α} {k : Nat} (hf : g (f k) = f k) (t : Tab α) :
    tget f (t.map (fun e => (e.1, g e.2))) k = g (tget f t k) := by
  induction t with
  | nil => exact hf.symm
  | cons e t ih =>
    rw [List.map_cons, tget_cons, tget_cons, ih]
    split <;> rfl

/-- A core that no longer holds a saved context's number is otherwise as it was. -/
theorem takeSaved_core (s : State) (n : Nat) (c : CoreId) : ∃ m, (s.takeSaved n).core c = { s.core c with saved := m } := by
  have hread : (s.takeSaved n).core c = if (s.core c).saved = some n then { s.core c with saved := none } else s.core c :=
    tget_mapValues (g := fun v : Core => if v.saved = some n then { v with saved := none } else v) rfl s.cores
  rw [hread]
  split
  · exact ⟨none, rfl⟩
  · exact ⟨_, rfl⟩

/-- An enabled core that resumes a context runs it and keeps its own logical index; the context is no longer saved (R254). -/
theorem resumeOn_enabled (hrole : (s.core c).role = 0) (n : Nat) (img : Core) :
    ∃ m, (s.resumeOn c.key n img).core c =
        { ({ s.core c with saved := m }).takeContext img with pstate := 2, cut := none, role := 0, logical := (s.core c).logical } ∧
      tget (fun _ => none) (s.resumeOn c.key n img).contexts n = none := by
  obtain ⟨m, hm⟩ := takeSaved_core s n c
  have hcchk (g) : ((s.takeSaved n).modCchk g).core c = { s.core c with saved := m } := hm
  have hnot : ¬ (s.core c).role = 1#3 := by rw [hrole]; decide
  refine ⟨m, ?_, ?_⟩
  · unfold State.resumeOn
    dsimp only
    split <;> simp [hcchk, hnot, State.retargetUnit]
  · have hgone : tget (fun _ => none) (s.takeSaved n).contexts n = none := tget_tset_same ..
    unfold State.resumeOn
    dsimp only
    split <;> exact hgone

theorem resume_loads {x : Context} (hc : s.clocks = true) (he : s.ebtor = true) (hctx : tget (fun _ => none) s.contexts n = some x)
    (himg : s.getContext x = .ok img) (hidle : s.idle c.key = true) (hrole : (s.core c).role = 0) :
    resume c n s = s.resumeOn c.key n img := by
  unfold resume
  simp only [hctx, himg]
  rw [if_pos (by simp [hidle, hrole, hc, he])]

/-! ## The move to a stand-in -/

/-- The core that takes the work has it with its logical index; only its place in a MIRROR pair is not fixed by that. -/
theorem moveWork_receiver (hne : b ≠ a) : ∃ p, (s.moveWork a b).coreK b =
    { (s.coreK b).takeContext (s.coreK a) with role := if (s.coreK a).role = 2 then 2 else 0, logical := (s.coreK a).logical, cut := none,
                                               partner := p, votes := (s.coreK a).votes } := by
  have hretarget (u : State) : (u.retarget a b).coreK b = u.coreK b := rfl
  unfold State.moveWork
  dsimp only
  rw [hretarget, State.modCoreK_other _ _ _ hne]
  split
  · rw [State.modCoreK_get_coreK, State.modCoreK_same]
    split
    · exact ⟨_, rfl⟩
    · exact ⟨_, rfl⟩
  · rw [State.modCoreK_same]
    exact ⟨_, rfl⟩

/-- The core that the work has left holds nothing of it, and no logical index. -/
theorem moveWork_giver (hne : b ≠ a) : (s.moveWork a b).coreK a = { (s.coreK a).emptied with logical := 0x3FF, partner := none } := by
  have hretarget (u : State) : (u.retarget a b).coreK a = u.coreK a := rfl
  unfold State.moveWork
  dsimp only
  rw [hretarget, State.modCoreK_same]
  split
  · rw [State.modCoreK_get_coreK, State.modCoreK_other _ _ _ hne.symm]
    split <;> rfl
  · rw [State.modCoreK_other _ _ _ hne.symm]

/-- What a handover leaves: the stand-in b runs the work under the logical index, and core c is under test (R341). -/
structure HandedOver (s t : State) (c : CoreId) (b : Nat) : Prop where
  logical : (t.coreK b).logical = (s.core c).logical
  role : (t.coreK b).role = 0
  part : (t.coreK b).part = (s.core c).part
  pc : (t.coreK b).pc = (s.core c).pc
  pr : (t.coreK b).pr = (s.core c).pr
  ledgers : (t.coreK b).mx.ledgers = (s.core c).mx.ledgers
  testing : (t.core c).role = 3
  notDue : (t.core c).due = false
  gone : (t.core c).part = none
  vacated : (t.core c).logical = 0x3FF

theorem HandedOver.of_cores {t u : State} (h : HandedOver s t c b) (hcores : u.cores = t.cores) : HandedOver s u c b := by
  have hcore : u.core c = t.core c := congrArg (fun x => tget (fun _ => ({} : Core)) x c.key) hcores
  have hcoreK : u.coreK b = t.coreK b := congrArg (fun x => tget (fun _ => ({} : Core)) x b) hcores
  obtain ⟨hlogical, hrole, hpart, hpc, hpr, hledgers, htesting, hnotDue, hgone, hvacated⟩ := h
  constructor <;> simpa only [hcore, hcoreK]

/-- The move of a core that runs: its cut counts first. -/
def State.cutForMove (s : State) (k : Nat) : State :=
  if (s.coreK k).pstate = 2 || (s.coreK k).pstate = 3 then
    s.modCoreK k (fun c => { c with pgCuts := satInc c.pgCuts, pstate := 4, cut := none })
  else s

theorem State.cutForMove_core (s : State) (c : CoreId) :
    ∃ q p z, (s.cutForMove c.key).coreK c.key = { s.core c with pgCuts := q, pstate := p, cut := z } := by
  unfold State.cutForMove
  split
  · rw [State.modCoreK_same]
    exact ⟨_, _, _, rfl⟩
  · exact ⟨_, _, _, rfl⟩

theorem handOver_handedOver (hrole : (s.core c).role = 0) (hu : (s.core c).mx.Unchecked) (hne : b ≠ c.key) (lag : Bool) :
    HandedOver s (s.handOver c.key b lag) c b := by
  obtain ⟨q, p, z, hcut⟩ := s.cutForMove_core c
  obtain ⟨mate, hreceiver⟩ := moveWork_receiver (s := s.cutForMove c.key) hne
  have hgiver := moveWork_giver (s := s.cutForMove c.key) hne
  rw [hcut] at hreceiver hgiver
  have hmoved : HandedOver s ((((s.cutForMove c.key).moveWork c.key b).modCoreK b
      (fun v => { v with pstate := if (s.core c).part.isSome then 2 else v.pstate })).modCoreK c.key
      (fun c => { c with role := 3, due := false, deferred := false, home := 0x3FF })) c b := by
    have hb : ∀ (u : State) (g h : Core → Core), ((u.modCoreK b g).modCoreK c.key h).coreK b = g (u.coreK b) := by
      intro u g h
      rw [State.modCoreK_other _ _ _ hne, State.modCoreK_same]
    have hc : ∀ (u : State) (g h : Core → Core), ((u.modCoreK b g).modCoreK c.key h).core c = h (u.coreK c.key) := by
      intro u g h
      rw [State.modCoreK_key, State.modCore_same, ← State.coreK_key, State.modCoreK_other _ _ _ hne.symm]
    have hnot : ¬ (s.core c).role = 2 := by rw [hrole]; decide
    constructor
    case ledgers =>
      rw [hb, hreceiver]
      exact Core.takeContext_ledgers _ hu
    all_goals simp only [hb, hc, hreceiver, hgiver, if_neg hnot, Core.takeContext, Core.emptied, Core.purge]
  unfold State.handOver
  dsimp only
  split
  · exact hmoved.of_cores (fault_logOnly ..).cores
  · exact hmoved

/-- A due core with work hands it to a free stand-in. -/
theorem handover_moves (hc : s.clocks = true) (he : s.ebtor = true) (hrole : (s.core c).role = 0) (hdue : (s.core c).due = true)
    (hloads : (s.core c).pstate ≠ 1) (hcut : s.canCut c.key = true) (hfree : s.freeStandIn c.die.val = some b) :
    ∃ lag, handover c s = s.handOver c.key b lag := by
  unfold handover
  dsimp only
  rw [if_neg (by simp [hc, he]), if_neg (by simp [hrole]), if_neg (by simpa [hrole, hdue, hcut] using hloads), if_pos (by simp [hdue]), hfree]
  exact ⟨_, rfl⟩

/-! ## Dailies -/

theorem dailiesDue_disabled (hrole : (s.core c).role = 0) (hdaily : s.glb.dailyEn = false) : dailiesDue c s = s := by
  unfold dailiesDue
  dsimp only
  rw [if_pos (by simp [hrole, hdaily])]

section Enabled

variable (he : s.ebtor = true) (hrole : (s.core c).role = 0) (hdaily : s.glb.dailyEn = true)
include he hrole hdaily

/-- A core that runs no work is tested in place. -/
theorem dailiesDue_tests_idle (hidle : s.idle c.key = true) (hsaved : (s.core c).saved = none) : dailiesDue c s = s.testCore c.key := by
  unfold dailiesDue
  dsimp only
  rw [if_neg (by simp [he, hdaily]), if_pos (by simp [hrole, hidle, hsaved])]

/-- A core with work waits for its move; with no stand-in free its test is deferred. -/
theorem dailiesDue_marks_busy (hidle : s.idle c.key = false) : dailiesDue c s =
    s.modCore c (fun v => { v with due := true, deferred := v.deferred || (s.freeStandIn c.die.val).isNone }) := by
  have hdie : c.key / 34 = c.die.val := by unfold CoreId.key; omega
  unfold dailiesDue
  dsimp only
  rw [if_neg (by simp [he, hdaily]), if_neg (by simp [State.isFreeStandIn, hidle]), if_pos (by simp [hrole]), hdie]
  rfl

end Enabled

theorem testDeferMax_cuts (he : s.ebtor = true) (hdeferred : (s.core c).deferred = true) (hrun : (s.core c).pstate = 2) :
    testDeferMax c s = s.requestCut c.key 2 := by
  unfold testDeferMax
  dsimp only
  rw [if_neg (by simp [he, hdeferred]), if_pos hrun]

end Sys2Proof.Machine
end

section
/-!
Ageing (R344, R345): a canary's step, and the clocks that a re-plan allows.
-/
namespace Sys2Proof.Machine

variable {s t : State} {d : Nat}

/-- While CATTRIP# is not asserted a fault record counts once (R346). -/
theorem fault_flogHead (f : FaultRec) (h : s.pwr.catTrip = false) : (s.fault f).glb.flogHead = s.glb.flogHead + 1 := by
  unfold State.fault
  rw [if_neg (by simp [h])]
  dsimp only
  split
  · rfl
  · obtain ⟨m, u, k, g, heq, hg⟩ := logTry_frame s (s.glb.flogBase.toNat / 65536 * 65536 + s.glb.flogHead.toNat % 2048 * 32)
      (f.bytes s.clap.count)
    rw [heq, hg]
    rfl

theorem LogOnly.die (h : LogOnly s t) (d : Nat) : t.die d = s.die d := congrArg (fun x => tget die0 x d) h.dies

/-- A canary above the floor of 1.0 GHz takes one step off its die's clock, and one record says so. -/
theorem canaryTrip_slows {d : Fin 16} (hclk : 40 < (s.die d.val).clk) (hc : s.clocks = true) :
    ((canaryTrip d s).die d.val).clk = (s.die d.val).clk - 1 ∧ ((canaryTrip d s).die d.val).tripped = true ∧
      (canaryTrip d s).glb.flogHead = s.glb.flogHead + 1 ∧ (canaryTrip d s).cores = s.cores := by
  have hlog := fault_logOnly (s.modDie d.val (fun v => { v.slow 1 with tripped := true }))
    { kind := 0x0B, outcome := 6, loc := BitVec.ofNat 16 (d.val * 1024) }
  have hslow : ((s.die d.val).slow 1).clk = (s.die d.val).clk - 1 := by
    unfold Die.slow
    dsimp only
    rw [if_neg (by omega)]
    omega
  unfold canaryTrip
  refine ⟨?_, ?_, fault_flogHead _ (by simpa [State.clocks] using hc), hlog.cores⟩
  · rw [hlog.die, State.modDie_same, hslow]
  · rw [hlog.die, State.modDie_same]

/-! ## A re-plan -/

theorem replanFmax_of_slack {fmax : Nat} {after : Int} (h : 20 ≤ after) : replanFmax fmax after = fmax := if_pos h

/-- A re-plan never raises FMAX. -/
theorem replanFmax_le (fmax : Nat) (after : Int) : replanFmax fmax after ≤ fmax := by
  unfold replanFmax
  split <;> omega

/-- Short of slack, a die above the floor gives up a step for every 5 ps (Table 19-1). -/
theorem replanFmax_of_short {fmax : Nat} {after : Int} (h : after < 20) (hfloor : 40 < fmax) :
    replanFmax fmax after = max 40 (fmax - ceilDiv (20 - after).toNat 5) ∧ replanFmax fmax after < fmax := by
  have hstep : 1 ≤ ceilDiv (20 - after).toNat 5 := by unfold ceilDiv; omega
  unfold replanFmax
  rw [if_neg (by omega)]
  omega

/-- The slack that a re-plan goes by: after a voltage step when it takes one. -/
def finalSlack (slack after : Int) : Int := if slack < 20 then after else slack

/-- What a re-plan leaves of its die: the FMAX at once when a canary has tripped, and for the next step boundary when none has. -/
structure Replanned (v w : Die) (slack after : Int) : Prop where
  fuse : w.fmaxFuse = v.fmaxFuse
  lost : w.lost = (v.lost || decide (replanFmax v.fmax.toNat (finalSlack slack after) < v.fmax.toNat))
  fmax : w.fmax = if decide (replanFmax v.fmax.toNat (finalSlack slack after) < v.fmax.toNat) && v.tripped
    then BitVec.ofNat 8 (replanFmax v.fmax.toNat (finalSlack slack after)) else v.fmax
  fmaxNext : w.fmaxNext = if decide (replanFmax v.fmax.toNat (finalSlack slack after) < v.fmax.toNat) && !v.tripped
    then some (BitVec.ofNat 8 (replanFmax v.fmax.toNat (finalSlack slack after))) else v.fmaxNext
  vofs : 20 ≤ slack → w.vofs = v.vofs

theorem marginReplan_replanned (he : s.ebtor = true) (d : Fin 16) (slack after : Int) (vofs : BitVec 4) :
    Replanned (s.die d.val) ((marginReplan d slack vofs after s).die d.val) slack after ∧
      (marginReplan d slack vofs after s).cores = s.cores := by
  have hfinal : (if decide (slack < 20) = true then after else slack) = finalSlack slack after := by simp [finalSlack]
  have hboot (u : State) (g) (n : Nat) : (u.modBoot g).die n = u.die n := rfl
  unfold marginReplan
  dsimp only
  rw [if_neg (by simp [he]), hfinal]
  refine ⟨?_, (fault_logOnly ..).cores⟩
  rw [(fault_logOnly ..).die, hboot, State.modDie_same]
  exact ⟨rfl, rfl, rfl, rfl, fun h => by simp [Int.not_lt.2 h]⟩

namespace Replanned

variable {v w : Die} {slack after : Int} (h : Replanned v w slack after)
include h

/-- A die with slack keeps its clocks and voltage. -/
theorem of_slack (hslack : 20 ≤ slack) : w.fmax = v.fmax ∧ w.fmaxNext = v.fmaxNext ∧ w.vofs = v.vofs ∧ w.lost = v.lost := by
  have hsame : replanFmax v.fmax.toNat (finalSlack slack after) = v.fmax.toNat := by
    rw [finalSlack, if_neg (by omega), replanFmax_of_slack hslack]
  obtain ⟨-, hlost, hfmax, hnext, hvofs⟩ := h
  rw [hsame, decide_eq_false (Nat.lt_irrefl _)] at hlost hfmax hnext
  exact ⟨hfmax, hnext, hvofs hslack, by rw [hlost, Bool.or_false]⟩

theorem fmax_le : w.fmax.toNat ≤ v.fmax.toNat := by
  rw [h.fmax]
  split
  · rw [BitVec.toNat_ofNat]
    exact Nat.le_trans (Nat.mod_le ..) (replanFmax_le ..)
  · exact Nat.le_refl _

/-- A die short of slack has lost FMAX; with no canary tripped the lower one waits for the step boundary. -/
theorem of_short (hslack : slack < 20) (hafter : after < 20) (hfloor : 40 < v.fmax.toNat) (htripped : v.tripped = false) :
    w.lost = true ∧ ∃ f, w.fmaxNext = some f ∧ f.toNat = max 40 (v.fmax.toNat - ceilDiv (20 - after).toNat 5) := by
  obtain ⟨hvalue, hlower⟩ := replanFmax_of_short hafter hfloor
  obtain ⟨-, hlost, -, hnext, -⟩ := h
  rw [finalSlack, if_pos hslack] at hlost hnext
  rw [decide_eq_true hlower] at hlost hnext
  rw [htripped] at hnext
  refine ⟨by rw [hlost, Bool.or_true], _, hnext, ?_⟩
  rw [BitVec.toNat_ofNat, Nat.mod_eq_of_lt (Nat.lt_trans hlower v.fmax.isLt), hvalue]

end Replanned

end Sys2Proof.Machine
end

section
/-!
The obligation on cuts, tests and ageing, clause by clause.
-/
namespace Sys2Proof.Machine

/-- Settles O53: each event on a core or die, by the case its clause names. -/
theorem cutsTestsAndAgeing : Obligations.CutsTestsAndAgeing := by
  unfold Obligations.CutsTestsAndAgeing
  refine ⟨?events, fun e i hpc hpos hi hprv => e.ofRecord_record i hpc hpos hi hprv, RowAcc.ofBytes_bytes, ?canary, ?replan⟩
  case events =>
    rintro s c v rfl hc he
    refine ⟨?request, ?waits, ?cuts, ?resumes, ?moves, ?inPlace, ?due, ?disabled, ?deferMax, ?blotter, ?stagehand⟩
    case request =>
      intro why hrun
      exact ⟨fun hfault => congrArg Host.Outcome.next ((cutRequest_of_runs hc he why).trans (requestCut_runs hrun hfault why.val)),
        fun hfault => congrArg Host.Outcome.next ((cutRequest_of_runs hc he why).trans (requestCut_faulted hfault why.val))⟩
    case waits =>
      intro _ hcut
      exact congrArg Host.Outcome.next (cutComplete_waits hcut)
    case cuts =>
      intro hcutting hcut u
      have hcuts := cutComplete_cuts hcutting hc hcut
      refine ⟨fun hkeep => congrArg Host.Outcome.next (hcuts.trans (finishCut_keeps hkeep)), fun y hkeep htest hq hput => ?_⟩
      obtain ⟨hsizes, hrecords⟩ := (u.core c).contextAt_sizes s.contexts.length
      have hcore : u.core c = { s.core c with pgCuts := satInc (s.core c).pgCuts, pstate := 4, mx := { (s.core c).mx with state := 6 } } :=
        State.modCore_same ..
      refine ⟨y.contextSaved c.key s.contexts.length, (u.core c).contextAt s.contexts.length,
        congrArg Host.Outcome.next (hcuts.trans (finishCut_saves hkeep htest hq hput)), (putContext_context hput :), ?_, ?_, hsizes,
        hrecords.trans ?_, rfl, ?_⟩
      · rw [hcore]; rfl
      · rw [hcore]; rfl
      · rw [hcore]
      · rw [State.contextSaved_core, putContext_core hput, hcore]
        exact ⟨rfl, rfl, rfl, rfl, rfl, rfl⟩
    case resumes =>
      intro n x img hctx himg hidle hrole
      obtain ⟨m, hcore, hgone⟩ := resumeOn_enabled hrole n img
      refine ⟨_, congrArg Host.Outcome.next (resume_loads hc he hctx himg hidle hrole), ?_⟩
      rw [hcore]
      exact ⟨rfl, rfl, rfl, rfl, rfl, rfl, rfl, Core.takeContext_ledgers _, rfl, hgone⟩
    case moves =>
      intro b hrole hdue hloads hcut hu hfree hne
      obtain ⟨lag, hmoves⟩ := handover_moves hc he hrole hdue hloads hcut hfree
      obtain ⟨hlogical, hrole', hpart, hpc, hpr, hledgers, htesting, hnotDue, hgone, hvacated⟩ := handOver_handedOver hrole hu hne lag
      exact ⟨_, congrArg Host.Outcome.next hmoves, hlogical, hrole', hpart, hpc, hpr, hledgers, htesting, hnotDue, hgone, hvacated⟩
    case inPlace =>
      intro hrole hdaily hidle hsaved
      exact congrArg Host.Outcome.next (dailiesDue_tests_idle he hrole hdaily hidle hsaved)
    case due =>
      intro hrole hdaily hidle
      refine ⟨_, congrArg Host.Outcome.next (dailiesDue_marks_busy he hrole hdaily hidle), ?_⟩
      rw [State.modCore_same]
      exact ⟨rfl, hrole, rfl, fun hfree => by simp [hfree]⟩
    case disabled =>
      intro hrole hdaily
      exact congrArg Host.Outcome.next (dailiesDue_disabled hrole hdaily)
    case deferMax =>
      intro hdeferred hrun hfault
      exact congrArg Host.Outcome.next ((testDeferMax_cuts he hdeferred hrun).trans (requestCut_runs hrun hfault 2))
    case blotter =>
      intro hrole hreadmit hq _
      obtain ⟨hfenced, hcause, -, -, hscratch, horgan, htl, hrecorded⟩ := blotterResult_fences hrole hreadmit hq
      exact ⟨fun hhome => ⟨_, rfl, blotterResult_stands_in hrole hreadmit hq hhome⟩,
        fun hhome hvacant => ⟨_, rfl, blotterResult_gives_back hrole hreadmit hq hhome hvacant⟩,
        _, rfl, hfenced, hcause, hscratch, horgan, htl, hrecorded⟩
    case stagehand =>
      intro hrole hq hwork
      obtain ⟨hfenced, hcause, hlogical, hpart, -, -, -, hrecorded⟩ := stagehandFault_fenced hq hrole hwork
      exact ⟨_, rfl, hfenced, hcause, hlogical, hpart, hrecorded⟩
  case canary =>
    intro s d hclk hc
    exact ⟨_, rfl, canaryTrip_slows hclk hc⟩
  case replan =>
    intro s d slack after vofs he
    obtain ⟨hdie, hcores⟩ := marginReplan_replanned he d slack after vofs
    exact ⟨_, rfl, hcores, hdie.fuse, hdie.of_slack, fun _ => hdie.fmax_le, hdie.of_short⟩

end Sys2Proof.Machine
end

section
/-!
A whole block written through its hub (R302, R310, R312, R313): what the write leaves of the block, its slate, the poison list and the
rest of memory, and what a wrong CRC does. The canonical form of the reset state's stores stands at the end.
-/
namespace Sys2Proof

/-- Bytes as long as a block replace all of it. -/
theorem putAt_whole {l bs : List Byte} (h : l.length = bs.length) : putAt l 0 bs = bs := by simp [putAt, h]

/-- What a key reads as in a store does not change when another key is written. -/
theorem tget_cset_ne {α : Type} [DecidableEq α] (f : Nat → α) (t : Tab α) (a : α) {j k : Nat} (h : j ≠ k) :
    tget f (cset f t k a) j = tget f t j := by
  have hcell (u : Tab α) : tget f ((if a = f k then [] else [(k, a)]) ++ u) j = tget f u j := by
    split
    · rfl
    · exact (tget_cons ..).trans (if_neg h.symm)
  rcases Nat.lt_or_gt_of_ne h with hlt | hgt
  · rw [cset, tget_append_right _ _ _ _ (by rw [hcell]; exact tget_filter_drop f (fun x => decide (k < x)) t j (by simp; omega))]
    exact tget_filter_keep f (fun x => decide (x < k)) t j (by simpa using hlt)
  · rw [cset, tget_append_left _ _ _ _ (filter_drops (fun x => decide (x < k)) t j (by simp; omega)), hcell]
    exact tget_filter_keep f (fun x => decide (k < x)) t j (by simpa using hgt)

namespace Machine

variable {s : State} {blk : Nat}

/-! ## The block's hub -/

theorem serves_iff {h : Fin 8} : s.serves h blk = true ↔ s.mapped (blk * 4096) = true ∧ hubOf blk = h.val ∧ s.hubServes blk = true := by
  simp only [State.serves, Bool.and_eq_true, decide_eq_true_eq, and_assoc]

/-- A hub that serves is not stopped by CATTRIP#. -/
theorem catTrip_of_hubServes (h : s.hubServes blk = true) : s.pwr.catTrip = false := by
  simp only [State.hubServes, State.clocks, Bool.and_eq_true, Bool.not_eq_true'] at h
  obtain ⟨⟨⟨-, hclocks⟩, -⟩, -⟩ := h
  exact hclocks

theorem unpoison_poisoned (s : State) (blk : Nat) : (s.unpoison blk).poisoned blk = false := by
  unfold State.unpoison
  split
  · simp [State.poisoned]
  · next h =>
    obtain ⟨hp, -⟩ := not_or.1 (mt (Bool.or_eq_true _ _).mpr h)
    exact Bool.eq_false_iff.2 hp

theorem unpoison_unlisted (s : State) (blk : Nat) : (s.unpoison blk).unlisted blk = false := by
  unfold State.unpoison
  split
  · simp [State.unlisted]
  · next h =>
    obtain ⟨-, hp⟩ := not_or.1 (mt (Bool.or_eq_true _ _).mpr h)
    exact Bool.eq_false_iff.2 hp

theorem place_slate_ne (s : State) (data : List Byte) (sl : Slate) {b : Nat} (h : b ≠ blk) :
    (s.place blk data sl).slate b = s.slate b := tget_cset_ne _ _ _ h

/-! ## A whole-block write -/

/-- The slate of a whole-block write (R313): GEN one up, the writer's fields, no STALE. -/
theorem newSlate_whole (old : Slate) (kind fmt : BitVec 4) (tid : Word) :
    newSlate old true kind fmt tid = { gen := old.gen + 1, kind := kind, fmt := fmt, stale := false, tidf := tid } := by
  simp [newSlate]

/-- The state in which block blk has been written whole. -/
def State.wholeWritten (s : State) (blk : Nat) (kind fmt : BitVec 4) (tid : Word) (d : List Byte) : State :=
  (s.unpoison blk).place blk d (sealSlate (newSlate (s.slate blk) true kind fmt tid) d)

/-- A whole-block write by the block's owner, with no checkpoint, goes through whatever the block held (R302, R312). -/
theorem writeBlock_whole {q : Req} {kind fmt : BitVec 4} {tid : Word} {d : List Byte} (hm : s.mapped (blk * 4096) = true)
    (hv : s.hubServes blk = true) (ho : s.ownerOf (blk * 4096) = q.tenant) (hc : s.ckpt = none) (hd : d.length = 4096) :
    s.writeBlock q [] kind fmt tid blk [(0, d)] = .ok (s.wholeWritten blk kind fmt tid d) := by
  have hsh : s.shadow blk = .ok s := by unfold State.shadow; rw [hc]
  have hw : decide (4096 ≤ ([(0, d)].map (fun p => p.2.length)).sum) = true := by simp [hd]
  have hold : (if (s.slate blk).kind = kUnwritten then zeros 4096 else s.block blk).length = d.length := by
    split
    · exact List.length_replicate.trans hd.symm
    · exact (tread_length ..).trans hd.symm
  have hdata : s.encipher [] blk (overlay (if (s.slate blk).kind = kUnwritten then zeros 4096 else s.block blk) [(0, d)]) = d :=
    putAt_whole hold
  unfold State.writeBlock
  simp only [hm, hv, ho, hsh, hw, Bool.not_true, Bool.and_false, Bool.false_and, Bool.false_eq_true, if_false, ne_eq, not_true_eq_false,
    List.any_nil, List.isEmpty_nil, if_true, bind, Except.bind, hdata]
  rfl

/-- What a whole-block write leaves (R302, R310, R312, R313): the data under its new slate, the block off the poison list, every other
slate and byte as it was. -/
def WholeBlockWritten (s t : State) (blk : Nat) (kind fmt : BitVec 4) (tid : Word) (d : List Byte) : Prop :=
  t.block blk = d ∧ t.slateOk blk d = true ∧ (t.slate blk).gen = (s.slate blk).gen + 1 ∧ (t.slate blk).kind = kind ∧
  (t.slate blk).fmt = fmt ∧ (t.slate blk).tidf = tid ∧ (t.slate blk).stale = false ∧ t.poisoned blk = false ∧ t.unlisted blk = false ∧
  (∀ b : Nat, b ≠ blk → t.slate b = s.slate b) ∧
  ∀ y : Nat, y < blk * 4096 ∨ blk * 4096 + 4096 ≤ y → tget zeroByte t.hbm.mem y = tget zeroByte s.hbm.mem y

theorem wholeWritten_written (s : State) (blk : Nat) (kind fmt : BitVec 4) (tid : Word) {d : List Byte} (hd : d.length = 4096) :
    WholeBlockWritten s (s.wholeWritten blk kind fmt tid d) blk kind fmt tid d := by
  have hblock : (s.wholeWritten blk kind fmt tid d).block blk = d := place_block _ _ _ hd
  have hok := place_slateOk (s.unpoison blk) blk (newSlate (s.slate blk) true kind fmt tid) hd
  have hslate : (s.wholeWritten blk kind fmt tid d).slate blk = sealSlate (newSlate (s.slate blk) true kind fmt tid) d := place_slate ..
  have hhbm := unpoison_hbm s blk
  unfold WholeBlockWritten
  rw [hslate, newSlate_whole]
  refine ⟨hblock, (congrArg _ hblock).symm.trans hok, rfl, rfl, rfl, rfl, rfl, (place_poisoned ..).trans (unpoison_poisoned s blk),
    (place_unlisted ..).trans (unpoison_unlisted s blk), fun b hb => ?slates, fun y hy => ?bytes⟩
  case slates => exact (place_slate_ne _ _ _ hb).trans (congrArg (fun m : Hbm => tget slate0 m.slates b) hhbm)
  case bytes => rw [State.wholeWritten, place_byte, if_neg (by omega), hhbm]

theorem wholeWritten_memoryOnly (s : State) (blk : Nat) (kind fmt : BitVec 4) (tid : Word) (d : List Byte) :
    MemoryOnly s (s.wholeWritten blk kind fmt tid d) := (unpoison_memoryOnly ..).trans (place_memoryOnly ..)

/-- A fault record with the fault log unplaced leaves the written block as it is. -/
theorem WholeBlockWritten.fault {t : State} {kind fmt : BitVec 4} {tid : Word} {d : List Byte}
    (h : WholeBlockWritten s t blk kind fmt tid d) (f : FaultRec) (hc : t.pwr.catTrip = false) (hb : t.glb.flogBase = 0) :
    WholeBlockWritten s (t.fault f) blk kind fmt tid d := by
  rw [fault_unplaced f hc hb]
  exact h

/-! ## What arrives at the hub (R312) -/

theorem arrives_first {bytes : List Byte} {crc : SendCrc} (h : crc64 bytes = crc.crc) : arrives bytes crc = (some bytes, false) := by
  simp [arrives, h]

theorem arrives_again {bytes d : List Byte} {crc : SendCrc} (hl : bytes.length = 4096) (h : crc64 bytes ≠ crc.crc) (hd : d.length = 4096)
    (ha : crc.again = some (d, crc64 d)) : arrives bytes crc = (some d, true) := by
  simp [arrives, hl, h, hd, ha]

theorem arrives_never {bytes : List Byte} {crc : SendCrc} (hl : bytes.length = 4096) (h : crc64 bytes ≠ crc.crc)
    (ha : ∀ d c, crc.again = some (d, c) → crc64 d ≠ c) : arrives bytes crc = (none, true) := by
  cases hagain : crc.again with
  | none => simp [arrives, hl, h, hagain]
  | some r => simp [arrives, hl, h, hagain, ha r.1 r.2 hagain]

/-! ## The hub write -/

section HubWrite

variable {h : Fin 8} {a : Nat} {bytes : List Byte} {kind fmt : BitVec 4} {tid : Word} {by_ : Asker} {crc : SendCrc} {again : Bool}

/-- KIND 0x0 and the reserved kinds are not written (Table 12-2). -/
theorem hubWrite_of_reserved_kind (hk : kind = kUnwritten ∨ 8 ≤ kind.toNat) : hubWrite h a bytes kind fmt tid by_ crc s = s := by
  unfold hubWrite
  exact if_pos (by rcases hk with hk | hk <;> simp [hk])

/-! A whole block, at a, of a kind that a writer gives, sent to the hub that homes and serves it. -/

variable (hs : s.serves h blk = true) (hdiv : a / 4096 = blk) (hmod : a % 4096 = 0) (hl : bytes.length = 4096) (hk : kind ≠ kUnwritten)
  (hk8 : kind.toNat < 8)
include hs hdiv hmod hl hk hk8

/-- Such a write is judged by its data alone. -/
theorem hubWrite_tests_pass :
    ¬(!s.serves h (a / 4096) || bytes.isEmpty || 4096 < a % 4096 + bytes.length || kind = kUnwritten || 8 ≤ kind.toNat) = true := by
  have hne : bytes ≠ [] := fun he => by rw [he] at hl; cases hl
  simp [hdiv, hs, hne, hl, hk, hk8, hmod]

/-- A block whose CRC is never confirmed is not placed: one record, and the requester fails (R312). -/
theorem hubWrite_of_no_arrival (ha : arrives bytes crc = (none, again)) : hubWrite h a bytes kind fmt tid by_ crc s =
    (s.fault (hubFault blk 2 3 0x0301)).failParty by_.who 0x0301 (blk * 4096) := by
  unfold hubWrite
  dsimp only
  rw [if_neg (hubWrite_tests_pass hs hdiv hmod hl hk hk8), ha, hdiv]

/-- A block that arrives and whose write goes through. The write is a variable `write` of the lemma, so that the kernel does not unfold
it while what arrives selects its branch. -/
theorem hubWrite_of_write {d : List Byte} {t : State} (write : List Byte → Except Stop State)
    (hwrite : ∀ b, s.writeBlock { tenant := by_.tenant, use := .other, range := stRange } [] kind fmt tid blk [(0, b)] = write b)
    (ha : arrives bytes crc = (some d, again)) (ht : write d = .ok t) :
    hubWrite h a bytes kind fmt tid by_ crc s = if again then t.fault (hubFault blk 2 0 0) else t := by
  unfold hubWrite
  dsimp only
  rw [if_neg (hubWrite_tests_pass hs hdiv hmod hl hk hk8), hmod, hdiv]
  simp only [hwrite]
  simp only [ha, ht]

/-- However the block arrives, the write leaves it placed (R312): a record of a failed first transfer touches no memory. -/
theorem hubWrite_written {d : List Byte} (ho : s.ownerOf (blk * 4096) = by_.tenant) (hc : s.ckpt = none) (hb : s.glb.flogBase = 0)
    (ha : arrives bytes crc = (some d, again)) (hd : d.length = 4096) :
    WholeBlockWritten s (hubWrite h a bytes kind fmt tid by_ crc s) blk kind fmt tid d := by
  obtain ⟨hm, -, hv⟩ := serves_iff.1 hs
  have hwritten := wholeWritten_written s blk kind fmt tid hd
  rw [hubWrite_of_write hs hdiv hmod hl hk hk8 _ (fun _ => rfl) ha (writeBlock_whole hm hv ho hc hd)]
  cases again
  case false => rwa [if_neg Bool.false_ne_true]
  case true =>
    obtain ⟨m, u, k, hframe⟩ := wholeWritten_memoryOnly s blk kind fmt tid d
    rw [if_pos rfl]
    exact hwritten.fault _ (by rw [hframe]; exact catTrip_of_hubServes (s := s) hv) (by rw [hframe]; exact hb)

/-- A block for Ebtor that never arrives changes no memory and no hub, and one record counts. -/
theorem hubWrite_refused (he : by_.who = .ebtor) (hb : s.glb.flogBase = 0) (ha : arrives bytes crc = (none, again)) :
    (hubWrite h a bytes kind fmt tid by_ crc s).hbm = s.hbm ∧ (hubWrite h a bytes kind fmt tid by_ crc s).hubs = s.hubs ∧
      (hubWrite h a bytes kind fmt tid by_ crc s).glb.flogHead = s.glb.flogHead + 1 := by
  have hcat := catTrip_of_hubServes (serves_iff.1 hs).2.2
  rw [hubWrite_of_no_arrival hs hdiv hmod hl hk hk8 ha, he, State.failParty, fault_unplaced _ hcat hb]
  exact ⟨rfl, rfl, rfl⟩

end HubWrite

/-- Settles O28: a kind that no writer gives, a block that arrives at once or at the second transfer, and one that never does. -/
theorem hubWritesPlaceBlocksWithSlates : Obligations.HubWritesPlaceBlocksWithSlates := by
  unfold Obligations.HubWritesPlaceBlocksWithSlates
  intro h blk bytes kind fmt tid by_ crc s hs hl ho hc hb
  have hmod : blk * 4096 % 4096 = 0 := Nat.mul_mod_left ..
  have hdiv : blk * 4096 / 4096 = blk := Nat.mul_div_cancel _ (by decide)
  refine ⟨?reserved, ?placed, ?refused⟩
  case reserved => exact fun hk => congrArg Host.Outcome.next (hubWrite_of_reserved_kind hk)
  case placed =>
    intro d hk hk8 harrives
    suffices harrival : d.length = 4096 ∧ ∃ again, arrives bytes crc = (some d, again) by
      obtain ⟨hd, again, ha⟩ := harrival
      exact ⟨_, rfl, hubWrite_written hs hdiv hmod hl hk hk8 ho hc hb ha hd⟩
    rcases harrives with ⟨hgood, rfl⟩ | ⟨hbad, hd, hagain⟩
    · exact ⟨hl, false, arrives_first hgood⟩
    · exact ⟨hd, true, arrives_again hl hbad hd hagain⟩
  case refused =>
    exact fun hk hk8 hebtor hbad hnever => ⟨_, rfl, hubWrite_refused hs hdiv hmod hl hk hk8 hebtor hb (arrives_never hl hbad hnever)⟩

/-- Settles O6: the stores list nothing at reset, and a table that lists nothing has the canonical form. -/
theorem resetStoresAreCanonical : Obligations.ResetStoresAreCanonical := ⟨.nil _, .nil _, .nil _⟩

end Machine
end Sys2Proof
end

section
/-!
What sending can do (R351 to R356): the traffic of the ports, and nothing that a port agrees with its peer.
-/
namespace Sys2Proof.Machine

variable {s t u : State}

theorem State.modPort_port (s : State) (n : Nat) (g : Port → Port) (k : Nat) :
    (s.modPort n g).port k = if k = n then g (s.port n) else s.port k := by
  split
  · next h => subst h; exact State.modPort_same ..
  · next h => exact State.modPort_other s n g h

/-- q is p but for what its flits move: queue, sequence number, credits and counters, and the retry buffer while it is UP. -/
structure Port.OnlySends (p q : Port) : Prop where
  frame : q = { p with txQueue := q.txQueue, txSeq := q.txSeq, credits := q.credits, retry := q.retry, flitsTx := q.flitsTx,
                       sinceCtrl := q.sinceCtrl, returns := q.returns }
  retry : p.state ≠ 2 → q.retry = p.retry

theorem Port.onlySends_of (p : Port) (queue : List TxFlit) (seq : BitVec 11) (credits : List Nat) {retry : List TxFlit} (flits : Dword)
    (sinceCtrl : Nat) (returns : List Nat) (h : p.state ≠ 2 → retry = p.retry) :
    p.OnlySends { p with txQueue := queue, txSeq := seq, credits := credits, retry := retry, flitsTx := flits, sinceCtrl := sinceCtrl,
                         returns := returns } := ⟨rfl, h⟩

theorem Port.OnlySends.refl (p : Port) : p.OnlySends p := ⟨rfl, fun _ => rfl⟩

namespace Port.OnlySends

variable {p q r : Port}

theorem state (h : p.OnlySends q) : q.state = p.state := by rw [h.frame]
theorem lanes (h : p.OnlySends q) : q.lanes = p.lanes := by rw [h.frame]
theorem newMask (h : p.OnlySends q) : q.newMask = p.newMask := by rw [h.frame]
theorem en (h : p.OnlySends q) : q.en = p.en := by rw [h.frame]
theorem dropped (h : p.OnlySends q) : q.dropped = p.dropped := by rw [h.frame]

theorem trans (h : p.OnlySends q) (k : q.OnlySends r) : p.OnlySends r := by
  refine ⟨?_, fun hs => (k.retry (h.state.trans_ne hs)).trans (h.retry hs)⟩
  obtain ⟨hq, -⟩ := h
  obtain ⟨hr, -⟩ := k
  rw [hr, hq]

end Port.OnlySends

/-- t is s but for the traffic of its ports, what waits for Ethernet, and what has been sent out. -/
structure OnlySends (s t : State) : Prop where
  frame : t = { s with links := { s.links with ports := t.links.ports, psn := t.links.psn, ethWait := t.links.ethWait }, out := t.out }
  port : ∀ n, (s.port n).OnlySends (t.port n)
  out : s.out <:+ t.out

namespace OnlySends

theorem refl (s : State) : OnlySends s s := ⟨rfl, fun _ => .refl _, List.suffix_refl _⟩

theorem trans (h : OnlySends s t) (k : OnlySends t u) : OnlySends s u := by
  refine ⟨?_, fun n => (h.port n).trans (k.port n), h.out.trans k.out⟩
  obtain ⟨ht, -, -⟩ := h
  obtain ⟨hu, -, -⟩ := k
  rw [hu, ht]

theorem open_ (h : OnlySends s t) : t.links.open_ = s.links.open_ := by rw [h.frame]
theorem mb (h : OnlySends s t) (m : Nat) : t.mb m = s.mb m := by rw [h.frame]; rfl

theorem emit (s : State) (o : OutMsg) : OnlySends s (s.emit o) := ⟨rfl, fun _ => .refl _, List.suffix_cons ..⟩

/-- A change of one port's traffic. -/
theorem modPort (s : State) (n : Nat) (g : Port → Port) (h : (s.port n).OnlySends (g (s.port n))) : OnlySends s (s.modPort n g) := by
  refine ⟨rfl, fun k => ?_, List.suffix_refl _⟩
  rw [State.modPort_port]
  split
  · next hk => exact hk ▸ h
  · exact .refl _

end OnlySends

theorem sendCtrl_onlySends (s : State) (n : Nat) (ctype : Byte) (content : List Byte) : OnlySends s (s.sendCtrl n ctype content) :=
  (OnlySends.modPort s n _ ⟨rfl, fun _ => rfl⟩).trans (.emit ..)

/-- Flits leave by a port that is UP alone. -/
theorem drainPort_onlySends (fuel n : Nat) (s : State) : OnlySends s (State.drainPort fuel n s) := by
  induction fuel generalizing s with
  | zero => exact .refl s
  | succ fuel ih =>
    unfold State.drainPort
    dsimp only
    split
    · exact .refl s
    · next hup =>
      split
      · exact .refl s
      · next f hf =>
        refine OnlySends.trans ?_ (ih _)
        refine OnlySends.trans ?_ (.emit ..)
        have hctrl : OnlySends s (if 63 ≤ (s.port n).sinceCtrl then s.sendCtrl n 0 [] else s) := by
          split
          · exact sendCtrl_onlySends ..
          · exact .refl s
        exact hctrl.trans (.modPort _ n _ (Port.onlySends_of _ _ _ _ _ _ _ (fun hs => absurd ((hctrl.port n).state ▸ hs) hup)))

theorem queueOn_onlySends (s : State) (n : Nat) (p : Packet) : OnlySends s (s.queueOn n p) :=
  ((OnlySends.modPort s n _ ⟨rfl, fun _ => rfl⟩).trans (.emit ..)).trans (drainPort_onlySends ..)

theorem mem_out_queueOn (s : State) (n : Nat) (p : Packet) : OutMsg.packet p ∈ (s.queueOn n p).out :=
  (drainPort_onlySends ..).out.subset (List.mem_cons_self ..)

theorem send_onlySends (s : State) (p : Packet) : OnlySends s (s.send p) := by
  unfold State.send
  split
  · exact queueOn_onlySends ..
  · split
    · exact .refl s
    · split
      · exact ⟨rfl, fun _ => .refl _, List.suffix_refl _⟩
      · exact ⟨rfl, fun _ => .refl _, List.suffix_cons ..⟩

theorem resend_onlySends (s : State) (n f : Nat) : OnlySends s (s.resend n f) := by
  unfold State.resend
  dsimp only
  split
  · exact .refl s
  · exact (OnlySends.modPort s n _ ⟨rfl, fun _ => rfl⟩).trans (.emit ..)

/-! ## LAG and what follows it (R359) -/

/-- t has the links of s but for the routes. -/
def OnlyRoutes (s t : State) : Prop := ∃ r, t.links = { s.links with routes := r }

theorem OnlyRoutes.refl (s : State) : OnlyRoutes s s := ⟨s.links.routes, rfl⟩

theorem OnlyRoutes.trans (h : OnlyRoutes s t) (k : OnlyRoutes t u) : OnlyRoutes s u := by
  obtain ⟨_, h⟩ := h
  obtain ⟨r, k⟩ := k
  exact ⟨r, by rw [k, h]⟩

theorem reroute_onlyRoutes (s : State) : OnlyRoutes s s.reroute := by
  unfold State.reroute
  split
  · exact .refl s
  · exact foldl_keeps .refl .trans (fun _ _ => ⟨_, rfl⟩) _ _

theorem LogOnly.links (h : LogOnly s t) : t.links = s.links := by
  obtain ⟨_, _, _, _, _, rfl, -⟩ := h
  rfl

/-- The LAG bit that a port's width and retry rate give it. -/
def State.lagsNow (s : State) (n : Nat) : Bool := s.portUp n && ((s.port n).lanes != 0xF || (s.port n).lagRetry)

/-- The state in which port n has that LAG bit. -/
def State.lagSet (s : State) (n : Nat) : State := s.modPort n (fun p => { p with lag := s.lagsNow n })

/-- Of the links, judging a port changes its LAG bit and the routes. -/
theorem judgeLag_onlyRoutes (s : State) (n : Nat) : OnlyRoutes (s.lagSet n) (s.judgeLag n) := by
  have hroutes : ∀ u : State, u.links = (s.lagSet n).links → OnlyRoutes (s.lagSet n) u.reroute :=
    fun u hu => OnlyRoutes.trans ⟨u.links.routes, by rw [hu]⟩ (reroute_onlyRoutes u)
  unfold State.judgeLag
  dsimp only
  split
  · exact hroutes _ (fault_logOnly ..).links
  · exact hroutes _ rfl

theorem judgeLag_port (s : State) (n k : Nat) : (s.judgeLag n).port k = (s.lagSet n).port k := by
  obtain ⟨r, h⟩ := judgeLag_onlyRoutes s n
  unfold State.port
  rw [h]

@[simp] theorem judgeLag_same (s : State) (n : Nat) : (s.judgeLag n).port n = { s.port n with lag := s.lagsNow n } := by
  rw [judgeLag_port, State.lagSet, State.modPort_same]

theorem judgeLag_other (s : State) {n k : Nat} (h : k ≠ n) : (s.judgeLag n).port k = s.port k := by
  rw [judgeLag_port, State.lagSet, State.modPort_other _ _ _ h]

@[simp] theorem judgeLag_open (s : State) (n : Nat) : (s.judgeLag n).links.open_ = s.links.open_ := by
  obtain ⟨r, h⟩ := judgeLag_onlyRoutes s n
  rw [h]
  rfl

end Sys2Proof.Machine
end

section
/-!
Burou ports: training, time-outs, widths, laggards, forwarding (R350 to R368).
-/
namespace Sys2Proof.Machine

variable {s t : State} {p : Fin 20} {n : Nat}

/-! ## Going DOWN and training -/

/-- Port n has gone to a state that carries no flit, and no collective has been closed on the way. -/
structure PortClosed (s t : State) (n : Nat) (state : BitVec 4) : Prop where
  state : (t.port n).state = state
  lanes : (t.port n).lanes = 0
  retry : (t.port n).retry = []
  en : (t.port n).en = (s.port n).en
  open_ : t.links.open_ = s.links.open_

theorem portDown_closed (s : State) (n : Nat) {state : BitVec 4} (h : state ≠ 2) : PortClosed s (s.portDown n state) n state := by
  unfold State.portDown
  dsimp only
  generalize List.flatMap _ _ = waiting
  have hsends := foldl_keeps (R := OnlySends) .refl .trans send_onlySends waiting
    ((s.modPort n (fun p => { p with state := state, lanes := 0, retry := [], txQueue := [], newMask := none, asm := [],
                                     nakSent := false })).judgeLag n)
  have hport := hsends.port n
  rw [judgeLag_same, State.modPort_same] at hport
  refine ⟨hport.state, hport.lanes, hport.retry h, hport.en, hsends.open_.trans ?_⟩
  rw [judgeLag_open]
  rfl

/-- With no collective open there is none to abort (R392). -/
theorem abortUnreachable_of_none_open (h : s.links.open_ = []) : s.abortUnreachable = s := by
  unfold State.abortUnreachable
  rw [h, List.map_nil, List.foldl_nil]

theorem portDown_abortUnreachable (n : Nat) {state : BitVec 4} (hstate : state ≠ 2) (hopen : s.links.open_ = []) :
    (s.portDown n state).abortUnreachable = s.portDown n state :=
  abortUnreachable_of_none_open ((portDown_closed s n hstate).open_.trans hopen)

theorem portRxTimeout_goes_down (hstate : (s.port p.val).state = 2) (hopen : s.links.open_ = []) :
    portRxTimeout p s = s.portDown p.val 0 :=
  (if_pos hstate).trans (portDown_abortUnreachable p.val (by decide) hopen)

theorem widthChangeTimeout_goes_down (hstate : (s.port p.val).state = 3) (hopen : s.links.open_ = []) :
    widthChangeTimeout p s = s.portDown p.val 0 :=
  (if_pos hstate).trans (portDown_abortUnreachable p.val (by decide) hopen)

/-- Training starts at full width with an empty retry buffer (R350, R362). -/
theorem portTrain_port (s : State) (n : Nat) : ((s.portTrain n).port n).state = 1 ∧ ((s.portTrain n).port n).good = 0xF ∧
    ((s.portTrain n).port n).retry = [] ∧ ((s.portTrain n).port n).en = (s.port n).en := by
  have h := portDown_closed s n (state := 1) (by decide)
  rw [State.portTrain, State.modPort_same]
  exact ⟨h.state, rfl, h.retry, h.en⟩

theorem portTrain_abortUnreachable (n : Nat) (hopen : s.links.open_ = []) : (s.portTrain n).abortUnreachable = s.portTrain n :=
  abortUnreachable_of_none_open ((portDown_closed s n (state := 1) (by decide)).open_.trans hopen)

theorem portRetrain_trains (hstate : (s.port p.val).state = 0) (hen : (s.port p.val).en = true) (hc : s.clocks = true) :
    portRetrain p s = s.portTrain p.val := by
  unfold portRetrain
  rw [hstate, hen, hc]
  rfl

section Trained

variable {peer : Half} {peerPort : BitVec 5} {lanes : BitVec 4} (hstate : (s.port p.val).state = 1) (hc : s.clocks = true)
include hstate hc

/-- No link of a device with itself, and none without a lane, comes UP (R350). -/
theorem portTrained_stays_down (h : peer = s.glb.devId ∨ lanes = 0) :
    portTrained p peer peerPort lanes s = s.modPort p.val (fun q => { q with state := 0, lanes := 0 }) := by
  unfold portTrained
  dsimp only
  rw [if_neg (by simp [hstate, hc]), if_pos (by simpa using h)]

theorem portTrained_comes_up (hpeer : peer ≠ s.glb.devId) (hlanes : lanes ≠ 0) : portTrained p peer peerPort lanes s =
    (s.modPort p.val (fun q =>
      { q with state := 2, peerId := peer, peerPort := peerPort, good := lanes, lanes := activeMask lanes, clean := 0, newMask := none,
               txSeq := 0, rxSeq := 0, peerAck := 0x7FF, retry := [], txQueue := [], sinceCtrl := 0, nakSent := false,
               credits := [512, 128, 64, 64], returns := [0, 0, 0, 0], asm := [] })).judgeLag p.val := by
  unfold portTrained
  dsimp only
  rw [if_neg (by simp [hstate, hc]), if_neg (by simpa [hpeer] using hlanes)]

end Trained

/-- RETRAIN of an enabled port trains it (R362). -/
theorem retrain_trains (hen : (s.port p.val).en = true) (hopen : s.links.open_ = []) :
    ∃ u : State, retrain p s = u.portTrain p.val ∧ (u.port p.val).en = true := by
  refine ⟨s.modPort p.val (fun q => { q with en := true }), ?_, congrArg Port.en (State.modPort_same ..)⟩
  unfold retrain State.writePortCtrl
  rw [hen]
  exact portTrain_abortUnreachable (s := s.modPort p.val (fun q => { q with en := true })) p.val hopen

/-- RETRAIN of a disabled port writes EN as it was. -/
theorem retrain_of_disabled (hen : (s.port p.val).en = false) : retrain p s = s.modPort p.val (fun q => { q with en := false }) := by
  have hrsv : s.rsvIf (decide (4 ≤ b2n false + 2)) = s := rfl
  unfold retrain State.writePortCtrl
  rw [hen, hrsv]
  dsimp only
  rw [hen]
  rfl

/-! ## Widths -/

/-- A port that has proposed a mask waits for it in DEGRADE (R358). -/
theorem startWidth_port (s : State) (n : Nat) (mask : BitVec 4) : ∃ returns sinceCtrl, (s.startWidth n mask).port n =
    { s.port n with state := 3, newMask := some mask, returns := returns, sinceCtrl := sinceCtrl } :=
  ⟨_, _, by rw [State.startWidth, State.sendCtrl, State.emit_get_port, State.modPort_same, State.modPort_same]⟩

/-- Port n is UP with a mask, before it sends again. -/
def State.upWith (s : State) (n : Nat) (mask : BitVec 4) : State :=
  (s.modPort n (fun q => { q with state := 2, lanes := mask, newMask := none })).judgeLag n

theorem endWidth_onlySends (s : State) (n : Nat) (mask : BitVec 4) : OnlySends (s.upWith n mask) (s.endWidth n mask) :=
  (resend_onlySends ..).trans (drainPort_onlySends ..)

/-- A width change that ends leaves the port UP with its mask (R358). -/
theorem endWidth_port (s : State) (n : Nat) (mask : BitVec 4) : ((s.endWidth n mask).port n).state = 2 ∧
    ((s.endWidth n mask).port n).lanes = mask ∧ ((s.endWidth n mask).port n).newMask = none := by
  have h := (endWidth_onlySends s n mask).port n
  rw [State.upWith, judgeLag_same, State.modPort_same] at h
  exact ⟨h.state, h.lanes, h.newMask⟩

/-- What a port does with new working lanes: it runs on while its mask stays, and else proposes the mask that they give (R358). -/
def State.adaptsWidth (s u : State) (n : Nat) (good : BitVec 4) : State :=
  if (s.port n).state = 2 && activeMask good = (s.port n).lanes then u else u.startWidth n (activeMask good)

/-- Outside its line a port keeps its fields, and its state tells whether it has proposed a mask. -/
theorem adaptsWidth_port {u : State} {v : Port} {good : BitVec 4} (hport : u.port n = v) (hstate : v.state = (s.port n).state) :
    ((s.adaptsWidth u n good).port n).good = v.good ∧ ((s.adaptsWidth u n good).port n).clean = v.clean ∧
      ((s.adaptsWidth u n good).port n).laneDrops = v.laneDrops ∧ (s.adaptsWidth u n good).glb = u.glb ∧
      (if (s.port n).state = 2 ∧ activeMask good = (s.port n).lanes then ((s.adaptsWidth u n good).port n).state = 2
       else ((s.adaptsWidth u n good).port n).state = 3 ∧ ((s.adaptsWidth u n good).port n).newMask = some (activeMask good)) := by
  unfold State.adaptsWidth
  by_cases h : (s.port n).state = 2 ∧ activeMask good = (s.port n).lanes
  · rw [if_pos (by simpa using h), if_pos h, hport]
    exact ⟨rfl, rfl, rfl, rfl, hstate.trans h.1⟩
  · rw [if_neg (by simpa using h), if_neg h]
    obtain ⟨returns, sinceCtrl, hproposed⟩ := startWidth_port u n (activeMask good)
    rw [hproposed, hport]
    exact ⟨rfl, rfl, rfl, rfl, rfl, rfl⟩

section Lanes

variable {lane : Fin 4}

/-- The state in which a lane of port n has left the working lanes and one record says so. -/
def State.laneDropped (s : State) (n : Nat) (one : BitVec 4) : State :=
  (s.modPort n (fun q => { q with good := (s.port n).good &&& ~~~one, clean := q.clean &&& ~~~one,
                                  laneDrops := satInc q.laneDrops })).fault { kind := 0x0C, outcome := 0, loc := BitVec.ofNat 16 n }

theorem laneDrop_adapts (hup : s.portUp p.val = true) (hgood : (s.port p.val).good.getLsbD lane.val = true) : laneDrop p lane s =
    s.adaptsWidth (s.laneDropped p.val (1#4 <<< lane.val)) p.val ((s.port p.val).good &&& ~~~(1#4 <<< lane.val)) := by
  unfold laneDrop
  dsimp only
  rw [if_neg (by simp [hup, hgood])]
  rfl

theorem LogOnly.port (h : LogOnly s t) (n : Nat) : t.port n = s.port n := by
  rw [State.port, h.links]
  rfl

theorem laneDropped_port (s : State) (n : Nat) (one : BitVec 4) : (s.laneDropped n one).port n =
    { s.port n with good := (s.port n).good &&& ~~~one, clean := (s.port n).clean &&& ~~~one,
                    laneDrops := satInc (s.port n).laneDrops } := by
  rw [State.laneDropped, (fault_logOnly ..).port, State.modPort_same]

theorem laneDropped_flogHead (hc : s.clocks = true) (n : Nat) (one : BitVec 4) :
    (s.laneDropped n one).glb.flogHead = s.glb.flogHead + 1 :=
  fault_flogHead _ (by simpa [State.clocks] using hc)

theorem laneRetrain_marks (hup : s.portUp p.val = true) (hgood : (s.port p.val).good.getLsbD lane.val = false) :
    laneRetrain p lane s = s.modPort p.val (fun q => { q with clean := q.clean ||| (1#4 <<< lane.val) }) :=
  if_pos (by simpa [hup] using hgood)

/-- The state in which a lane of port n works again. -/
def State.laneRestored (s : State) (n : Nat) (one : BitVec 4) : State :=
  s.modPort n (fun q => { q with good := (s.port n).good ||| one, clean := q.clean &&& ~~~one })

theorem laneRestored_port (s : State) (n : Nat) (one : BitVec 4) : (s.laneRestored n one).port n =
    { s.port n with good := (s.port n).good ||| one, clean := (s.port n).clean &&& ~~~one } := State.modPort_same ..

theorem laneRestore_adapts (hup : s.portUp p.val = true) (hclean : (s.port p.val).clean.getLsbD lane.val = true) :
    laneRestore p lane s =
      s.adaptsWidth (s.laneRestored p.val (1#4 <<< lane.val)) p.val ((s.port p.val).good ||| (1#4 <<< lane.val)) :=
  if_pos (by simp [hup, hclean])

end Lanes

theorem width_ends {mask : BitVec 4} (hup : s.portUp p.val = true) (hmask : mask ≠ 0) (hc : s.clocks = true) :
    width p mask s = (s.sendCtrl p.val 4 []).endWidth p.val mask :=
  if_neg (by simpa [hup, hc] using hmask)

theorem widthAck_ends {mask : BitVec 4} (hstate : (s.port p.val).state = 3) (hproposed : (s.port p.val).newMask = some mask)
    (hmask : mask ≠ 0) : widthAck p s = s.endWidth p.val mask := by
  unfold widthAck
  rw [hproposed]
  exact if_pos (by simpa [hstate] using hmask)

/-! ## Laggards and routes -/

theorem linkLaggard_judges {retried sent : Nat} (hup : s.portUp p.val = true) (hover : s.overRetry retried sent = true) :
    linkLaggard p retried sent s = (s.modPort p.val (fun q => { q with lagRetry := true })).judgeLag p.val :=
  if_pos (by rw [hup, hover]; rfl)

theorem linkLaggardClear_judges {retried sent : Nat} (hwithin : s.overRetry retried sent = false) :
    linkLaggardClear p retried sent s = (s.modPort p.val (fun q => { q with lagRetry := false })).judgeLag p.val :=
  if_neg (by rw [hwithin]; exact Bool.false_ne_true)

/-- LAG as a port with its retry rate set reads it (R359). -/
theorem lagsNow_of_lagRetry (s : State) (n : Nat) (tooMany : Bool) : (s.modPort n (fun q => { q with lagRetry := tooMany })).lagsNow n =
    (s.portUp n && ((s.port n).lanes != 0xF || tooMany)) := by
  simp [State.lagsNow, State.portUp]

theorem routeRestore_restores {i : Fin 64} (halt : (s.route i.val).onAlt = true) (hhealthy : s.healthy (s.route i.val).pri.toNat = true) :
    routeRestore i s = s.modRoute i.val (fun r => { r with onAlt := false }) :=
  if_pos (by rw [halt, hhealthy]; rfl)

/-! ## Forwarding -/

section Forward

variable {packet : Packet} (hdst : packet.dst ≠ s.glb.devId) (hc : s.clocks = true)
include hdst hc

theorem packetForward_drops (hhop : packet.pflags.getLsbD 0 = true) : packetForward p packet s =
    (s.modLinks (fun l => { l with inbox := l.inbox.erase packet })).modPort p.val (fun q => { q with dropped := satInc q.dropped }) := by
  unfold packetForward
  dsimp only
  rw [if_neg (by simp [hdst, hc]), if_pos (by simp [hhop])]

theorem packetForward_forwards (hbad : packetBad packet = false) (hhop : packet.pflags.getLsbD 0 = false) (hroute : s.burouPort packet.dst = some n) :
    packetForward p packet s =
      (s.modLinks (fun l => { l with inbox := l.inbox.erase packet })).queueOn n { packet with pflags := packet.pflags ||| 1 } := by
  unfold packetForward
  dsimp only
  rw [if_neg (by simp [hdst, hc]), if_neg (by simpa [hbad] using hhop), hroute]

end Forward

/-- Settles O32: each command of training and each time-out, by the state in which it meets the port. -/
theorem portsTrainAndGoDown : Obligations.PortsTrainAndGoDown := by
  unfold Obligations.PortsTrainAndGoDown
  intro p s n
  have hdown := portDown_closed s n (state := 0) (by decide)
  refine ⟨?retrains, ?staysDown, ?comesUp, ?rxTimeout, ?rxIdle, ?widthTimeout, ?retrain, ?disabled⟩
  case retrains =>
    intro hstate hen hc
    obtain ⟨htraining, hgood, hretry, -⟩ := portTrain_port s n
    exact ⟨_, congrArg Host.Outcome.next (portRetrain_trains hstate hen hc), htraining, hgood, hretry⟩
  case staysDown =>
    exact fun peer pp lanes hstate hc h => congrArg Host.Outcome.next (portTrained_stays_down hstate hc h)
  case comesUp =>
    intro peer pp lanes hstate hc hpeer hlanes
    refine ⟨_, congrArg Host.Outcome.next (portTrained_comes_up hstate hc hpeer hlanes), ?_⟩
    rw [judgeLag_same, State.modPort_same]
    exact ⟨rfl, rfl, rfl, rfl, rfl, rfl, rfl, rfl, fun k hk => (judgeLag_other _ hk).trans (State.modPort_other _ _ _ hk)⟩
  case rxTimeout =>
    exact fun hstate hopen =>
      ⟨_, congrArg Host.Outcome.next (portRxTimeout_goes_down hstate hopen), hdown.state, hdown.lanes, hdown.retry⟩
  case rxIdle => exact fun hstate => congrArg Host.Outcome.next (if_neg hstate)
  case widthTimeout =>
    exact fun hstate hopen =>
      ⟨_, congrArg Host.Outcome.next (widthChangeTimeout_goes_down hstate hopen), hdown.state, hdown.lanes, hdown.retry⟩
  case retrain =>
    intro hen hopen
    obtain ⟨u, hu, huen⟩ := retrain_trains hen hopen
    obtain ⟨htraining, hgood, -, hkept⟩ := portTrain_port u n
    exact ⟨_, congrArg Host.Outcome.next hu, htraining, hgood, hkept.trans huen⟩
  case disabled =>
    intro hen
    refine ⟨_, congrArg Host.Outcome.next (retrain_of_disabled hen), ?_⟩
    rw [State.modPort_same]
    exact ⟨rfl, rfl⟩

/-- Settles O33: each event of a lane, by what it leaves of the working lanes, and both ends of a width change. -/
theorem lanesDropAndComeBack : Obligations.LanesDropAndComeBack := by
  unfold Obligations.LanesDropAndComeBack
  intro p lane s n q one
  refine ⟨?drops, ?retrains, ?restores, ?peerProposes, ?peerAccepts⟩
  case drops =>
    intro hup hgood hc
    obtain ⟨hleft, -, hcounted, hglb, hstate⟩ := adaptsWidth_port (good := q.good &&& ~~~one) (laneDropped_port s n one) rfl
    exact ⟨_, congrArg Host.Outcome.next (laneDrop_adapts hup hgood), hleft, hcounted,
      (congrArg Glb.flogHead hglb).trans (laneDropped_flogHead hc n one), hstate⟩
  case retrains => exact fun hup hgood => congrArg Host.Outcome.next (laneRetrain_marks hup hgood)
  case restores =>
    intro hup hclean
    obtain ⟨hback, hunmarked, -, -, hstate⟩ := adaptsWidth_port (good := q.good ||| one) (laneRestored_port s n one) rfl
    exact ⟨_, congrArg Host.Outcome.next (laneRestore_adapts hup hclean), hback, hunmarked, hstate⟩
  case peerProposes =>
    exact fun mask hup hmask hc => ⟨_, congrArg Host.Outcome.next (width_ends hup hmask hc), endWidth_port ..⟩
  case peerAccepts =>
    exact fun mask hstate hproposed hmask => ⟨_, congrArg Host.Outcome.next (widthAck_ends hstate hproposed hmask), endWidth_port ..⟩

/-- Settles O34: LAG as the port's width and the retry rate give it, and a route whose primary is healthy. -/
theorem linkLaggardsAndTheirRoutes : Obligations.LinkLaggardsAndTheirRoutes := by
  unfold Obligations.LinkLaggardsAndTheirRoutes
  intro p retried sent s
  refine ⟨?exceeds, ?within, ?restored⟩
  case exceeds =>
    intro hup hover
    refine ⟨_, congrArg Host.Outcome.next (linkLaggard_judges hup (decide_eq_true hover)), ?_⟩
    rw [judgeLag_same, lagsNow_of_lagRetry, State.modPort_same, hup, Bool.or_true]
    exact ⟨rfl, rfl⟩
  case within =>
    intro hwithin
    refine ⟨_, congrArg Host.Outcome.next (linkLaggardClear_judges (decide_eq_false (Nat.not_lt.2 hwithin))), ?_⟩
    rw [judgeLag_same, lagsNow_of_lagRetry, State.modPort_same, Bool.or_false]
    exact ⟨rfl, rfl⟩
  case restored =>
    intro i halt hpri hstate hlanes hlag
    exact congrArg Host.Outcome.next (routeRestore_restores halt (by simp [State.healthy, hpri, hstate, hlanes, hlag]))

/-- Settles O36: a packet that has hopped is dropped, and any other leaves by the port that its route names. -/
theorem packetsAreForwardedOnce : Obligations.PacketsAreForwardedOnce := by
  unfold Obligations.PacketsAreForwardedOnce
  intro inPort packet s hdst hc hbad
  refine ⟨?hopped, ?first⟩
  case hopped =>
    exact fun hhop => ⟨_, congrArg Host.Outcome.next (packetForward_drops hdst hc hhop), congrArg Port.dropped (State.modPort_same ..), rfl⟩
  case first =>
    exact fun n hhop hroute => ⟨_, congrArg Host.Outcome.next (packetForward_forwards hdst hc hbad hhop hroute), mem_out_queueOn ..,
      ((queueOn_onlySends ..).port inPort.val).dropped⟩

end Sys2Proof.Machine
end

section
/-!
Packets for this device that are no part of a collective (R365, R370): mailboxes, doorbells, refusals, management.
-/
namespace Sys2Proof.Machine

variable {s t u : State} {n : Nat} {p : Packet}

/-! ## What looking at a reel's head can do (R265) -/

/-- Reel n keeps its TAIL and DBREJ, and every other reel stays as it is. -/
structure HeadMoves (n : Nat) (s t : State) : Prop where
  tail : (t.reel n).tail = (s.reel n).tail
  dbRej : (t.reel n).dbRej = (s.reel n).dbRej
  other : ∀ m, m ≠ n → t.reel m = s.reel m

namespace HeadMoves

theorem refl (s : State) : HeadMoves n s s := ⟨rfl, rfl, fun _ _ => rfl⟩

theorem trans (h : HeadMoves n s t) (k : HeadMoves n t u) : HeadMoves n s u :=
  ⟨k.tail.trans h.tail, k.dbRej.trans h.dbRej, fun m hm => (k.other m hm).trans (h.other m hm)⟩

theorem of_reels (h : t.reels = s.reels) : HeadMoves n s t := by
  have hreel : ∀ m, t.reel m = s.reel m := fun m => congrArg (tget reel0 · m) h
  exact ⟨congrArg Reel.tail (hreel n), congrArg Reel.dbRej (hreel n), fun m _ => hreel m⟩

theorem setReel {r : Reel} (htail : r.tail = (s.reel n).tail) (hrej : r.dbRej = (s.reel n).dbRej) : HeadMoves n s (s.setReel n r) :=
  ⟨(congrArg Reel.tail (State.setReel_same ..)).trans htail, (congrArg Reel.dbRej (State.setReel_same ..)).trans hrej,
    fun _ hm => State.setReel_other _ _ _ hm⟩

theorem hold (s : State) (n : Nat) (st : Half) (seq : Word) : HeadMoves n s (s.hold n st seq) :=
  (setReel (r := { s.reel n with held := true }) rfl rfl).trans (of_reels rfl)

theorem consume (s : State) (n : Nat) (sh : Shot) (pred : Option Bool) : HeadMoves n s (s.consume n sh pred) :=
  (of_reels rfl : HeadMoves n s { s with journal := (⟨Fin.ofNat 1024 n, sh.seq⟩, pred) :: s.journal }).trans (setReel rfl rfl)

end HeadMoves

/-- A completion record touches no reel. -/
theorem writeRecord_reels {owner : BitVec 2} {ten : BitVec 6} {sref : Dword} {rec : List Byte}
    (h : s.writeRecord owner ten sref rec = some t) : t.reels = s.reels := by
  unfold State.writeRecord at h
  dsimp only at h
  split at h
  · split at h
    · next v hv =>
      cases h
      obtain ⟨_, _, _, rfl⟩ := write_memoryOnly hv
      rfl
    · cases h
    · cases h; rfl
  · cases h
    generalize (if owner = 1 then (1 : Fin 2) else 0) = port
    split <;> rfl
  · cases h; rfl

theorem complete_reels {ten : BitVec 6} {sh : Shot} {rec : List Byte} (h : s.complete n ten sh rec = some t) : t.reels = s.reels := by
  obtain ⟨v, hv, rfl⟩ := Option.map_eq_some_iff.1 h
  rw [← writeRecord_reels hv]
  split <;> rfl

theorem lookHead_moves (fuel n : Nat) (s : State) : HeadMoves n s (State.lookHead fuel n s) := by
  induction fuel generalizing s with
  | zero => exact .refl s
  | succ fuel ih =>
    unfold State.lookHead
    dsimp only
    split
    · exact .refl s
    · split
      case h_1 => exact .setReel rfl rfl
      case h_2 => exact .setReel rfl rfl
      case h_3 => exact .refl s
      case h_4 st seq _ => exact (HeadMoves.setReel (r := { s.reel n with part := false }) rfl rfl).trans (.hold ..)
      case h_5 => exact .setReel rfl rfl
      case h_6 sh st _ =>
        split
        · exact .refl s
        · next v hv =>
          exact (((HeadMoves.setReel (r := { s.reel n with span := (s.reel n).span - 1 }) rfl rfl).trans (.consume ..)).trans
            (.of_reels (complete_reels hv))).trans (ih v)

/-! ## A packet is taken -/

/-- The state in which a packet that waited is in hand. -/
def State.taking (s : State) (p : Packet) : State := s.modLinks (fun l => { l with inbox := l.inbox.erase p })

section Take

variable (he : s.ebtor = true) (hc : s.clocks = true) (hgood : packetBad p = false) (hdst : p.dst = s.glb.devId)
include he hc hgood hdst

theorem takePacket_takes {ty : Byte} (hty : p.ptype = ty) (g : State → State) : s.takePacket ty.toNat p g = g (s.taking p) :=
  if_pos (by simp [he, hc, hgood, hdst, hty])

theorem mailbox_writes (hty : p.ptype = 0x09) : mailbox p s =
    (s.taking p).writeMailbox (.peer p.src) (p.arg.toNat % 64) p.payload.length (BitVec.ofNat 64 (leNat p.payload)) :=
  takePacket_takes he hc hgood hdst hty _

theorem doorbellPacket_rings (hty : p.ptype = 0x0A) (burou : Bool) : doorbellPacket burou p s =
    (s.taking p).ringDoorbell (p.arg.toNat % 1024) (burou && (s.reel (p.arg.toNat % 1024)).owner = 2) false (p.payload.length = 8)
      (BitVec.ofNat 64 (leNat p.payload)) :=
  takePacket_takes he hc hgood hdst hty _

theorem reject_notes (hty : p.ptype = 0x0B) : reject p s =
    (s.taking p).modLinks (fun l => { l with refused := l.refused ++ [(p.src, p.arg.toNat % 64)] }) :=
  takePacket_takes he hc hgood hdst hty _

theorem mgmt_hands_on (hty : p.ptype = 0x0C) : mgmt p s = (s.taking p).modLinks (fun l => { l with mgmt := l.mgmt ++ [p] }) :=
  takePacket_takes he hc hgood hdst hty _

end Take

/-! ## Mailboxes (R283) -/

/-- What a peer's write needs to be accepted. -/
def PeerMayWrite (s : State) (m size : Nat) (w : Dword) : Prop :=
  size = 8 ∧ (s.mb m).full = false ∧ m < 16 ∧ (w.getLsbD 63 = true → w.toNat % 64 = 0)

theorem peerMayWrite_iff (d : Half) (m size : Nat) (w : Dword) :
    (size = 8 && !(s.mb m).full && mayWrite (.peer d) m && (!w.getLsbD 63 || w.toNat % 64 = 0)) = true ↔ PeerMayWrite s m size w := by
  simp [PeerMayWrite, mayWrite, and_assoc, Decidable.imp_iff_not_or]

theorem writeMailbox_accepts {m size : Nat} {w : Dword} (d : Half) (h : PeerMayWrite s m size w) : s.writeMailbox (.peer d) m size w =
    s.modMb m (fun b => { b with data := w, full := true, kind := 4, id := d.setWidth 17 }) := by
  have hm : ¬ 16 ≤ m := Nat.not_le.2 h.2.2.1
  unfold State.writeMailbox
  dsimp only
  rw [if_pos ((peerMayWrite_iff ..).2 h), if_neg hm]
  rfl

/-- A refused write counts in its mailbox; the REJECT that reports it touches none (R283). -/
theorem writeMailbox_refuses {m size : Nat} {w : Dword} (d : Half) (h : ¬ PeerMayWrite s m size w) :
    (s.writeMailbox (.peer d) m size w).mb m = { s.mb m with rejects := satInc (s.mb m).rejects } ∧
      ∀ k, k ≠ m → (s.writeMailbox (.peer d) m size w).mb k = s.mb k := by
  unfold State.writeMailbox
  dsimp only
  rw [if_neg (fun hok => h ((peerMayWrite_iff ..).1 hok)), State.reportRefusal]
  exact ⟨((send_onlySends ..).mb m).trans (State.modMb_same ..), fun k hk => ((send_onlySends ..).mb k).trans (State.modMb_other _ _ _ hk)⟩

theorem toNat_payload_mod (bs : List Byte) : (BitVec.ofNat 64 (leNat bs)).toNat % 64 = leNat bs % 64 := by
  rw [BitVec.toNat_ofNat, Nat.mod_mod_of_dvd _ (by decide)]

/-! ## Doorbells (R275) -/

theorem ringDoorbell_counts {owner whole : Bool} (ide : Bool) (w : Dword) (h : owner = false ∨ whole = false) :
    s.ringDoorbell n owner ide whole w = s.modReel n (fun r => { r with dbRej := satInc r.dbRej }) := by
  unfold State.ringDoorbell
  dsimp only
  rw [if_neg (by rcases h with rfl | rfl <;> simp)]
  rfl

/-- A word that meets the conditions of R275 sets TAIL, and counts nowhere. -/
theorem ringDoorbell_sets {v : Nat} (hen : (s.reel n).en = true) (hide : (s.tenant (s.reel n).tenant.toNat).reqIde = false)
    (hlt : v < 2 ^ 64) (hzero : v / 2 ^ 48 = 0) (hepoch : v / 2 ^ 32 % 2 ^ 16 = (s.reel n).epoch.toNat)
    (hforward : 0 ≤ (BitVec.ofNat 32 v - (s.reel n).tail).toInt)
    (hroom : (BitVec.ofNat 32 v - (s.reel n).head).toNat ≤ 2 ^ ((s.reel n).size.toNat + 10)) :
    HeadMoves n (s.setReel n { s.reel n with tail := BitVec.ofNat 32 v }) (s.ringDoorbell n true false true (BitVec.ofNat 64 v)) := by
  have hv : (BitVec.ofNat 64 v).toNat = v := by rw [BitVec.toNat_ofNat, Nat.mod_eq_of_lt hlt]
  have hcap : (BitVec.ofNat 32 v - (s.reel n).head).toNat ≤ (s.reel n).capacity := hroom
  have hepoch' : v / 2 ^ 32 % 0x10000 = (s.reel n).epoch.toNat := hepoch
  unfold State.ringDoorbell
  dsimp only
  rw [hv, if_pos (by simp only [hen, hide, hzero, hepoch', hforward, hcap, decide_true, Bool.not_false, Bool.or_true, Bool.and_self])]
  exact lookHead_moves ..

/-- Settles O25: a packet of each kind, by what it meets at its mailbox or reel. -/
theorem packetsReachMailboxesReelsAndEbtor : Obligations.PacketsReachMailboxesReelsAndEbtor := by
  unfold Obligations.PacketsReachMailboxesReelsAndEbtor
  intro p s he hc hgood hdst s1
  refine ⟨?accepted, ?refused, ?counted, ?rung, ?reject, ?mgmt⟩
  case accepted =>
    intro hty hlen hm hempty haligned
    refine congrArg Host.Outcome.next ((mailbox_writes he hc hgood hdst hty).trans (writeMailbox_accepts p.src ⟨hlen, hempty, hm, ?_⟩))
    rwa [toNat_payload_mod]
  case refused =>
    intro hty hbad
    refine ⟨_, congrArg Host.Outcome.next (mailbox_writes he hc hgood hdst hty), writeMailbox_refuses p.src ?_⟩
    rintro ⟨hlen, hempty, hm, haligned⟩
    rw [toNat_payload_mod] at haligned
    rcases hbad with h | h | h | ⟨hbody, hoff⟩
    · exact h hlen
    · exact absurd hm (Nat.not_lt.2 h)
    · exact absurd (h.symm.trans hempty) (by decide)
    · exact hoff (haligned hbody)
  case counted =>
    intro burou hty hbad
    refine congrArg Host.Outcome.next ((doorbellPacket_rings he hc hgood hdst hty burou).trans (ringDoorbell_counts false _ ?_))
    rcases hbad with rfl | h | h
    · exact .inl rfl
    · exact .inl (by rw [decide_eq_false h, Bool.and_false])
    · exact .inr (decide_eq_false h)
  case rung =>
    intro n r v tail hty howner hlen hen hide hzero hepoch hforward hroom
    have hlt : v < 2 ^ 64 := by
      have h := leNat_lt p.payload
      rwa [hlen] at h
    have hmoves : HeadMoves n (s1.setReel n { r with tail := tail }) (s1.ringDoorbell n true false true (BitVec.ofNat 64 v)) :=
      ringDoorbell_sets hen hide hlt hzero hepoch hforward hroom
    have hrings : doorbellPacket true p s = s1.ringDoorbell n true false true (BitVec.ofNat 64 v) := by
      rw [doorbellPacket_rings he hc hgood hdst hty, hlen, howner]
      rfl
    refine ⟨_, congrArg Host.Outcome.next hrings, hmoves.tail.trans ?_, hmoves.dbRej.trans ?_, fun m hm => (hmoves.other m hm).trans ?_⟩
    · rw [State.setReel_same]
    · rw [State.setReel_same]
    · exact State.setReel_other _ _ _ hm
  case reject => exact fun hty => congrArg Host.Outcome.next (reject_notes he hc hgood hdst hty)
  case mgmt => exact fun hty => congrArg Host.Outcome.next (mgmt_hands_on he hc hgood hdst hty)

end Sys2Proof.Machine
end

section
/-!
Ethernet ports (R371 to R373): protection, answers on the port's own addresses, keys, pauses, RoCEv2.
-/
namespace Sys2Proof.Machine

variable {s : State} {e : Fin 4}

theorem ethernetFrame_drops {b : List Byte} (hup : (s.eth e.val).up = true) (htype : etherType b ≠ [0x88, 0x8E]) :
    ethernetFrame e false b s = s.modEth e.val (fun q => { q with drops := satInc q.drops }) :=
  if_pos (by rw [hup]; exact decide_eq_true htype)

theorem ethernetFrame_leaves {b : List Byte} {macsec : Bool} (h : macsec = true ∨ etherType b = [0x88, 0x8E]) :
    ethernetFrame e macsec b s = s :=
  if_neg (by
    rcases h with rfl | h
    · simp
    · simp [h])

theorem arp_answers (mac ip : List Byte) {target : List Byte} (hlen : target.length = 4) (h : s.answers e target = true) :
    arp e mac ip target s = s.emit (.ethernet e (arpReply (s.eth e.val).mac mac ip target)) :=
  if_pos (by rw [hlen, h]; rfl)

/-- What a neighbour advertisement says past its checksum (R371). -/
def advertised (own target : List Byte) : List Byte :=
  [0x60#8, 0x00#8, 0x00#8, 0x00#8] ++ target ++ [0x02#8, 0x01#8] ++ own

theorem neighbourDiscovery_answers (mac ip : List Byte) {target : List Byte} (hlen : target.length = 16) (h : s.answers e target = true) :
    ∃ sum, sum.length = 2 ∧ neighbourDiscovery e mac ip target s =
      s.emit (.ethernet e (target ++ ip ++ [0x88#8, 0x00#8] ++ (sum ++ advertised (s.eth e.val).mac target))) :=
  ⟨icmp6Sum target ip ([0x88#8, 0x00#8, 0x00#8, 0x00#8] ++ advertised (s.eth e.val).mac target), rfl,
    (if_pos (by rw [hlen, h]; rfl)).trans (by rw [← List.append_assoc]; rfl)⟩

/-- An echo reply repeats the request past four bytes of type and checksum. -/
theorem icmpEcho_answers (ip d : List Byte) {target : List Byte} (h : s.answers e target = true) :
    ∃ head, head.length = 4 ∧ icmpEcho e ip target d s = s.emit (.ethernet e (target ++ ip ++ (head ++ d))) := by
  unfold icmpEcho
  rw [if_pos h]
  dsimp only
  split
  · exact ⟨_, rfl, rfl⟩
  · exact ⟨_, rfl, rfl⟩

theorem eapol_secures {ckn : List Byte} {k : BitVec 256} (hcak : (s.eth e.val).cak = some (ckn, k)) (hup : (s.eth e.val).up = true) :
    eapol e ckn true s = s.modEth e.val (fun q => { q with secured := true }) := by
  unfold eapol
  rw [hcak]
  exact if_pos (by simp [hup])

theorem priorityFlowControl_pauses {prio : Fin 8} {quanta : Half} (hon : bit (leAt (s.eth e.val).config 27 1) 4 = true)
    (hprio : leAt (s.eth e.val).config 27 1 % 16 = prio.val) (hquanta : quanta ≠ 0) :
    priorityFlowControl e prio quanta s = s.modEth e.val (fun q => { q with paused := q.paused ||| (1#8 <<< prio.val) }) := by
  unfold priorityFlowControl
  dsimp only
  rw [if_pos (by rw [hon, decide_eq_true hprio]; rfl), if_neg hquanta]
  simp only [if_neg hquanta]

/-- A packet whose PSN its queue pair expects waits at the device, and the next PSN is expected (R373). -/
theorem roceSend_passes_on {src : Half} {psn : Nat} {p : Packet} (hready : (s.eth e.val).ready = true)
    (husable : (tget (fun _ => 0) s.links.peers src.toNat).testBit e.val = true) (hbase : s.links.edgBase ≠ 0)
    (hpsn : psn = tget (fun _ => 0) s.links.psnRx src.toNat) (hc : s.clocks = true) (hgood : packetBad p = false) :
    roceSend e src psn p s = s.modLinks (fun l =>
      { l with psnRx := tset l.psnRx src.toNat ((psn + 1) % 2 ^ 24), inbox := l.inbox ++ [p] }) := by
  unfold roceSend
  dsimp only
  rw [if_pos (by simpa [hready, husable, hpsn, hc] using hbase), if_neg (by rw [hgood]; exact Bool.false_ne_true), ← hpsn]
  rfl

/-- With no collective open, a queue pair that has exhausted its retries is only noted. -/
theorem qpRetryExhausted_notes (peer : Half) (hopen : s.links.open_ = []) : qpRetryExhausted peer s = s.modLinks (fun l =>
    { l with qpDead := if l.qpDead.contains peer.toNat then l.qpDead else l.qpDead ++ [peer.toNat] }) :=
  abortUnreachable_of_none_open hopen

/-- Settles O37: each command of a port by what it carries. -/
theorem ethernetPortsProtectAndAnswer : Obligations.EthernetPortsProtectAndAnswer := by
  unfold Obligations.EthernetPortsProtectAndAnswer
  intro e s
  refine ⟨?dropped, ?left, ?arp, ?neighbour, ?echo, ?agreed, ?paused, ?passed, ?exhausted⟩
  case dropped => exact fun b hup htype => congrArg Host.Outcome.next (ethernetFrame_drops hup htype)
  case left => exact fun b macsec h => congrArg Host.Outcome.next (ethernetFrame_leaves h)
  case arp => exact fun mac ip target hlen h => congrArg Host.Outcome.next (arp_answers mac ip hlen h)
  case neighbour =>
    intro mac ip target hlen h
    obtain ⟨sum, hsum, hanswer⟩ := neighbourDiscovery_answers mac ip hlen h
    exact ⟨_, congrArg Host.Outcome.next hanswer, List.drop_left' hsum⟩
  case echo =>
    intro ip target d h
    obtain ⟨head, hhead, hanswer⟩ := icmpEcho_answers ip d h
    exact ⟨_, congrArg Host.Outcome.next hanswer, List.drop_left' hhead⟩
  case agreed => exact fun ckn k hcak hup => congrArg Host.Outcome.next (eapol_secures hcak hup)
  case paused => exact fun prio quanta hon hprio hquanta => congrArg Host.Outcome.next (priorityFlowControl_pauses hon hprio hquanta)
  case passed =>
    exact fun src psn p hready husable hbase hpsn hc hgood =>
      ⟨_, congrArg Host.Outcome.next (roceSend_passes_on hready husable hbase hpsn hc hgood), rfl, tget_tset_same ..⟩
  case exhausted =>
    intro peer hopen
    refine ⟨_, congrArg Host.Outcome.next (qpRetryExhausted_notes peer hopen), ?_, ?_, rfl⟩
    · show peer.toNat ∈ (if s.links.qpDead.contains peer.toNat then s.links.qpDead else s.links.qpDead ++ [peer.toNat])
      split
      · next h => exact List.contains_iff_mem.1 h
      · exact List.mem_append_right _ (List.mem_singleton_self _)
    · show s.links.qpDead ⊆ (if s.links.qpDead.contains peer.toNat then s.links.qpDead else s.links.qpDead ++ [peer.toNat])
      split
      · exact List.Subset.refl _
      · exact List.subset_append_left ..

end Sys2Proof.Machine
end

section
/-!
The opening of collectives (R380 to R388).
-/
namespace Sys2Proof.Machine

/-- Shot 5 of reel 7, a BARRIER on cast entry 5, as it has been dispatched; a read for its part 0 has met a poisoned block (R302). -/
def barrierShot : Tracked :=
  { reel := 7, mode := 0, tenant := 0, job := 0, eval := false, lost := [(0, 0x0311, 0)],
    shot := { opcode := 0x204, version := 1, len16 := 1, flags := 0, seq := 5, sref := 0, pred := none, chk := none, body := leBytes 2 5 } }

/-- Ebtor runs, and this device is the one member of cast entry 5. -/
def aloneInBarrier : State :=
  { glb := { active := 1 }, tracked := [barrierShot], links := { casts := [(5, { valid := true, members := [0] })] } }

theorem barrier_lands_with_lost_read : ((barrier ⟨7, 5⟩ aloneInBarrier).trackedOf ⟨7, 5⟩).map (·.status) = some 0x0311 := by decide +kernel

/-- Refutes O45: a BARRIER of one member lands, but with the status of a read that its part has lost before (`Tracked.landOne`), where the
clause for one member asks for SUCCESS. -/
theorem not_collectivesOpenAtTheirMembers : ¬ Obligations.CollectivesOpenAtTheirMembers := by
  unfold Obligations.CollectivesOpenAtTheirMembers
  intro h
  obtain ⟨⟨-, -, -, -, hbarrier⟩, -⟩ := h aloneInBarrier ⟨7, 5⟩ barrierShot
  have hruns : ShotRuns aloneInBarrier ⟨7, 5⟩ 0x204 barrierShot := by
    unfold ShotRuns
    decide +kernel
  obtain ⟨t, y, hexec, htracked, -, hstatus, -⟩ := (hbarrier ⟨hruns, by decide +kernel⟩).2 (by decide +kernel) (by decide +kernel)
  cases hexec
  have hlost := barrier_lands_with_lost_read
  rw [htracked, Option.map_some, hstatus] at hlost
  exact absurd hlost (by decide)

end Sys2Proof.Machine
end

section
/-!
The clapper (R397 to R403): its count, the offsets it measures, the exchange with a parent, the masters' sources, loss of sync and
configuration.
-/
namespace Sys2Proof.Machine

/-! ## The count (R397, R398) -/

namespace Clapper

variable {c : Clapper}

theorem tick_of_no_slew (h : c.slew = 0) : c.tick = { c with count := c.count + 1, phase := 0 } := if_pos h

/-- A tick changes the count and the bookkeeping of the slew alone: it adds 1, but leaves a correction out or adds one more. -/
theorem tick_cases (c : Clapper) : ∃ count slew phase, c.tick = { c with count := count, slew := slew, phase := phase } ∧
    (count = c.count ∨ count = c.count + 1 ∨ count = c.count + 2) := by
  unfold tick
  split
  case isTrue => exact ⟨_, c.slew, 0, rfl, .inr (.inl rfl)⟩
  case isFalse =>
    split
    case isTrue => exact ⟨_, c.slew, c.phase + 1, rfl, .inr (.inl rfl)⟩
    case isFalse =>
      split
      case isTrue => exact ⟨c.count, c.slew - 1, 0, rfl, .inl rfl⟩
      case isFalse => exact ⟨_, c.slew + 1, 0, rfl, .inr (.inr rfl)⟩

end Clapper

/-- Settles O2: what a tick can do to the clapper. -/
theorem emptyQueueStepTicksClapper : Obligations.EmptyQueueStepTicksClapper := by
  unfold Obligations.EmptyQueueStepTicksClapper
  intro s hempty
  have hstep : step s = .next { s with clap := s.clap.tick } := by rw [step, hempty]
  obtain ⟨count, slew, phase, htick, hcount⟩ := s.clap.tick_cases
  refine ⟨s.clap.tick, hstep, fun hslew => by rw [Clapper.tick_of_no_slew hslew], ?_⟩
  rw [htick]
  exact ⟨hcount, rfl, rfl, rfl, rfl⟩

/-! ## A measured offset (R398, R403) -/

namespace Clapper

variable {c : Clapper} {limit off : Int}

/-- The clapper with an offset noted: OFFSET, the run of good offsets and the lock, before the count follows. -/
def noteOffset (c : Clapper) (limit off : Int) : Clapper :=
  let good := if -limit ≤ off ∧ off ≤ limit then c.good + 1 else 0
  { c with offset := offsetField off, good := good, state := if 16 ≤ good then 2 else c.state }

theorem noteOffset_within (h : -limit ≤ off ∧ off ≤ limit) : c.noteOffset limit off =
    { c with offset := offsetField off, good := c.good + 1, state := if 16 ≤ c.good + 1 then 2 else c.state } := by
  rw [noteOffset, if_pos h]

theorem noteOffset_beyond (h : ¬ (-limit ≤ off ∧ off ≤ limit)) : c.noteOffset limit off =
    { c with offset := offsetField off, good := 0 } := by
  rw [noteOffset, if_neg h]
  rfl

/-- The first offset in ACQUIRING steps the count to the source. -/
theorem measure_steps (v : Dword) (hstate : (c.noteOffset limit off).state = 1) (hstepped : c.stepped = false) :
    c.measure limit off v = { c.noteOffset limit off with count := v, stepped := true, slew := 0 } :=
  if_pos (Bool.and_eq_true_iff.2 ⟨decide_eq_true hstate, by rw [hstepped]; rfl⟩)

/-- Every other offset is to be slewed away. -/
theorem measure_slews (v : Dword) (h : (c.noteOffset limit off).state ≠ 1 ∨ c.stepped = true) :
    c.measure limit off v = { c.noteOffset limit off with slew := off } :=
  if_neg fun hfirst => by
    obtain ⟨hstate, hstepped⟩ := Bool.and_eq_true_iff.1 hfirst
    rcases h with h | h
    · exact h (of_decide_eq_true hstate)
    · exact absurd (hstepped : (!c.stepped) = true) (by simp [h])

/-- However the count follows, what was noted of the offset stays. -/
theorem measure_eq_noted (c : Clapper) (limit off : Int) (v : Dword) : ∃ count stepped slew, c.measure limit off v =
    { c.noteOffset limit off with count := count, stepped := stepped, slew := slew } := by
  by_cases h : (c.noteOffset limit off).state = 1 ∧ c.stepped = false
  · exact ⟨_, _, _, measure_steps v h.1 h.2⟩
  · exact ⟨_, _, _, measure_slews v ((not_and_or.1 h).imp_right (Bool.not_eq_false _).mp)⟩

end Clapper

/-! ## The exchange with the parent (R400) -/

section Exchange

variable {s t : State} {p : Fin 20}

/-- The parent depends on the clapper's own registers, the ports' states and the depths their peers report. -/
theorem clapParent_congr (hclap : t.clap = s.clap)
    (hport : ∀ k, (t.port k).state = (s.port k).state ∧ (t.port k).syncDepth = (s.port k).syncDepth) : t.clapParent = s.clapParent := by
  have hup : t.portUp = s.portUp := funext fun k => by rw [State.portUp, State.portUp, (hport k).1]
  have hdepth : ∀ k, (t.port k).syncDepth = (s.port k).syncDepth := fun k => (hport k).2
  simp only [State.clapParent, hclap, hup, hdepth]

/-- The port as a SYNC flit leaves it. -/
def Port.synced (q : Port) (tTx : Dword) (locked : Bool) (depth : BitVec 3) (t4 : Dword) : Port :=
  { q with syncDepth := depth, syncLocked := locked, rxLast := t4, txLast := tTx }

theorem clapParent_synced (tTx : Dword) (locked : Bool) (depth : BitVec 3) (t4 : Dword) :
    (s.modPort p.val (·.synced tTx locked depth t4)).clapParent =
      (s.modPort p.val (fun q => { q with syncDepth := depth })).clapParent := by
  refine clapParent_congr rfl fun k => ?_
  rw [State.modPort_port, State.modPort_port]
  split
  · exact ⟨rfl, rfl⟩
  · exact ⟨rfl, rfl⟩

variable (hstate : (s.port p.val).state = 2) (hc : s.clocks = true)
include hstate hc

theorem sync_of_other_role {tTx tRx tTxLast t4 : Dword} {locked : Bool} {depth : BitVec 3} (hrole : s.clap.role ≠ 1) :
    sync p tTx tRx tTxLast locked depth t4 s = s.modPort p.val (·.synced tTx locked depth t4) := by
  unfold sync
  rw [if_neg (by simp [hstate, hc])]
  exact if_neg (by rw [State.modPort_clap, decide_eq_false hrole]; exact Bool.false_ne_true)

/-- A MEMBER takes its offset and its delay from the timestamps of its parent's flit. -/
theorem sync_of_parent {tTx tRx tTxLast t4 : Dword} {locked : Bool} {depth : BitVec 3} (hrole : s.clap.role = 1)
    (hparent : (s.modPort p.val (fun q => { q with syncDepth := depth })).clapParent = some p.val) (hanswers : tRx ≠ 0) :
    let theta := ((t4 - tTx).toInt - (tRx - tTxLast).toInt) / 2
    sync p tTx tRx tTxLast locked depth t4 s = (s.modPort p.val (·.synced tTx locked depth t4)).modClap (fun c =>
      { c.measure 2 theta (s.clap.count - BitVec.ofInt 64 theta) with
        delay := ((tRx - tTxLast).toInt + (t4 - tTx).toInt) / 2, depth := if depth = 7 then 7 else depth + 1 }) := by
  rw [← clapParent_synced tTx locked depth t4] at hparent
  unfold sync
  rw [if_neg (by simp [hstate, hc])]
  refine if_pos ?_
  rw [Bool.and_eq_true_iff, Bool.and_eq_true_iff]
  exact ⟨⟨decide_eq_true hrole, decide_eq_true hparent⟩, by rw [decide_eq_false hanswers]; rfl⟩

end Exchange

/-! ## The SYNC flit (Table 14-2) -/

/-- Byte 12 of what a CTRL flit carries past its header is the first byte of its content (Table 13-3). -/
theorem leAt_ctrl {credits content : List Byte} (hcredits : credits.length = 8) (hcontent : content.length ≤ 180)
    (ctype : Byte) (a n : Nat) : leAt (bytesAt (credits ++ [ctype] ++ zeros 3 ++ content) 0 192) (12 + a) n = leAt (content ++ zeros (180 - content.length)) a n := by
  have hhead : (credits ++ [ctype] ++ zeros 3).length = 12 := by simp [hcredits, zeros]
  have hpad : 192 - (credits ++ [ctype] ++ zeros 3 ++ content).length = 180 - content.length := by rw [List.length_append, hhead]; omega
  rw [bytesAt_of_le (by rw [List.length_append, hhead]; omega), hpad, List.append_assoc, ← hhead]
  exact leAt_append_right ..

/-- A CTRL flit that returns four credits carries its content from byte 12 on. -/
theorem sendCtrl_content {s : State} {p : Fin 20} (hreturns : (s.port p.val).returns.length = 4) (ctype : Byte) {content : List Byte}
    (hcontent : content.length ≤ 180) : ∃ c, s.sendCtrl p.val ctype content =
      (s.modPort p.val (fun q => { q with returns := [0, 0, 0, 0], sinceCtrl := 0 })).emit (.ctrl p ctype c) ∧
      ∀ a n, leAt c (12 + a) n = leAt (content ++ zeros (180 - content.length)) a n := by
  have hcredits : (((s.port p.val).returns.map (leBytes 2)).flatten).length = 8 := by
    rw [← List.flatMap_def]
    exact (fields_length 2 id _).trans (by rw [hreturns])
  refine ⟨_, ?_, leAt_ctrl hcredits hcontent ctype⟩
  rw [State.sendCtrl, Fin.ofNat_val_eq_self]

/-- What a port tells its peer in a SYNC flit: its count, the two times of the peer's last SYNC, and STAT. -/
def syncContent (c : Clapper) (q : Port) : List Byte :=
  leBytes 8 c.count.toNat ++ leBytes 8 q.rxLast.toNat ++ leBytes 8 q.txLast.toNat ++ leBytes 1 (b2n (c.state = 2) + 2 * c.depth.toNat)

theorem syncContent_length_le (c : Clapper) (q : Port) : (syncContent c q).length ≤ 180 := by simp [syncContent]

theorem stat_lt (b : Bool) (depth : BitVec 3) : b2n b + 2 * depth.toNat < 256 := by
  have hb : b2n b ≤ 1 := by cases b <;> decide
  have hdepth := depth.isLt
  omega

theorem syncContent_fields (c : Clapper) (q : Port) (r : List Byte) :
    leAt (syncContent c q ++ r) 0 8 = c.count.toNat ∧ leAt (syncContent c q ++ r) 8 8 = q.rxLast.toNat ∧
    leAt (syncContent c q ++ r) 16 8 = q.txLast.toNat ∧ leAt (syncContent c q ++ r) 24 1 = b2n (c.state = 2) + 2 * c.depth.toNat := by
  simp only [syncContent, List.append_assoc]
  refine ⟨?_, ?_, ?_, ?_⟩
  · rw [leAt_leBytes]
    exact Nat.mod_eq_of_lt c.count.isLt
  · rw [leAt_leBytes_skip _ _ _ (by decide), leAt_leBytes]
    exact Nat.mod_eq_of_lt q.rxLast.isLt
  · rw [leAt_leBytes_skip _ _ _ (by decide), leAt_leBytes_skip _ _ _ (by decide), leAt_leBytes]
    exact Nat.mod_eq_of_lt q.txLast.isLt
  · rw [leAt_leBytes_skip _ _ _ (by decide), leAt_leBytes_skip _ _ _ (by decide), leAt_leBytes_skip _ _ _ (by decide), leAt_leBytes]
    exact Nat.mod_eq_of_lt (stat_lt _ _)

theorem syncSend_of_up {s : State} {p : Fin 20} (hstate : (s.port p.val).state = 2) (hc : s.clocks = true) :
    syncSend p s = s.sendCtrl p.val 2 (syncContent s.clap (s.port p.val)) :=
  if_neg (by simp [hstate, hc])

/-! ## The masters' sources (R402) -/

section Masters

variable {s : State}

theorem ptpMessage_eq (dom : Byte) (src : Dword) (off : Int) : ptpMessage dom src off s =
    if s.clap.role = 2 ∧ dom = s.clap.ptpDom ∧ (∃ e : Fin 4, (s.eth e.val).up = true ∧ (s.eth e.val).secured = true)
    then { s with clap := s.clap.measure 100 off src } else s := by
  have hports : (List.range 4).any (fun e => (s.eth e).up && (s.eth e).secured) = true ↔
      ∃ e : Fin 4, (s.eth e.val).up = true ∧ (s.eth e.val).secured = true := by
    simp only [List.any_eq_true, List.mem_range, Bool.and_eq_true_iff, Fin.exists_iff, exists_prop]
  refine if_congr ?_ rfl rfl
  simp only [Bool.and_eq_true_iff, decide_eq_true_eq, hports, and_assoc]

/-- An edge in the first half of a second finds the count ahead of the second begun. -/
theorem sync1pps_ahead (hrole : s.clap.role = 3) (hsync : s.clap.sync10m = true) (hfirst : s.clap.count.toNat % 1000000000 < 500000000) :
    sync1pps s = s.modClap (fun c => { c.measure 100 (s.clap.count.toNat % 1000000000 : Nat)
      (BitVec.ofNat 64 (s.clap.count.toNat / 1000000000 * 1000000000)) with ppsSeen := true }) := by
  have hup : (decide (500000000 ≤ s.clap.count.toNat % 1000000000) && s.clap.ppsSeen) = false := by simp [hfirst]
  have hdown : s.clap.count.toNat - s.clap.count.toNat % 1000000000 = s.clap.count.toNat / 1000000000 * 1000000000 := by omega
  unfold sync1pps
  rw [if_pos (by simp [hrole, hsync])]
  simp only [hup, hdown, Bool.false_eq_true, if_false]

end Masters

/-! ## Loss of sync (R403) -/

section Loss

variable {s : State}

theorem holdover_of_locked (hrole : s.clap.role ≠ 0) (hlocked : s.clap.state = 2) :
    holdover s = s.modClap (fun c => { c with state := 3, good := 0 }) :=
  if_pos (Bool.and_eq_true_iff.2 ⟨decide_eq_true hrole, decide_eq_true hlocked⟩)

theorem unlocked_of_holdover (h : s.clap.state = 3) : unlocked s = s.modClap (fun c => { c with state := 4 }) := if_pos h

end Loss

/-! ## GLB_CLAP_CFG (R399, Table 14-1) -/

section Configuration

variable {s : State} {v : Word}

theorem writeClapCfg_reserved (h : 128 ≤ fld v.toNat 16 8 ∨ 20 ≤ v.toNat % 32) : s.writeClapCfg v = s.rsv :=
  if_pos (by simpa using h)

/-- The clapper with the fields of GLB_CLAP_CFG taken over. -/
def Clapper.configured (c : Clapper) (v : Nat) : Clapper :=
  { c with role := BitVec.ofNat 2 (v / 2 ^ 30), ptpDom := BitVec.ofNat 8 (fld v 16 8), auto := bit v 5, parent := BitVec.ofNat 5 v }

/-- A clapper that starts over in its role. -/
def Clapper.restarted (c : Clapper) : Clapper :=
  { c with state := if c.role = 0 then 0 else 1, depth := if c.role = 2 ∨ c.role = 3 then 0 else 7, good := 0, slew := 0,
           stepped := false, ppsSeen := false }

theorem writeClapCfg_eq (hdom : fld v.toNat 16 8 < 128) (hparent : v.toNat % 32 < 20) (hhigh : fld v.toNat 24 6 = 0)
    (hlow : fld v.toNat 6 10 = 0) : s.writeClapCfg v = s.modClap (fun c =>
      if (c.configured v.toNat).role = c.role ∧ (c.configured v.toNat).parent = c.parent then c.configured v.toNat
      else (c.configured v.toNat).restarted) := by
  have hrsv : s.rsvIf (decide (fld v.toNat 24 6 ≠ 0) || decide (fld v.toNat 6 10 ≠ 0)) = s := by rw [hhigh, hlow]; rfl
  unfold State.writeClapCfg
  dsimp only
  rw [if_neg (by simp; omega), hrsv]
  refine congrArg s.modClap (funext fun c => if_congr ?_ rfl ?_)
  · rw [Bool.and_eq_true_iff, decide_eq_true_iff, decide_eq_true_iff]
    rfl
  · simp only [Clapper.restarted, Clapper.configured, Bool.or_eq_true, decide_eq_true_eq]
    rfl

theorem configured_role (c : Clapper) (v : Word) : (c.configured v.toNat).role.toNat = v.toNat / 2 ^ 30 :=
  Nat.mod_eq_of_lt (Nat.div_lt_of_lt_mul v.isLt)

theorem configured_ptpDom (c : Clapper) {n : Nat} (h : fld n 16 8 < 128) : (c.configured n).ptpDom.toNat = fld n 16 8 :=
  Nat.mod_eq_of_lt (by omega)

end Configuration

/-- Settles O38: each command of the clapper by its own lemma. -/
theorem clapperFollowsItsSource : Obligations.ClapperFollowsItsSource := by
  unfold Obligations.ClapperFollowsItsSource
  intro s
  refine ⟨?measured, ?followed, ?noted, ?sent, ?ptp, ?pps, rfl, rfl, ?lost, ?ended, ?configured, ?reserved⟩
  case measured =>
    intro c limit off v
    obtain ⟨count, stepped, slew, hm⟩ := c.measure_eq_noted limit off v
    have hstate : (c.measure limit off v).state = (c.noteOffset limit off).state := by rw [hm]
    refine ⟨by rw [hm]; rfl, by rw [hm]; rfl, by rw [hm]; rfl, ?within, ?beyond, ?first, ?later⟩
    case within =>
      intro h
      rw [hm, Clapper.noteOffset_within h]
      exact ⟨rfl, fun hgood => if_pos (by omega), fun hgood => if_neg (by omega)⟩
    case beyond =>
      intro h
      rw [hm, Clapper.noteOffset_beyond h]
      exact ⟨rfl, rfl⟩
    case first =>
      intro hacquiring hstepped
      rw [Clapper.measure_steps v (hstate ▸ hacquiring) hstepped]
      exact ⟨rfl, rfl, rfl⟩
    case later =>
      intro h
      rw [Clapper.measure_slews v (hstate ▸ h)]
      exact ⟨rfl, rfl⟩
  case followed =>
    intro p tTx tRx tTxLast t4 locked depth hstate hc hrole hparent hanswers
    have hport : (s.modPort p.val (·.synced tTx locked depth t4)).port p.val = (s.port p.val).synced tTx locked depth t4 :=
      State.modPort_same ..
    exact ⟨_, congrArg Host.Outcome.next (sync_of_parent hstate hc hrole hparent hanswers), congrArg Port.rxLast hport,
      congrArg Port.txLast hport, rfl⟩
  case noted =>
    exact fun p tTx tRx tTxLast t4 locked depth hstate hc hrole => congrArg Host.Outcome.next (sync_of_other_role hstate hc hrole)
  case sent =>
    intro p hstate hc hreturns
    obtain ⟨c, hsend, hfield⟩ := sendCtrl_content hreturns 2 (syncContent_length_le s.clap (s.port p.val))
    obtain ⟨hcount, hrx, htx, hstat⟩ := syncContent_fields s.clap (s.port p.val)
      (zeros (180 - (syncContent s.clap (s.port p.val)).length))
    exact ⟨_, c, congrArg Host.Outcome.next ((syncSend_of_up hstate hc).trans hsend), rfl, rfl, (hfield 0 8).trans hcount,
      (hfield 8 8).trans hrx, (hfield 16 8).trans htx, (hfield 24 1).trans hstat⟩
  case ptp => exact fun dom src off => congrArg Host.Outcome.next (ptpMessage_eq dom src off)
  case pps => exact fun hrole hsync hfirst => congrArg Host.Outcome.next (sync1pps_ahead hrole hsync hfirst)
  case lost => exact fun hrole hlocked => congrArg Host.Outcome.next (holdover_of_locked hrole hlocked)
  case ended => exact fun h => congrArg Host.Outcome.next (unlocked_of_holdover h)
  case configured =>
    intro v hdom hparent hhigh hlow
    refine ⟨_, congrArg Host.Outcome.next (writeClapCfg_eq hdom hparent hhigh hlow), ?_⟩
    rw [State.modClap_clap]
    split
    case isTrue hsame =>
      exact ⟨configured_role s.clap v, rfl, rfl, configured_ptpDom s.clap hdom, rfl,
        fun hnew => absurd hsame (not_and_or.2 hnew), fun _ _ => ⟨rfl, rfl⟩⟩
    case isFalse hnew =>
      exact ⟨configured_role s.clap v, rfl, rfl, configured_ptpDom s.clap hdom, rfl,
        fun _ => ⟨rfl, rfl⟩, fun hrole hparent => absurd ⟨hrole, hparent⟩ hnew⟩
  case reserved => exact fun v h => congrArg Host.Outcome.next (writeClapCfg_reserved h)

end Sys2Proof.Machine
end

section
/-!
Cue mode (R414 to R420): the cue core, arming, doorbells, products and the cue registers; the admission of a standby (R412).
-/
namespace Sys2Proof.Machine

variable {s : State} {d : Nat}

/-! ## The cue registers of a die -/

@[simp] theorem modCue_cue (s : State) (d : Nat) (g : Cue → Cue) : ((s.modCue d g).die d).cue = g (s.die d).cue :=
  congrArg Die.cue (State.modDie_same ..)

theorem modCue_modCue (s : State) (d : Nat) (f g : Cue → Cue) : (s.modCue d f).modCue d g = s.modCue d (fun q => g (f q)) := by
  show State.modDie _ d _ = _
  rw [State.modDie, State.modCue, State.modDie_same]
  simp only [State.modDie_dies, tset_tset]
  rfl

theorem modCue_congr {f g : Cue → Cue} (h : f (s.die d).cue = g (s.die d).cue) : s.modCue d f = s.modCue d g := by
  show State.modDie s d _ = State.modDie s d _
  simp only [State.modDie, h]

/-! ## EN (R414) -/

/-- The state with the descriptor address of a write of DIE_CUE_CFG taken over. -/
def State.cueDesc (s : State) (d x : Nat) : State := s.modCue d (fun q => { q with desc := BitVec.ofNat 40 x })

theorem cueDesc_dieBusy (x : Nat) : (s.cueDesc d x).dieBusy d = s.dieBusy d := rfl

theorem cueDesc_cue (x : Nat) : ((s.cueDesc d x).die d).cue = { (s.die d).cue with desc := BitVec.ofNat 40 x } := modCue_cue ..

theorem cueDesc_cueCandidate (x e : Nat) : (s.cueDesc d x).cueCandidate e = s.cueCandidate e := by
  have hdie : ∀ j, ((s.cueDesc d x).die j).stopped = (s.die j).stopped ∧ ((s.cueDesc d x).die j).inReset = (s.die j).inReset ∧
      ((s.cueDesc d x).die j).cue.en = (s.die j).cue.en ∧ ((s.cueDesc d x).die j).cue.core = (s.die j).cue.core := by
    intro j
    by_cases hj : j = d
    case pos =>
      have hsame : (s.cueDesc d x).die d = { s.die d with cue := { (s.die d).cue with desc := BitVec.ofNat 40 x } } := State.modDie_same ..
      rw [hj, hsame]
      exact ⟨rfl, rfl, rfl, rfl⟩
    case neg =>
      rw [show (s.cueDesc d x).die j = s.die j from State.modDie_other s d _ hj]
      exact ⟨rfl, rfl, rfl, rfl⟩
  have hidle : ∀ k, (s.cueDesc d x).idle k = s.idle k := by
    intro k
    obtain ⟨hstopped, hreset, hen, hcore⟩ := hdie (k / 34)
    simp only [State.idle, State.dieRuns, State.isCueCore, hstopped, hreset, hen, hcore]
    rfl
  simp only [State.cueCandidate, hidle]
  rfl

theorem writeCueCfg_eq {v : Dword} (hhigh : bit v.toNat 60 = false) (hlow : fld v.toNat 40 10 = 0) : s.writeCueCfg d v =
    let u := (s.cueDesc d v.toNat).writeCueEn d (bit v.toNat 63)
    if bit v.toNat 62 then u.writeCueArm d else u := by
  have hrsv : s.rsvIf (bit v.toNat 60 || decide (fld v.toNat 40 10 ≠ 0)) = s := by rw [hhigh, hlow]; rfl
  unfold State.writeCueCfg
  dsimp only
  rw [hrsv]
  rfl

theorem writeCueEn_same {en : Bool} (h : en = (s.die d).cue.en) : s.writeCueEn d en = s.modCue d (fun q => { q with enNext := none }) :=
  if_pos h

section Changed

variable {en : Bool} (hchanged : en ≠ (s.die d).cue.en)
include hchanged

theorem writeCueEn_waits (h : s.dieBusy d = true ∨ (s.die d).cue.busy ≠ none) :
    s.writeCueEn d en = s.modCue d (fun q => { q with enNext := some en }) :=
  (if_neg hchanged).trans (if_pos (Bool.or_eq_true_iff.2 (h.imp_right Option.isSome_iff_ne_none.2)))

theorem writeCueEn_at_once (hidle : s.dieBusy d = false) (hbusy : (s.die d).cue.busy = none) :
    s.writeCueEn d en = if en then s.cueReserve d else s.cueReturn d :=
  (if_neg hchanged).trans (if_neg (by simp [hidle, hbusy]))

end Changed

theorem cueReturn_cue (s : State) (d : Nat) :
    ((s.cueReturn d).die d).cue = { (s.die d).cue with en := false, enNext := none, armed := false } := by
  rw [State.cueReturn, State.modCoreK_get_die, modCue_cue]

/-- The core that leaves the logical map for cue mode. -/
def Core.reserved (c : Core) : Core := { c.purge with role := 5, home := c.logical, logical := 0x3FF }

theorem cueReserve_of_candidate {k : Nat} (h : s.cueCandidate d = some k) : s.cueReserve d = ((s.modCoreK k Core.reserved).modCue d
    (fun q => { q with en := true, enNext := none, core := BitVec.ofNat 6 (k % 34) })).tick := by
  rw [State.cueReserve, h]
  rfl

theorem cueReserve_of_no_candidate (h : s.cueCandidate d = none) :
    s.cueReserve d = s.modCue d (fun q => { q with enNext := some true }) := by
  rw [State.cueReserve, h]

theorem cueReserve_desc (s : State) (d : Nat) : ((s.cueReserve d).die d).cue.desc = (s.die d).cue.desc := by
  cases h : s.cueCandidate d with
  | none => rw [cueReserve_of_no_candidate h, modCue_cue]
  | some k => rw [cueReserve_of_candidate h, State.tick_get_die, modCue_cue, State.modCoreK_get_die]

theorem writeCueEn_desc (s : State) (d : Nat) (en : Bool) : ((s.writeCueEn d en).die d).cue.desc = (s.die d).cue.desc := by
  unfold State.writeCueEn
  dsimp only
  split
  · rw [modCue_cue]
  · split
    · rw [modCue_cue]
    · split
      · exact cueReserve_desc s d
      · rw [cueReturn_cue]

/-! ## ARM (R415) -/

section Arm

variable {f : Fin 16}

/-- An ARM with EN as it was: the load begins, or follows the product in progress. -/
theorem arm_of_enabled {v : Dword} (hhigh : bit v.toNat 60 = false) (hlow : fld v.toNat 40 10 = 0) (harm : bit v.toNat 62 = true)
    (hen : bit v.toNat 63 = true) (henabled : (s.die d).cue.en = true) : s.writeCueCfg d v = s.modCue d (fun q => if q.busy.isSome
      then { q with desc := BitVec.ofNat 40 v.toNat, enNext := none, armNext := true }
      else { q with desc := BitVec.ofNat 40 v.toNat, enNext := none, arming := true, armed := false, armErr := 0 }) := by
  have hsame : bit v.toNat 63 = ((s.cueDesc d v.toNat).die d).cue.en := by rw [cueDesc_cue, hen]; exact henabled.symm
  rw [writeCueCfg_eq hhigh hlow, if_pos harm, writeCueEn_same hsame, State.writeCueArm, State.cueDesc, modCue_modCue, modCue_modCue]
  exact modCue_congr (if_neg (by simp [henabled]))

variable (harming : (s.die f.val).cue.arming = true) (hebtor : s.ebtor = true)
include harming hebtor

theorem armComplete_arms {b m : List Byte} (h : s.cueLoad f.val = .ok (b, m)) : armComplete f s = s.modCue f.val (fun q =>
    { q with arming := false, armed := true, armErr := 0, armedDesc := b, matrix := m }) := by
  rw [armComplete, if_neg (by simp [harming, hebtor]), h]

theorem armComplete_errs {e : BitVec 4} (h : s.cueLoad f.val = .error (some e)) : armComplete f s = s.modCue f.val (fun q =>
    { q with arming := false, armed := false, armErr := e }) := by
  rw [armComplete, if_neg (by simp [harming, hebtor]), h]

end Arm

theorem cueLoad_of_misaligned (h : (s.die d).cue.desc.toNat % 64 ≠ 0) : s.cueLoad d = .error (some 1) := if_pos h

/-! ## Doorbells (R417) -/

/-- A doorbell is rejected: a product runs or waits, its answer has not been read, or an ARM loads. -/
def Cue.Rejects (q : Cue) : Prop := q.busy ≠ none ∨ q.waiting ≠ none ∨ q.full = true ∨ q.arming = true

theorem Cue.rejects_iff (q : Cue) : (q.busy.isSome || q.waiting.isSome || q.full || q.arming) = true ↔ q.Rejects := by
  simp only [Cue.Rejects, Bool.or_eq_true, Option.isSome_iff_ne_none, or_assoc]

section Doorbell

variable {f : Fin 16} {v : Dword} (hv : v.toNat < 2 ^ 32)
include hv

theorem dieCueDb_eq : dieCueDb f v s =
    if (s.die f.val).cue.busy.isSome || (s.die f.val).cue.waiting.isSome || (s.die f.val).cue.full || (s.die f.val).cue.arming then
      s.modCue f.val (fun q => { q with rej := satInc q.rej })
    else if s.cueServes f.val then s.modCue f.val (·.begin (BitVec.ofNat 32 v.toNat) false)
    else s.modCue f.val (fun q => { q with waiting := some (BitVec.ofNat 32 v.toNat) }) := by
  have hrsv : s.rsvIf (decide (v.toNat / 2 ^ 32 ≠ 0)) = s := by rw [Nat.div_eq_of_lt hv]; rfl
  unfold dieCueDb
  dsimp only
  rw [hrsv]

theorem dieCueDb_rejects (h : (s.die f.val).cue.Rejects) : dieCueDb f v s = s.modCue f.val (fun q => { q with rej := satInc q.rej }) := by
  rw [dieCueDb_eq hv, if_pos ((Cue.rejects_iff _).2 h)]

theorem dieCueDb_begins (h : ¬ (s.die f.val).cue.Rejects) (hserves : s.cueServes f.val = true) :
    dieCueDb f v s = s.modCue f.val (·.begin (BitVec.ofNat 32 v.toNat) false) := by
  rw [dieCueDb_eq hv, if_neg (fun k => h ((Cue.rejects_iff _).1 k)), if_pos hserves]

theorem dieCueDb_waits (h : ¬ (s.die f.val).cue.Rejects) (hserves : s.cueServes f.val = false) :
    dieCueDb f v s = s.modCue f.val (fun q => { q with waiting := some (BitVec.ofNat 32 v.toNat) }) := by
  rw [dieCueDb_eq hv, if_neg (fun k => h ((Cue.rejects_iff _).1 k)), hserves]
  rfl

end Doorbell

/-! ## The end of a product (R418, R419) -/

/-- The cue registers as a product leaves them that writes result slots `res`. -/
def Cue.answered (q : Cue) (seq : Word) (armed late bad : Bool) (res : Tab Word) : Cue :=
  { q with res := res, full := true, flags := BitVec.ofNat 3 (b2n (!armed) + 2 * b2n bad + 4 * b2n late), seq := seq, busy := none,
           next := [], armNext := false, arming := q.arming || q.armNext, armed := q.armed && !q.armNext }

/-- A product that was not armed, or whose two arrays agree, changes the cue registers alone. -/
theorem cueEnd_of_agreement (q : Cue) (seq : Word) {armed mism : Bool} (late : Bool) (h : (armed && mism) = false) :
    s.cueEnd d q (seq, armed, late) mism =
      s.modCue d (·.answered seq armed late false (if armed then (List.range 32).zip q.next else q.res)) := by
  unfold State.cueEnd
  simp only [h, Bool.false_eq_true, if_false]
  rfl

/-- The result slots of a product whose two arrays differ: array 0's values, which the model leaves free. -/
def State.mismatchSlots (s : State) (q : Cue) : Tab Word :=
  (List.range 32).zip ((List.range 32).map (fun n => if n < leAt q.armedDesc 14 1 then (Config.free (s.fresh + n)).setWidth 32 else 0))

/-- With a mismatch the fault is logged outside the die's cue registers. -/
theorem cueEnd_of_mismatch (q : Cue) (seq : Word) (late : Bool) :
    ((s.cueEnd d q (seq, true, late) true).die d).cue = (s.die d).cue.answered seq true late true (s.mismatchSlots q) := by
  refine (congrArg Die.cue ((fault_logOnly ..).die d)).trans ?_
  rw [State.modCoreK_get_die, modCue_cue]
  rfl

theorem cueProductComplete_of_busy {f : Fin 16} {b : Word × Bool × Bool} (mism : Bool) (h : (s.die f.val).cue.busy = some b) :
    cueProductComplete f mism s = s.cueEnd f.val (s.die f.val).cue b mism := by
  rw [cueProductComplete, h]

/-! ## DIE_CUE_X (R416, R418) -/

theorem leBytes_getD (n v : Nat) {i : Nat} (h : i < n) : (leBytes n v).getD i 0 = BitVec.ofNat 8 (v / 2 ^ (8 * i)) := by
  induction n generalizing v i with
  | zero => exact absurd h (Nat.not_lt_zero i)
  | succ n ih =>
    cases i with
    | zero => rw [Nat.mul_zero, Nat.pow_zero, Nat.div_one]; rfl
    | succ i =>
      have hpow : 256 * 2 ^ (8 * i) = 2 ^ (8 * (i + 1)) := by rw [Nat.mul_succ, Nat.pow_add, Nat.mul_comm]
      rw [leBytes, List.getD_cons_succ, ih _ (Nat.lt_of_succ_lt_succ h), Nat.div_div_eq_div_mul, hpow]

section CueX

variable {f : Fin 16} {x : Fin 256} {n : Nat} {v : Dword} {cycle : Nat} (hsize : n = 4 ∨ n = 8) (halign : x.val % n = 0)
include hsize halign

theorem cueXWrite_aligned : (!(decide (n = 4) || decide (n = 8)) || decide (x.val % n ≠ 0)) = false := by
  simp only [halign, ne_eq, not_true_eq_false, decide_false, Bool.or_false, Bool.not_eq_false', Bool.or_eq_true, decide_eq_true_eq]
  exact hsize

theorem dieCueXWrite_locked (harmed : ∃ seq late, (s.die f.val).cue.busy = some (seq, true, late)) (hfirst : 1 ≤ cycle)
    (hlast : cycle ≤ 281) : dieCueXWrite f x n v cycle s = s.rsv := by
  obtain ⟨seq, late, hbusy⟩ := harmed
  unfold dieCueXWrite
  rw [cueXWrite_aligned hsize halign, if_neg Bool.false_ne_true, hbusy]
  exact if_pos (by simp [hfirst, hlast])

theorem dieCueXWrite_writes (hfree : (s.die f.val).cue.busy = none ∨ cycle = 0 ∨ 281 < cycle) :
    dieCueXWrite f x n v cycle s = s.modCue f.val (fun q => { q with x := Sys2Proof.tput q.x x.val (leBytes n v.toNat) }) := by
  unfold dieCueXWrite
  rw [cueXWrite_aligned hsize halign, if_neg Bool.false_ne_true]
  refine if_neg ?_
  rcases hfree with hbusy | hcycle
  · simp [hbusy]
  · simp only [Bool.and_eq_true_iff, decide_eq_true_iff]
    omega

end CueX

/-! ## The admission of a standby (R412) -/

section Standby

variable {cd : Fin 2} {key : Dword}

theorem standbyAdmission_admits (hebtor : s.ebtor = true) (hother : s.glb.active.toNat ≠ cd.val + 1) (hkey : key = s.glb.contKey) :
    standbyAdmission cd key s = s.modCd cd.val (fun c => { c with ok := true }) :=
  if_pos (by simp [hebtor, hother, hkey])

theorem standbyAdmission_refuses (hkey : key ≠ s.glb.contKey) (hwindow : s.boot.fwuActivating = false) : standbyAdmission cd key s = s :=
  if_neg (by simp [hkey, hwindow])

end Standby

/-- Settles O39: each command of cue mode by its own lemma. -/
theorem cueDoorbellsAndProducts : Obligations.CueDoorbellsAndProducts := by
  unfold Obligations.CueDoorbellsAndProducts
  intro d s
  refine ⟨?enabled, ?armed, ?loaded, fun h => cueLoad_of_misaligned h, ?doorbell, ?product, rfl, ?cueX, ?standby⟩
  case enabled =>
    intro v hhigh hlow harm hchanged
    have hcfg : s.writeCueCfg d.val v = (s.cueDesc d.val v.toNat).writeCueEn d.val (bit v.toNat 63) :=
      (writeCueCfg_eq hhigh hlow).trans (if_neg (by simp [harm]))
    have hdesc : ((s.cueDesc d.val v.toNat).die d.val).cue = { (s.die d.val).cue with desc := BitVec.ofNat 40 v.toNat } := cueDesc_cue _
    have hchanged : bit v.toNat 63 ≠ ((s.cueDesc d.val v.toNat).die d.val).cue.en := by rw [hdesc]; exact hchanged
    refine ⟨_, congrArg Host.Outcome.next hcfg, ?desc, ?waits, ?returned, ?taken⟩
    case desc => rw [writeCueEn_desc, hdesc]; rfl
    case waits =>
      intro h
      rw [writeCueEn_waits hchanged (by rw [hdesc]; exact h), modCue_cue, hdesc]
      exact ⟨rfl, rfl⟩
    case returned =>
      intro hidle hbusy hen
      have hoff : bit v.toNat 63 = false := by rw [hdesc] at hchanged; simpa [hen] using hchanged
      rw [writeCueEn_at_once hchanged hidle (by rw [hdesc]; exact hbusy), hoff, if_neg Bool.false_ne_true, cueReturn_cue]
      exact ⟨rfl, rfl⟩
    case taken =>
      intro k hidle hbusy hen hcand
      have hon : bit v.toNat 63 = true := by rw [hdesc] at hchanged; simpa [hen] using hchanged
      rw [← cueDesc_cueCandidate v.toNat] at hcand
      rw [writeCueEn_at_once hchanged hidle (by rw [hdesc]; exact hbusy), if_pos hon, cueReserve_of_candidate hcand]
      refine ⟨by rw [State.tick_get_die, modCue_cue], ?_⟩
      rw [State.tick_get_coreK, State.modCue_get_coreK, State.modCoreK_same]
      exact ⟨rfl, rfl⟩
  case armed => exact fun v hhigh hlow harm hen henabled => congrArg Host.Outcome.next (arm_of_enabled hhigh hlow harm hen henabled)
  case loaded =>
    exact fun harming hebtor => ⟨fun b m h => congrArg Host.Outcome.next (armComplete_arms harming hebtor h),
      fun e h => congrArg Host.Outcome.next (armComplete_errs harming hebtor h)⟩
  case doorbell =>
    intro v hv
    refine ⟨fun h => congrArg Host.Outcome.next (dieCueDb_rejects hv h), fun hbusy hwaiting hfull harming => ?_⟩
    have haccepts : ¬ (s.die d.val).cue.Rejects := by simp [Cue.Rejects, hbusy, hwaiting, hfull, harming]
    refine ⟨fun hserves => congrArg Host.Outcome.next ((dieCueDb_begins hv haccepts hserves).trans (modCue_congr ?_)),
      fun hserves => congrArg Host.Outcome.next (dieCueDb_waits hv haccepts hserves)⟩
    rw [Cue.begin, ← hwaiting]
  case product =>
    intro seq armed late mism hbusy
    refine ⟨_, congrArg Host.Outcome.next (cueProductComplete_of_busy mism hbusy), ?_⟩
    cases hbad : armed && mism with
    | false =>
      rw [cueEnd_of_agreement _ seq late hbad, modCue_cue]
      exact ⟨rfl, rfl, rfl, rfl, fun h => by rw [h]; rfl, fun h _ => by rw [h]; rfl⟩
    | true =>
      obtain ⟨rfl, rfl⟩ := Bool.and_eq_true_iff.1 hbad
      rw [cueEnd_of_mismatch]
      exact ⟨rfl, rfl, rfl, rfl, fun h => absurd h Bool.true_eq_false.mp, fun _ h => absurd h Bool.true_eq_false.mp⟩
  case cueX =>
    intro off n v cycle hsize halign
    refine ⟨fun harmed hfirst hlast => congrArg Host.Outcome.next (dieCueXWrite_locked hsize halign harmed hfirst hlast),
      fun hfree => ?_⟩
    refine ⟨_, congrArg Host.Outcome.next (dieCueXWrite_writes hsize halign hfree), fun i hi => ?_, fun i hi => ?_⟩
    · rw [modCue_cue]
      have hin : off.val ≤ off.val + i ∧ off.val + i < off.val + (leBytes n v.toNat).length := by rw [leBytes_length]; omega
      refine ((tget_tput ..).trans (if_pos hin)).trans ?_
      rw [Nat.add_sub_cancel_left, leBytes_getD n _ hi]
    · rw [modCue_cue]
      have hout : ¬ (off.val ≤ i ∧ i < off.val + (leBytes n v.toNat).length) := by rw [leBytes_length]; omega
      exact (tget_tput ..).trans (if_neg hout)
  case standby =>
    exact fun cd key hebtor hother => ⟨fun hkey => congrArg Host.Outcome.next (standbyAdmission_admits hebtor hother hkey),
      fun hkey hwindow => congrArg Host.Outcome.next (standbyAdmission_refuses hkey hwindow)⟩

end Sys2Proof.Machine
end

section
/-!
Power and plant (R448 to R463, R496 to R498): excursions, grants, samples of the draw, THROTTLE#, the sensors and the valve.
-/
namespace Sys2Proof.Machine

variable {s t : State} {row die : Nat}

/-! ## Excursions (R461) -/

theorem LogOnly.pwr (h : LogOnly s t) : t.pwr = s.pwr := by
  obtain ⟨_, _, _, _, _, rfl, -⟩ := h
  rfl

/-- The power registers once an excursion has been counted (Table 16-2). -/
def Power.excurse (p : Power) (row die : Nat) : Power :=
  { p with excur := if p.excur.contains (row, die) then p.excur else p.excur ++ [(row, die)],
           excursions := satInc p.excursions, promise := false }

/-- The power registers once an excursion is in force that counts only where it begins. -/
def Power.begun (p : Power) (row die : Nat) : Power :=
  { p with excur := if p.excur.contains (row, die) then p.excur else p.excur ++ [(row, die)],
           excursions := if p.excur.contains (row, die) then p.excursions else satInc p.excursions,
           promise := p.excur.contains (row, die) && p.promise }

theorem excursion_logOnly (s : State) (row die : Nat) (st : Half) :
    LogOnly (s.modPwr (·.excurse row die)) (s.excursion row die st) := fault_logOnly ..

theorem beginExcursion_logOnly (s : State) (row die : Nat) (st : Half) :
    LogOnly (s.modPwr (·.begun row die)) (s.beginExcursion row die st) := by
  cases h : s.pwr.excur.contains (row, die) with
  | true =>
    rw [State.beginExcursion, if_pos h, show s.modPwr (·.begun row die) = s by
      simp only [State.modPwr, Power.begun, h, if_true, Bool.true_and]]
    exact .refl s
  | false =>
    rw [State.beginExcursion, if_neg (by rw [h]; exact Bool.false_ne_true),
      show s.modPwr (·.begun row die) = s.modPwr (·.excurse row die) by
        simp only [State.modPwr, Power.begun, Power.excurse, h, Bool.false_eq_true, if_false, Bool.false_and]]
    exact excursion_logOnly s row die st

theorem Power.mem_excur_begun {p : Power} {e : Nat × Nat} : e ∈ (p.begun row die).excur ↔ e ∈ p.excur ∨ e = (row, die) := by
  unfold Power.begun
  by_cases h : (row, die) ∈ p.excur
  case pos => simpa [h] using fun he : e = (row, die) => he ▸ h
  case neg => simp [h]

theorem Power.mem_excurse (p : Power) (row die : Nat) : (row, die) ∈ (p.excurse row die).excur :=
  Power.mem_excur_begun.2 (.inr rfl)

theorem Power.begun_excursions (p : Power) (row die : Nat) :
    (p.begun row die).excursions = if (row, die) ∈ p.excur then p.excursions else satInc p.excursions := by
  simp [Power.begun]

theorem endExcursion_not_mem (s : State) (row die : Nat) : (row, die) ∉ (s.endExcursion row die).pwr.excur := by
  simp [State.endExcursion]

/-! ## The budget (R448, R458, R461) -/

theorem Power.budget_of_throttle {p : Power} (h : p.throttle = true) : p.budget = p.thr.toNat := if_pos (by simp [h])

theorem Power.budget_of_plantFault {p : Power} (h : p.plantFault = true) : p.budget = p.thr.toNat := if_pos (by simp [h])

theorem Power.budget_of_capped {p : Power} (hthrottle : p.throttle = false) (hfault : p.plantFault = false) : p.budget = p.cap.toNat :=
  if_neg (by simp [hthrottle, hfault])

/-! ## Grants (R448 to R453) -/

/-- The granted power follows the grants while cue mode stays as it is. -/
theorem granted_of_grants {w : Nat} (hcue : ∀ d, (t.die d).cue = (s.die d).cue)
    (hsum : (t.pwr.grants.map (·.watts)).sum = (s.pwr.grants.map (·.watts)).sum + w) : t.granted = s.granted + w := by
  simp only [State.granted, hcue, hsum]
  omega

/-- The power registers once batch b has its dynamic grant (R450). -/
def Power.issued (p : Power) (b : Batch) : Power :=
  { p with batches := p.batches.map (fun x => if x = b then { x with admitted := true } else x),
           grants := p.grants ++ [{ die := b.die, watts := b.watts, ref := b.ref, planned := false }] }

theorem runDie_cue (s : State) (d n e : Nat) : ((s.runDie d n).die e).cue = (s.die e).cue := by
  unfold State.runDie
  by_cases he : e = d
  · rw [he, State.modDie_same]
  · rw [State.modDie_other _ _ _ he]

/-- The state with batch b's grant, the miss not yet counted. -/
def State.granting (s : State) (b : Batch) : State := (s.runDie b.die (s.die b.die).fmax.toNat).modPwr (·.issued b)

/-- A dynamic grant under a plan is counted as a miss, and as an excursion of its die. -/
def State.planMissed (s : State) (d : Nat) : State := (s.modPwr (fun p => { p with planMiss := satInc p.planMiss })).excursion 1 d 0

theorem planMissed_logOnly (s : State) (d : Nat) :
    LogOnly (s.modPwr (fun p => { p with planMiss := satInc p.planMiss }.excurse 1 d)) (s.planMissed d) := excursion_logOnly ..

/-- With no part waiting for a core a grant starts none. -/
theorem issueGrant_eq (hq : NoQueuedParts s) (b : Batch) :
    s.issueGrant b = if s.pwr.plan.isSome then (s.granting b).planMissed b.die else s.granting b := by
  show State.kickPrograms (if s.pwr.plan.isSome then _ else _) = _
  refine NoQueuedParts.kickPrograms ?_
  split
  · exact hq.of_tracked (planMissed_logOnly ..).tracked
  · exact hq.of_tracked rfl

/-- What a dynamic grant to batch b has changed of the power registers, and that cue mode stays (R451, R453). -/
structure Granted (s t : State) (b : Batch) : Prop where
  grants : t.pwr.grants = s.pwr.grants ++ [{ die := b.die, watts := b.watts, ref := b.ref, planned := false }]
  cue : ∀ d, (t.die d).cue = (s.die d).cue
  budget : t.pwr.budget = s.pwr.budget
  rampFrom : t.pwr.rampFrom = s.pwr.rampFrom
  dstep : t.pwr.dstep = s.pwr.dstep
  planMiss : t.pwr.planMiss = if s.pwr.plan = none then s.pwr.planMiss else satInc s.pwr.planMiss
  excursions : t.pwr.excursions = if s.pwr.plan = none then s.pwr.excursions else satInc s.pwr.excursions

theorem issueGrant_granted (hq : NoQueuedParts s) (b : Batch) : Granted s (s.issueGrant b) b := by
  have hcue : ∀ d, ((s.granting b).die d).cue = (s.die d).cue := runDie_cue s b.die _
  rw [issueGrant_eq hq]
  cases hplan : s.pwr.plan with
  | none => exact ⟨rfl, hcue, rfl, rfl, rfl, by rw [hplan]; rfl, by rw [hplan]; rfl⟩
  | some p =>
    have hlog := planMissed_logOnly (s.granting b) b.die
    have hpwr := hlog.pwr
    rw [Option.isSome_some, if_pos rfl]
    exact ⟨by rw [hpwr]; rfl, fun d => (congrArg Die.cue (hlog.die d)).trans (hcue d), by rw [hpwr]; rfl, by rw [hpwr]; rfl,
      by rw [hpwr]; rfl, by rw [hpwr, hplan]; rfl, by rw [hpwr, hplan]; rfl⟩

/-- A grant of a batch that fits adds its watts, and the granted power keeps the budget and the ramp rule (R451, R455). -/
theorem Granted.within {b : Batch} (h : Granted s t b) (hfits : s.grantFits b = true) : t.granted = s.granted + b.watts ∧
    t.granted ≤ t.pwr.budget ∧ t.granted ≤ t.pwr.rampFrom + 10 * t.pwr.dstep.toNat := by
  have hsum : t.granted = s.granted + b.watts := granted_of_grants h.cue (by rw [h.grants]; simp)
  rw [hsum, h.budget, h.rampFrom, h.dstep]
  exact ⟨rfl, by simpa [State.grantFits] using hfits⟩

section GrantIssue

variable (he : s.ebtor = true) (hc : s.clocks = true) (ht : s.pwr.thermTrip = false)
include he hc ht

theorem grantIssue_of_fits {b : Batch} (h : s.waitingBatches.find? s.grantFits = some b) : grantIssue s = s.issueGrant b := by
  unfold grantIssue
  rw [if_neg (by simp [he, hc, ht]), h]

theorem grantIssue_of_none (h : ∀ b ∈ s.waitingBatches, s.grantFits b = false) : grantIssue s = s := by
  unfold grantIssue
  rw [if_neg (by simp [he, hc, ht]), List.find?_eq_none.2 (fun b hb => by rw [h b hb]; exact Bool.false_ne_true)]

end GrantIssue

/-- t is s but for its batches, which are of the same dies and shots. -/
def AdmitsOnly (s t : State) : Prop := ∃ bs, t = s.modPwr (fun p => { p with batches := bs }) ∧
  ∀ b ∈ bs, ∃ x ∈ s.pwr.batches, b.die = x.die ∧ b.ref = x.ref

theorem AdmitsOnly.refl (s : State) : AdmitsOnly s s := ⟨s.pwr.batches, rfl, fun b hb => ⟨b, hb, rfl, rfl⟩⟩

theorem AdmitsOnly.trans {u : State} (h : AdmitsOnly s t) (k : AdmitsOnly t u) : AdmitsOnly s u := by
  obtain ⟨bs, rfl, hbs⟩ := h
  obtain ⟨cs, rfl, hcs⟩ := k
  refine ⟨cs, rfl, fun c hc => ?_⟩
  obtain ⟨b, hb, hdie, href⟩ := hcs c hc
  obtain ⟨x, hx, hdie', href'⟩ := hbs b hb
  exact ⟨x, hx, hdie.trans hdie', href.trans href'⟩

theorem AdmitsOnly.tracked (h : AdmitsOnly s t) : t.tracked = s.tracked := by
  obtain ⟨_, rfl, -⟩ := h
  rfl

theorem admitSmall_admitsOnly (s : State) : AdmitsOnly s s.admitSmall := by
  unfold State.admitSmall
  split
  · exact .refl s
  · refine foldl_keeps .refl .trans (fun s b => ?_) _ s
    split
    · refine ⟨_, rfl, fun c hc => ?_⟩
      obtain ⟨x, hx, rfl⟩ := List.mem_map.1 hc
      exact ⟨x, hx, by split <;> rfl, by split <;> rfl⟩
    · exact .refl s

/-- The power registers once the batches of shot r on die d are complete (R450). -/
def Power.completed (p : Power) (d : Nat) (r : ShotRef) (overran : Bool) : Power :=
  { p with batches := p.batches.filter (fun b => !(b.die == d && b.ref == r)),
           grants := p.grants.filter (fun g => !(g.die == d && g.ref == r)), overruns := p.overruns + b2n overran }

theorem batchComplete_admitsOnly (hq : NoQueuedParts s) {d : Fin 16} {r : ShotRef}
    (hrun : s.pwr.batches.any (fun b => b.die == d.val && b.ref == r && b.admitted) = true) (overran : Bool) :
    AdmitsOnly (s.modPwr (·.completed d.val r overran)) (batchComplete d r overran s) := by
  have hadmits := admitSmall_admitsOnly (s.modPwr (·.completed d.val r overran))
  have hnone : NoQueuedParts (s.modPwr (·.completed d.val r overran)).admitSmall := hq.of_tracked hadmits.tracked
  rw [show batchComplete d r overran s = _ from (if_pos hrun).trans hnone.kickPrograms]
  exact hadmits

theorem batchComplete_none {d : Fin 16} {r : ShotRef} {overran : Bool}
    (hnone : s.pwr.batches.any (fun b => b.die == d.val && b.ref == r && b.admitted) = false) : batchComplete d r overran s = s :=
  if_neg (by rw [hnone]; exact Bool.false_ne_true)

/-! ## Samples of the draw (R455, R456) -/

/-- The least draw that the ramp rule allows after `us` µs. -/
def Power.fall (p : Power) (us : Nat) : Nat := p.rampTo - p.rampDn.toNat * us / 1000

/-- The ballast that keeps a draw of `watts` from falling too fast. -/
def State.ballastDue (s : State) (watts us : Nat) : Nat :=
  if s.pwr.throttle || !s.clocks then 0 else min 1200 (max (s.pwr.fall us - 10 * s.pwr.dstep.toNat) s.pwr.hold - watts)

/-- Ballast does not hold the fall. -/
def State.rampShortDue (s : State) (watts us : Nat) : Bool :=
  !s.pwr.throttle && decide (watts + s.ballastDue watts us < s.pwr.fall us - 10 * s.pwr.dstep.toNat)

/-- The power registers once a draw of `watts` has been sampled. -/
def State.sampled (s : State) (watts us : Nat) : Power :=
  { s.pwr with
    power := BitVec.ofNat 12 (min (watts + s.ballastDue watts us) 4095), ballast := s.ballastDue watts us,
    rampShort := s.rampShortDue watts us,
    rampFrom := min (s.pwr.rampFrom + s.pwr.rampUp.toNat * us / 1000) (watts + s.ballastDue watts us),
    rampTo := max (if s.pwr.throttle then 0 else s.pwr.fall us) (watts + s.ballastDue watts us) }

theorem powerSample_eq (s : State) (watts us : Nat) : powerSample watts us s =
    if s.rampShortDue watts us then (s.modPwr (fun _ => s.sampled watts us)).beginExcursion 3 16 0
    else (s.modPwr (fun _ => s.sampled watts us)).endExcursion 3 16 := rfl

/-- A sample moves the power registers alone, and row 3 is in force exactly while RAMP_SHORT is. -/
theorem powerSample_samples (s : State) (watts us : Nat) : (powerSample watts us s).cores = s.cores ∧
    ∃ e n q, (powerSample watts us s).pwr = { s.sampled watts us with excur := e, excursions := n, promise := q } ∧
      ((3, 16) ∈ e ↔ s.rampShortDue watts us = true) := by
  rw [powerSample_eq]
  cases hshort : s.rampShortDue watts us with
  | true =>
    have hlog := beginExcursion_logOnly (s.modPwr (fun _ => s.sampled watts us)) 3 16 0
    refine ⟨hlog.cores, _, _, _, hlog.pwr, ?_⟩
    exact iff_of_true (Power.mem_excur_begun.2 (.inr rfl)) rfl
  | false =>
    refine ⟨rfl, _, _, _, rfl, ?_⟩
    exact iff_of_false (endExcursion_not_mem _ 3 16) Bool.false_ne_true

theorem ballastDue_le (s : State) (watts us : Nat) : s.ballastDue watts us ≤ 1200 := by
  unfold State.ballastDue
  split <;> omega

theorem ballastDue_of_throttle (h : s.pwr.throttle = true) (watts us : Nat) : s.ballastDue watts us = 0 := by
  simp [State.ballastDue, h]

/-! ## THROTTLE# (R458) -/

theorem Die.slow_clk_le (v : Die) (n : Nat) : (v.slow n).clk ≤ v.clk := by
  unfold Die.slow
  dsimp only
  split <;> omega

/-- A die clock that stays above the floor of 1.0 GHz falls by as many steps as asked. -/
theorem Die.slow_clk {v : Die} {n : Nat} (h : 40 + n ≤ v.clk) : (v.slow n).clk = v.clk - n := by
  unfold Die.slow
  dsimp only
  rw [if_neg (by omega)]
  omega

/-- No die clock rises from s to t, and the power registers stay. -/
structure SlowsDies (s t : State) : Prop where
  clk : ∀ d, (t.die d).clk ≤ (s.die d).clk
  pwr : t.pwr = s.pwr

theorem SlowsDies.refl (s : State) : SlowsDies s s := ⟨fun _ => Nat.le_refl _, rfl⟩

theorem SlowsDies.trans {u : State} (h : SlowsDies s t) (k : SlowsDies t u) : SlowsDies s u :=
  ⟨fun d => Nat.le_trans (k.clk d) (h.clk d), k.pwr.trans h.pwr⟩

theorem modDie_slow_slowsDies (s : State) (d n : Nat) : SlowsDies s (s.modDie d (·.slow n)) := by
  refine ⟨fun e => ?_, rfl⟩
  by_cases he : e = d
  case pos =>
    rw [he, State.modDie_same]
    exact Die.slow_clk_le ..
  case neg => rw [State.modDie_other _ _ _ he]

/-- The state with the clocks of dies `ds` lowered by free values. -/
def State.slowFree (s : State) (ds : List Nat) : State :=
  let u := ds.foldl (fun u d => u.modDie d (fun v => v.slow ((Config.free (s.fresh + d)).toNat % 41))) s
  { u with fresh := u.fresh + 16 }

theorem slowFree_slowsDies (s : State) (ds : List Nat) : SlowsDies s (s.slowFree ds) := by
  obtain ⟨hclk, hpwr⟩ : SlowsDies s (ds.foldl (fun u d => u.modDie d (fun v => v.slow ((Config.free (s.fresh + d)).toNat % 41))) s) :=
    foldl_keeps .refl .trans (fun u d => modDie_slow_slowsDies u d _) ds s
  exact ⟨hclk, hpwr⟩

/-- The state with THROTTLE# taken, the die clocks not yet lowered. -/
def State.throttled (s : State) : State := (s.modPwr (fun p => { p with throttle := true, ballast := 0 })).excursion 4 16 0

theorem throttled_logOnly (s : State) :
    LogOnly (s.modPwr (fun p => { p with throttle := true, ballast := 0 }.excurse 4 16)) s.throttled := excursion_logOnly ..

theorem throttled_granted (s : State) : s.throttled.granted = s.granted :=
  granted_of_grants (w := 0) (fun d => congrArg Die.cue ((throttled_logOnly s).die d)) (by rw [(throttled_logOnly s).pwr]; rfl)

theorem throttleAssert_eq (h : s.pwr.throttle = false) : throttleAssert s =
    if s.throttled.granted ≤ s.throttled.pwr.thr.toNat then s.throttled else s.throttled.slowFree (List.range 16) := by
  unfold throttleAssert
  rw [if_neg (by rw [h]; exact Bool.false_ne_true)]
  rfl

theorem throttleAssert_fits (h : s.pwr.throttle = false) (hfits : s.granted ≤ s.pwr.thr.toNat) : throttleAssert s = s.throttled := by
  have hthr : s.throttled.pwr.thr = s.pwr.thr := by rw [(throttled_logOnly s).pwr]; rfl
  rw [throttleAssert_eq h, throttled_granted, hthr, if_pos hfits]

theorem throttleAssert_slows (h : s.pwr.throttle = false) : SlowsDies s.throttled (throttleAssert s) := by
  rw [throttleAssert_eq h]
  split
  · exact .refl _
  · exact slowFree_slowsDies ..

theorem throttleRelease_eq (h : s.pwr.throttle = true) :
    throttleRelease s = (s.modPwr (fun p => { p with throttle := false })).endExcursion 4 16 := if_pos h

/-- Settles O56: each command of the governor by its own lemma. -/
theorem grantsRampsAndThrottle : Obligations.GrantsRampsAndThrottle := by
  unfold Obligations.GrantsRampsAndThrottle
  intro s hq
  refine ⟨?grant, ?batch, ?sample, ?forecast, ?assert, ?release, rfl, rfl⟩
  case grant =>
    intro he hc ht
    refine ⟨fun hnone => congrArg Host.Outcome.next (grantIssue_of_none he hc ht hnone), fun b hb => ?_⟩
    have hg := issueGrant_granted hq b
    obtain ⟨hsum, hbudget, hramp⟩ := hg.within (List.find?_some hb)
    exact ⟨_, congrArg Host.Outcome.next (grantIssue_of_fits he hc ht hb), hg.grants, hsum, hbudget, hramp, hg.planMiss, hg.excursions⟩
  case batch =>
    intro d r long own
    refine ⟨fun hrun => ?_, fun hnone => congrArg Host.Outcome.next (batchComplete_none hnone)⟩
    obtain ⟨bs, heq, hbs⟩ := batchComplete_admitsOnly hq hrun long
    refine ⟨_, congrArg Host.Outcome.next heq, rfl, fun b hb => ?_, rfl⟩
    obtain ⟨x, hx, hdie, href⟩ := hbs b hb
    have hother := (List.mem_filter.1 hx).2
    show (b.die == d.val && b.ref == r) = false
    rw [hdie, href]
    exact (Bool.not_eq_true' _).mp hother
  case sample =>
    intro watts us
    obtain ⟨hcores, e, n, q, hpwr, hexcur⟩ := powerSample_samples s watts us
    refine ⟨_, rfl, ?_⟩
    rw [hpwr]
    have hsame (h : s.pwr.throttle = false) : s.rampShortDue watts us = true ↔
        watts + s.ballastDue watts us < s.pwr.fall us - 10 * s.pwr.dstep.toNat := by simp [State.rampShortDue, h]
    refine ⟨ballastDue_le .., fun h => ⟨ballastDue_of_throttle h .., by simp [State.sampled, State.rampShortDue, h]⟩, ?_,
      Nat.min_le_right .., Nat.le_max_right .., Nat.min_le_left .., fun h => ?_, hsame, hexcur, rfl, hcores⟩
    · exact (BitVec.toNat_ofNat ..).trans (Nat.mod_eq_of_lt (by omega))
    · refine Nat.le_trans ?_ (Nat.le_max_left ..)
      rw [if_neg (by rw [h]; exact Bool.false_ne_true)]
      exact Nat.le_refl _
  case forecast =>
    intro watts lead he
    have hruns (acked : Bool) : forecast watts lead acked s = _ := if_neg (by simp [he])
    exact ⟨_, congrArg Host.Outcome.next (hruns true), congrArg Host.Outcome.next (hruns false)⟩
  case assert =>
    intro h
    have hpwr := (throttleAssert_slows h).pwr.trans (throttled_logOnly s).pwr
    refine ⟨_, rfl, ?_⟩
    rw [hpwr]
    refine ⟨rfl, rfl, Power.mem_excurse .., Power.budget_of_throttle rfl, rfl, fun d => ?_, fun hfits => ?_⟩
    · exact Nat.le_trans ((throttleAssert_slows h).clk d) (Nat.le_of_eq (congrArg Die.clk ((throttled_logOnly s).die d)))
    · rw [throttleAssert_fits h hfits]; exact (throttled_logOnly s).dies
  case release =>
    intro h
    refine ⟨_, congrArg Host.Outcome.next (throttleRelease_eq h), rfl, endExcursion_not_mem _ 4 16, fun hfault => ?_, rfl⟩
    exact Power.budget_of_capped rfl hfault

end Sys2Proof.Machine
end

section
/-!
Coolant, excursions and trips (R459 to R463, R496): the readings and the valve, excursions of a die, what a stopped die leaves of its
parts, held reels, thermal trips, rail faults and how a trip ends.
-/
namespace Sys2Proof.Machine

variable {s t u : State}

/-! ## Sensors and the valve (R459, R496) -/

theorem tempByte_toNat {x : Half} (h : 0 ≤ x.toInt) (free : Byte) : (tempByte free x).toNat = x.toNat / 128 := by
  have hlt : 2 * x.toNat < 2 ^ 16 := by
    rw [BitVec.toInt_eq_toNat_cond] at h
    split at h <;> omega
  have hdiv : x.toInt.tdiv 128 = ((x.toNat / 128 : Nat) : Int) := by rw [BitVec.toInt_eq_toNat_of_lt hlt]; rfl
  unfold tempByte
  rw [hdiv, if_neg (by omega), BitVec.ofInt_natCast, BitVec.toNat_ofNat, Nat.mod_eq_of_lt (by omega)]

/-- The flow in the register, in steps of ten litres and at most 255 (R496). -/
def flowByte (x : Half) : Byte := BitVec.ofNat 8 (min (x.toNat / 10) 255)

theorem flowByte_toNat (x : Half) : (flowByte x).toNat = min (x.toNat / 10) 255 := by
  rw [flowByte, BitVec.toNat_ofNat, Nat.mod_eq_of_lt (by omega)]

/-- The valve stays fully open. -/
def Power.valveFull (p : Power) : Bool := !p.valveAuto || p.plantFault || p.thermTrip

/-- The plant registers once the sensors have been read, and the valve has been set when Ebtor runs. -/
def Power.sensed (p : Power) (free : Byte) (tin tout flow : Option Half) (ebtor : Bool) (duty : Nat) : Power :=
  { p with tin := (tin.map (tempByte free)).getD p.tin, tout := (tout.map (tempByte free)).getD p.tout,
           flow := (flow.map flowByte).getD p.flow, snsOk := p.snsOk || (tin.isSome && tout.isSome && flow.isSome),
           valve := if ebtor then BitVec.ofNat 7 (if p.valveFull then 100 else min duty 100) else p.valve,
           valveHigh := !ebtor && p.valveHigh }

theorem plantSensorRead_pwr (tin tout flow : Option Half) (duty : Nat) (s : State) :
    (plantSensorRead tin tout flow duty s).pwr = s.pwr.sensed (s.freeVal.setWidth 8) tin tout flow s.ebtor duty := by
  unfold plantSensorRead
  dsimp only
  cases he : s.ebtor with
  | true => exact congrArg State.pwr (if_neg (show ¬ (!s.ebtor) = true by simp [he]))
  | false => exact congrArg State.pwr (if_pos (show (!s.ebtor) = true by simp [he]))

/-! ## Excursions of a die -/

/-- A die clock lowered at an excursion that is counted where it begins: n steps fewer, and no other die changes (Table 16-2). -/
theorem slow_beginExcursion {row n : Nat} (d : Fin 16) (h : 40 + n ≤ (s.die d.val).clk) :
    let t := (s.modDie d.val (·.slow n)).beginExcursion row d.val 0
    (t.die d.val).clk = (s.die d.val).clk - n ∧ (row, d.val) ∈ t.pwr.excur ∧
      t.pwr.excursions = (if (row, d.val) ∈ s.pwr.excur then s.pwr.excursions else satInc s.pwr.excursions) ∧
      ∀ m : Nat, m ≠ d.val → t.die m = s.die m := by
  intro t
  have hlog : LogOnly _ t := beginExcursion_logOnly (s.modDie d.val (·.slow n)) row d.val 0
  refine ⟨?_, ?_, ?_, fun m hm => ?_⟩
  · rw [hlog.die, State.modPwr_get_die, State.modDie_same, Die.slow_clk h]
  · rw [hlog.pwr]
    exact Power.mem_excur_begun.2 (.inr rfl)
  · rw [hlog.pwr]
    exact Power.begun_excursions ..
  · rw [hlog.die, State.modPwr_get_die, State.modDie_other _ _ _ hm]

/-! ## Parts that end (R462) -/

/-- From s to t the power registers and the dies stay; no collective opens, and no part comes to wait for a core. -/
structure WorkOnly (s t : State) : Prop where
  pwr : t.pwr = s.pwr
  dies : t.dies = s.dies
  noOpen : s.links.open_ = [] → t.links.open_ = []
  noQueued : NoQueuedParts s → NoQueuedParts t

theorem WorkOnly.refl (s : State) : WorkOnly s s := ⟨rfl, rfl, id, id⟩

theorem WorkOnly.trans (h : WorkOnly s t) (k : WorkOnly t u) : WorkOnly s u :=
  ⟨k.pwr.trans h.pwr, k.dies.trans h.dies, k.noOpen ∘ h.noOpen, k.noQueued ∘ h.noQueued⟩

theorem releasePartner_workOnly (s : State) (k : Nat) : WorkOnly s (s.releasePartner k) := by
  unfold State.releasePartner
  split <;> exact ⟨rfl, rfl, id, id⟩

theorem unitDone_workOnly (s : State) (r : ShotRef) (p : Nat) (st : Half) : WorkOnly s (s.unitDone r p st) := by
  have hlog := unitDone_logOnly s r p st
  exact ⟨hlog.pwr, hlog.dies, fun h => by rw [hlog.links]; exact h, fun hq => hq.unitDone r p st⟩

theorem modCchk_workOnly (s : State) (g : List (Nat × Nat × Nat) → List (Nat × Nat × Nat)) : WorkOnly s (s.modCchk g) :=
  ⟨rfl, rfl, fun h => congrArg (List.map _) h, id⟩

theorem modCoreK_workOnly (s : State) (k : Nat) (g : Core → Core) : WorkOnly s (s.modCoreK k g) := ⟨rfl, rfl, id, id⟩

/-- With no part waiting, the end of core k's part is the end of that part alone. -/
theorem endPart_ends (hq : NoQueuedParts s) (k : Nat) (st : Half) (ps : BitVec 3) : WorkOnly s (s.endPart k st ps) ∧
    ∀ c : CoreId, ((s.endPart k st ps).core c).part = if c.key = k then none else (s.core c).part := by
  unfold State.endPart
  split
  · next hnone =>
    refine ⟨modCoreK_workOnly .., fun c => ?_⟩
    rw [State.modCoreK_get_core]
    split
    · next hk => subst hk; exact hnone
    · rfl
  · next r p hpart =>
    have hwork := ((releasePartner_workOnly s k).trans (modCchk_workOnly _ (·.filter (fun x => x.2.1 ≠ k)))).trans
      ((modCoreK_workOnly _ k (fun c => { c with part := none, pstate := ps, taint := [], cut := none, vxTry := 0, queue := [],
                                                  faultWait := none })).trans (unitDone_workOnly _ r p st))
    rw [(hwork.noQueued hq).kickPrograms]
    refine ⟨hwork, fun c => ?_⟩
    obtain ⟨q, role, n, hrel⟩ := releasePartner_core s k c
    rw [unitDone_core, State.modCoreK_get_core, show (State.modCchk _ _).core c = _ from hrel]
    split <;> rfl

theorem foldl_endPart_ends (st : Half) (ks : List Nat) (hq : NoQueuedParts s) : WorkOnly s (ks.foldl (fun s k => s.endPart k st 0) s) ∧
    ∀ c : CoreId, ((ks.foldl (fun s k => s.endPart k st 0) s).core c).part = if c.key ∈ ks then none else (s.core c).part := by
  induction ks generalizing s with
  | nil => exact ⟨.refl s, fun c => rfl⟩
  | cons k ks ih =>
    obtain ⟨hwork, hpart⟩ := endPart_ends hq k st 0
    obtain ⟨hrest, hparts⟩ := ih (hwork.noQueued hq)
    refine ⟨hwork.trans hrest, fun c => ?_⟩
    rw [List.foldl_cons, hparts, hpart]
    by_cases hk : c.key = k <;> simp [hk]

/-! ## Dies that stop -/

theorem key_mem_dieKeys {c : CoreId} {d : Nat} : c.key ∈ dieKeys d ↔ c.die.val = d := by
  obtain ⟨⟨a, _⟩, ⟨b, hb⟩⟩ := c
  simp only [dieKeys, List.mem_map, List.mem_range, CoreId.key]
  constructor
  · rintro ⟨p, hp, heq⟩
    omega
  · rintro rfl
    exact ⟨b, hb, rfl⟩

theorem modCue_stopped (s : State) (d : Nat) (g : Cue → Cue) (n : Nat) : ((s.modCue d g).die n).stopped = (s.die n).stopped := by
  unfold State.modCue
  by_cases hn : n = d
  · rw [hn, State.modDie_same]
  · rw [State.modDie_other _ _ _ hn]

/-- From s to t dies `ds` have stopped and their parts have ended; f says what each has done to the power registers. -/
structure StopsDies (f : Power → Nat → Power) (ds : List Nat) (s t : State) : Prop where
  pwr : t.pwr = ds.foldl f s.pwr
  stopped : ∀ n, (t.die n).stopped = (decide (n ∈ ds) || (s.die n).stopped)
  part : ∀ c : CoreId, (t.core c).part = if c.die.val ∈ ds then none else (s.core c).part
  noOpen : s.links.open_ = [] → t.links.open_ = []
  noQueued : NoQueuedParts t

theorem StopsDies.trans {f : Power → Nat → Power} {ds es : List Nat} (h : StopsDies f ds s t) (k : StopsDies f es t u) :
    StopsDies f (ds ++ es) s u where
  pwr := by rw [k.pwr, h.pwr, List.foldl_append]
  stopped n := by rw [k.stopped, h.stopped, ← Bool.or_assoc, Bool.or_comm (decide _)]; simp
  part c := by
    rw [k.part, h.part]
    by_cases hd : c.die.val ∈ ds <;> simp [hd]
  noOpen := k.noOpen ∘ h.noOpen
  noQueued := k.noQueued

theorem foldl_stopsDies {f : Power → Nat → Power} {g : State → Nat → State}
    (hg : ∀ s d, NoQueuedParts s → StopsDies f [d] s (g s d)) (ds : List Nat) (hq : NoQueuedParts s) :
    StopsDies f ds s (ds.foldl g s) := by
  induction ds generalizing s with
  | nil => exact ⟨rfl, fun _ => rfl, fun _ => rfl, id, hq⟩
  | cons d ds ih => exact (hg s d hq).trans (ih (hg s d hq).noQueued)

theorem stopDie_stops (hq : NoQueuedParts s) (d : Nat) (st : Half) : StopsDies (fun p _ => p) [d] s (s.stopDie d st) := by
  unfold State.stopDie
  extract_lets v w
  obtain ⟨hwork, hpart⟩ := foldl_endPart_ends st ((dieKeys d).filter (fun k => (w.coreK k).part.isSome)) (s := w) hq
  refine ⟨hwork.pwr, fun n => ?_, fun c => ?_, hwork.noOpen, hwork.noQueued hq⟩
  · rw [show State.die _ n = w.die n from congrArg (tget die0 · n) hwork.dies,
      show (w.die n).stopped = (v.die n).stopped from modCue_stopped v d _ n]
    by_cases hn : n = d
    case pos =>
      rw [hn, State.modDie_same]
      simp
    case neg =>
      rw [State.modDie_other _ _ _ hn]
      simp [hn]
  · rw [hpart, show w.core c = s.core c from rfl]
    have hmem : c.key ∈ (dieKeys d).filter (fun k => (w.coreK k).part.isSome) ↔ c.die.val = d ∧ (s.core c).part.isSome :=
      List.mem_filter.trans (and_congr_left' key_mem_dieKeys)
    simp only [hmem, List.mem_singleton]
    cases hsome : (s.core c).part <;> simp

/-! ## Held reels (R461) -/

/-- Hold a reel that is not held yet. -/
def State.holdOnce (st : Half) (s : State) (n : Nat) : State := if (s.reel n).held then s else s.holdHead n st

/-- t is s but for reels, of which none has been released, and mailboxes. -/
structure HoldsOnly (s t : State) : Prop where
  frame : ∃ r m, t = { s with reels := r, mbox := m }
  held : ∀ n, (s.reel n).held = true → (t.reel n).held = true

theorem HoldsOnly.refl (s : State) : HoldsOnly s s := ⟨⟨s.reels, s.mbox, rfl⟩, fun _ => id⟩

theorem HoldsOnly.trans (h : HoldsOnly s t) (k : HoldsOnly t u) : HoldsOnly s u := by
  obtain ⟨⟨_, _, rfl⟩, hheld⟩ := h
  obtain ⟨⟨_, _, rfl⟩, kheld⟩ := k
  exact ⟨⟨_, _, rfl⟩, fun n => kheld n ∘ hheld n⟩

theorem HoldsOnly.pwr (h : HoldsOnly s t) : t.pwr = s.pwr := by
  obtain ⟨⟨_, _, rfl⟩, -⟩ := h
  rfl

theorem HoldsOnly.die (h : HoldsOnly s t) (d : Nat) : t.die d = s.die d := by
  obtain ⟨⟨_, _, rfl⟩, -⟩ := h
  rfl

theorem HoldsOnly.core (h : HoldsOnly s t) (c : CoreId) : t.core c = s.core c := by
  obtain ⟨⟨_, _, rfl⟩, -⟩ := h
  rfl

theorem holdOnce_holds (st : Half) (s : State) (n : Nat) : HoldsOnly s (s.holdOnce st n) ∧ ((s.holdOnce st n).reel n).held = true := by
  unfold State.holdOnce
  split
  · next h => exact ⟨.refl s, h⟩
  · obtain ⟨b, heq⟩ := hold_eq s n st (s.reel n).nextSeq
    refine ⟨⟨⟨_, _, heq⟩, fun m hm => ?_⟩, hold_held ..⟩
    by_cases hmn : m = n
    · rw [hmn]
      exact hold_held ..
    · rw [State.holdHead, heq]
      exact (congrArg Reel.held (tget_tset_ne reel0 s.reels _ hmn)).trans hm

theorem foldl_holdOnce_holds (st : Half) (ns : List Nat) (s : State) : HoldsOnly s (ns.foldl (State.holdOnce st) s) ∧
    ∀ n ∈ ns, ((ns.foldl (State.holdOnce st) s).reel n).held = true := by
  induction ns generalizing s with
  | nil => exact ⟨.refl s, fun n hn => absurd hn List.not_mem_nil⟩
  | cons m ns ih =>
    obtain ⟨hfirst, hheld⟩ := holdOnce_holds st s m
    obtain ⟨hrest, hall⟩ := ih (s.holdOnce st m)
    refine ⟨hfirst.trans hrest, fun n hn => ?_⟩
    rcases List.mem_cons.1 hn with rfl | hn
    · exact hrest.held n hheld
    · exact hall n hn

/-! ## A thermal trip (R461, R465) -/

/-- The power registers at a thermal trip: every grant ends and the valve opens. -/
def Power.tripped (p : Power) : Power :=
  { p with thermTrip := true, tripReleased := false, grants := [], valve := 100,
           batches := p.batches.map (fun b => if b.small then b else { b with admitted := false }) }

/-- The state at a thermal trip, its dies not yet stopped. -/
def State.tripping (s : State) : State := (s.modPwr Power.tripped).excursion 6 16 stThermal

theorem tripping_logOnly (s : State) : LogOnly (s.modPwr (fun p => p.tripped.excurse 6 16)) s.tripping := excursion_logOnly ..

/-- The state at a thermal trip with every die stopped. -/
def State.tripStopped (s : State) : State := (List.range 16).foldl (fun s d => s.stopDie d stThermal) s.tripping

theorem tripStopped_stops (hq : NoQueuedParts s) : StopsDies (fun p _ => p) (List.range 16) s.tripping s.tripStopped :=
  foldl_stopsDies (fun _ d hq => stopDie_stops hq d stThermal) _ (hq.of_tracked (tripping_logOnly s).tracked)

/-- With no collective open, what follows the stop of the dies is the hold of the reels with a dispatched shot. -/
theorem thermalTrip_eq (hq : NoQueuedParts s) (htrip : s.pwr.thermTrip = false) (hopen : s.links.open_ = []) :
    thermalTrip s = s.busyReels.foldl (State.holdOnce stThermal) s.tripStopped := by
  have hlinks : s.tripping.links = s.links := (tripping_logOnly s).links
  have hnone : s.tripStopped.links.open_ = [] := (tripStopped_stops hq).noOpen (by rw [hlinks]; exact hopen)
  unfold thermalTrip
  rw [if_neg (by rw [htrip]; exact Bool.false_ne_true)]
  extract_lets rs tripping stopped aborted
  have hstopped : stopped = s.tripStopped := rfl
  have haborted : aborted = s.tripStopped := by
    unfold aborted
    rw [hstopped, hnone, List.map_nil, List.foldl_nil]
  rw [haborted]
  rfl

theorem tripStopped_pwr (hq : NoQueuedParts s) : s.tripStopped.pwr = s.tripping.pwr :=
  (tripStopped_stops hq).pwr.trans (List.foldl_fixed ..)

theorem mem_busyReels {x : Tracked} (h : x ∈ s.tracked) : x.reel.val ∈ s.busyReels :=
  List.mem_eraseDups.2 (List.mem_map_of_mem h)

/-! ## Rail faults (R461, R462) -/

/-- The dies of a rail fault that still run. -/
def State.railDies (s : State) (dies : Half) : List Nat := (List.range 16).filter (fun d => dies.getLsbD d && !(s.die d).stopped)

/-- The reels with a part on one of some dies. -/
def State.servedReels (s : State) (ds : List Nat) : List Nat :=
  ((s.tracked.filter (fun t => t.running.any (fun x => ds.contains (x.1 / 34)))).map (fun t => t.reel.val)).eraseDups

/-- The state at a rail fault of dies `ds` with these stopped. -/
def State.railStopped (s : State) (ds : List Nat) : State :=
  ds.foldl (fun s d => (s.beginExcursion 8 d stPowerFault).stopDie d stPowerFault) s

theorem powerFault_eq (dies : Half) (s : State) : powerFault dies s =
    (s.servedReels (s.railDies dies)).foldl (State.holdOnce stPowerFault) (s.railStopped (s.railDies dies)) := rfl

theorem railStopped_stops (hq : NoQueuedParts s) (ds : List Nat) : StopsDies (·.begun 8 ·) ds s (s.railStopped ds) := by
  refine foldl_stopsDies (fun s d hq => ?_) ds hq
  have hlog := beginExcursion_logOnly s 8 d stPowerFault
  obtain ⟨hpwr, hstopped, hpart, hopen, hnone⟩ := stopDie_stops (hq.of_tracked (s := s) hlog.tracked) d stPowerFault
  refine ⟨hpwr.trans hlog.pwr, fun n => ?_, fun c => ?_, fun h => hopen ?_, hnone⟩
  · rw [hstopped, hlog.die]; rfl
  · rw [hpart, hlog.core]; rfl
  · rw [hlog.links]; exact h

theorem mem_railDies {dies : Half} {d : Fin 16} :
    d.val ∈ s.railDies dies ↔ dies.getLsbD d.val = true ∧ (s.die d.val).stopped = false := by
  simp [State.railDies]

theorem mem_excur_foldl_begun {row : Nat} {e : Nat × Nat} (ds : List Nat) (p : Power) :
    e ∈ (ds.foldl (fun p d => p.begun row d) p).excur ↔ e ∈ p.excur ∨ ∃ d ∈ ds, e = (row, d) := by
  induction ds generalizing p with
  | nil => simp
  | cons d ds ih => rw [List.foldl_cons, ih, Power.mem_excur_begun, or_assoc, List.exists_mem_cons_iff]

theorem mem_servedReels {x : Tracked} {ds : List Nat} (hx : x ∈ s.tracked) {q : Nat × Nat} (hq : q ∈ x.running) (hd : q.1 / 34 ∈ ds) :
    x.reel.val ∈ s.servedReels ds := by
  refine List.mem_eraseDups.2 (List.mem_map_of_mem (List.mem_filter.2 ⟨hx, ?_⟩))
  exact List.any_eq_true.2 ⟨q, hq, List.contains_iff_mem.2 hd⟩

/-! ## The end of a trip (Table 16-2) -/

/-- From s to t dies `ds` run again that no rail fault has stopped; the power registers and the tracked shots stay. -/
structure Restarts (ds : List Nat) (s t : State) : Prop where
  pwr : t.pwr = s.pwr
  tracked : t.tracked = s.tracked
  stopped : ∀ n, (t.die n).stopped = if n ∈ ds then s.pwr.excur.contains (8, n) else (s.die n).stopped

theorem Restarts.refl (s : State) : Restarts [] s s := ⟨rfl, rfl, fun _ => rfl⟩

theorem Restarts.trans {ds es : List Nat} (h : Restarts ds s t) (k : Restarts es t u) : Restarts (ds ++ es) s u where
  pwr := k.pwr.trans h.pwr
  tracked := k.tracked.trans h.tracked
  stopped n := by
    rw [k.stopped, h.stopped, h.pwr]
    by_cases hn : n ∈ es <;> simp [hn]

/-- Die d runs again unless a rail fault has stopped it. -/
def State.restart (s : State) (d : Nat) : State := s.modDie d (fun v => { v with stopped := s.pwr.excur.contains (8, d) })

theorem restart_restarts (s : State) (d : Nat) : Restarts [d] s (s.restart d) := by
  refine ⟨rfl, rfl, fun n => ?_⟩
  by_cases hn : n = d
  case pos => rw [hn, State.restart, State.modDie_same, if_pos (List.mem_singleton_self d)]
  case neg => rw [State.restart, State.modDie_other _ _ _ hn, if_neg (mt List.mem_singleton.1 hn)]

theorem foldl_restart_restarts (ds : List Nat) (s : State) : Restarts ds s (ds.foldl State.restart s) := by
  induction ds generalizing s with
  | nil => exact .refl s
  | cons d ds ih => exact (restart_restarts s d).trans (ih _)

theorem cueRetry_restarts (s : State) (d : Nat) : Restarts [] s (s.cueRetry d) := by
  unfold State.cueRetry
  split
  · split
    · exact ⟨rfl, rfl, modCue_stopped s d _⟩
    · exact .refl s
  · exact .refl s

/-- With no part waiting, the end of a trip restarts the dies. -/
theorem endTrip_restarts (hq : NoQueuedParts s) : Restarts (List.range 16)
    (s.modPwr (fun p => { p with thermTrip := false, tripReleased := false })) s.endTrip := by
  have hdies := foldl_restart_restarts (List.range 16) (s.modPwr (fun p => { p with thermTrip := false, tripReleased := false }))
  have hcues := hdies.trans (foldl_keeps .refl .trans cueRetry_restarts (List.range 16) _)
  rw [List.append_nil] at hcues
  rw [show s.endTrip = _ from (hq.of_tracked hcues.tracked).kickPrograms]
  exact hcues

theorem excursionClear_trip_waits (h : s.pwr.tripReleased = false) (die : Nat) : excursionClear 5 die s = s :=
  if_neg (by rw [h, Bool.and_false]; exact Bool.false_ne_true)

theorem excursionClear_trip_ends (htrip : s.pwr.thermTrip = true) (h : s.pwr.tripReleased = true) (die : Nat) :
    excursionClear 5 die s = (s.endExcursion 6 16).endTrip :=
  if_pos (by rw [htrip, h]; rfl)

/-- Settles O57: each event of the plant by its own lemma. -/
theorem coolantExcursionsAndTrips : Obligations.CoolantExcursionsAndTrips := by
  unfold Obligations.CoolantExcursionsAndTrips
  intro s hq
  refine ⟨?sensors, ?die, ?tripped, ?trip, ?plant, ?rail, ?clears, ?plantClears, ?tripClears⟩
  case sensors =>
    intro tin tout flow duty htin htout
    refine ⟨_, rfl, ?_⟩
    rw [plantSensorRead_pwr]
    refine ⟨?_, fun h => by rw [h]; rfl, ?_, fun h => by rw [h]; rfl, ?_, fun h => by rw [h]; rfl, fun hin hout hflow => ?_, rfl,
      fun he => ⟨by rw [he]; rfl, ?_, ?_⟩⟩
    · rintro x rfl
      exact tempByte_toNat (htin x rfl) _
    · rintro x rfl
      exact tempByte_toNat (htout x rfl) _
    · rintro x rfl
      exact flowByte_toNat x
    · simp [Power.sensed, Option.isSome_iff_ne_none, hin, hout, hflow]
    · intro hauto hfault htrip
      have hfree : s.pwr.valveFull = false := by simp [Power.valveFull, hauto, hfault, htrip]
      simp only [Power.sensed, he, hfree, if_true, Bool.false_eq_true, if_false, BitVec.toNat_ofNat]
      exact Nat.mod_eq_of_lt (by omega)
    · intro h
      have hfull : s.pwr.valveFull = true := by simpa [Power.valveFull, or_assoc] using h
      simp [Power.sensed, he, hfull]
  case die => exact fun d => ⟨fun h => ⟨_, rfl, slow_beginExcursion d h⟩, fun h => ⟨_, rfl, slow_beginExcursion d h⟩⟩
  case tripped => exact fun h => congrArg Host.Outcome.next (if_pos h)
  case trip =>
    intro htrip hopen
    refine ⟨_, congrArg Host.Outcome.next (thermalTrip_eq hq htrip hopen), ?_⟩
    have hstops := tripStopped_stops hq
    obtain ⟨hholds, hheld⟩ := foldl_holdOnce_holds stThermal s.busyReels s.tripStopped
    rw [hholds.pwr, tripStopped_pwr hq, (tripping_logOnly s).pwr]
    refine ⟨rfl, rfl, rfl, rfl, Power.mem_excurse .., fun d => ?_, fun c => ?_, fun x hx => hheld _ (mem_busyReels hx)⟩
    · rw [hholds.die, hstops.stopped, decide_eq_true (List.mem_range.2 d.isLt), Bool.true_or]
    · rw [hholds.core, hstops.part, if_pos (List.mem_range.2 c.die.isLt)]
  case plant =>
    intro row
    have hlog := beginExcursion_logOnly
      (s.modPwr (fun p => { p with plantFault := true, valve := 100, snsOk := p.snsOk && row ≠ 1 })) 7 16 0
    refine ⟨_, rfl, ?_⟩
    rw [show (plantFault row s).pwr = _ from hlog.pwr]
    exact ⟨rfl, rfl, Power.budget_of_plantFault rfl, Power.mem_excur_begun.2 (.inr rfl), hlog.cores, hlog.tracked⟩
  case rail =>
    intro dies
    refine ⟨_, congrArg Host.Outcome.next (powerFault_eq dies s), ?_⟩
    obtain ⟨hpwr, hstopped, hpart, -, -⟩ := railStopped_stops hq (s.railDies dies)
    obtain ⟨hholds, hheld⟩ := foldl_holdOnce_holds stPowerFault (s.servedReels (s.railDies dies)) (s.railStopped (s.railDies dies))
    refine ⟨fun d => ?_, ?_⟩
    · rw [hholds.die, hstopped, hholds.pwr, hpwr, mem_excur_foldl_begun]
      refine ⟨fun hd => ?_, fun hd => ?_, fun hd hrun => ⟨.inr ⟨d.val, mem_railDies.2 ⟨hd, hrun⟩, rfl⟩, fun n => ?_⟩⟩
      · cases hs : (s.die d.val).stopped <;> simp [mem_railDies, hd, hs]
      · rw [decide_eq_false (fun h => Bool.false_ne_true (hd.symm.trans (mem_railDies.1 h).1)), Bool.false_or]
      · rw [hholds.core, hpart, if_pos (mem_railDies.2 ⟨hd, hrun⟩)]
    · rintro x hx ⟨q, hq, d, hdie, hd, hrun⟩
      exact hheld _ (mem_servedReels hx hq (hdie ▸ mem_railDies.2 ⟨hd, hrun⟩))
  case clears =>
    rintro ⟨row, hrow⟩ die (rfl | rfl | rfl)
    · rfl
    · rfl
    · rfl
  case plantClears => exact fun die => ⟨_, rfl, rfl, endExcursion_not_mem _ 7 16, rfl⟩
  case tripClears =>
    intro die
    refine ⟨fun h => congrArg Host.Outcome.next (excursionClear_trip_waits h die), fun htrip hreleased => ?_⟩
    obtain ⟨hpwr, -, hstopped⟩ := endTrip_restarts (s := s.endExcursion 6 16) (hq.of_tracked rfl)
    refine ⟨_, congrArg Host.Outcome.next (excursionClear_trip_ends htrip hreleased die), by rw [hpwr]; rfl, ?_, fun d hd => ?_⟩
    · rw [hpwr]
      exact endExcursion_not_mem s 6 16
    · rw [hstopped, if_pos (List.mem_range.2 d.isLt)]
      have hgone : (8, d.val) ∉ (s.endExcursion 6 16).pwr.excur := fun h => hd (List.mem_filter.1 h).1
      simpa using hgone

end Sys2Proof.Machine
end

section
/-!
The front of the queue (log entry 24) and the MSI-X vectors (R491).
-/
namespace Sys2Proof.Machine

/-- Settles O1. -/
theorem stepRunsFrontCommand : Obligations.StepRunsFrontCommand := by
  intro c rest s hqueue
  unfold step
  rw [hqueue]

variable {s : State} {port : Fin 2} {v : Fin 64}

theorem msiXUnmask_of_not_pending (h : (s.pf port.val).vecPend.getLsbD v.val = false) :
    msiXUnmask port v s = s.modPf port.val (fun f => { f with vecMask := f.vecMask &&& ~~~(1#64 <<< v.val) }) :=
  if_neg (by rw [h]; simp)

/-- An unmasked vector that is pending fires: its message is sent, and its pending bit is clear (R491). -/
theorem msiXUnmask_fires (hpend : (s.pf port.val).vecPend.getLsbD v.val = true) (hen : (s.pf port.val).msixEn = true)
    (hmask : (s.pf port.val).funcMask = false) : msiXUnmask port v s =
      ((s.modPf port.val (fun f => { f with vecMask := f.vecMask &&& ~~~(1#64 <<< v.val) })).modPf port.val
        (fun f => { f with vecPend := f.vecPend &&& ~~~(1#64 <<< v.val) })).emit (.msix port v.val) :=
  if_pos (by rw [hpend, hen, hmask]; rfl)

/-- Settles O26: a vector that is pending, and one that is not. -/
theorem msiVectorsFireOnceUnmasked : Obligations.MsiVectorsFireOnceUnmasked := by
  intro port v s
  refine ⟨fun hpend => congrArg Host.Outcome.next (msiXUnmask_of_not_pending hpend), fun hpend hen hmask =>
    ⟨_, congrArg Host.Outcome.next (msiXUnmask_fires hpend hen hmask), rfl, ?_, ?_, rfl⟩⟩
  · simp
  · simp

end Sys2Proof.Machine
end

section
/-!
The refutation of the obligation on boot and resets: a core reset ends a part, and what the part has committed goes STALE (R315).
-/
namespace Sys2Proof.Machine

variable {s : State}

theorem markStale_stale {b : Nat} (h : (s.slate b).kind ≠ kUnwritten) : ((s.markStale b).slate b).stale = true := by
  unfold State.markStale
  rw [if_neg h]
  exact congrArg Slate.stale (tget_cset_same ..)

/-- A shot that lands with a failed part leaves the destinations of that part STALE (R315). -/
theorem unitDone_marks {r : ShotRef} {p : Nat} {st : Half} {t : Tracked}
    (ht : (s.modTracked r (·.partDone p st)).trackedOf r = some t) (hphase : t.phase = .landed) (hfail : t.failmask ≠ 0) :
    s.unitDone r p st = (rangeBlocks ((t.dests.filter (fun x => bit t.failmask.toNat (t.partOf x.1))).map (·.2))).foldl State.markStale
      (s.modTracked r (·.partDone p st)) := by
  unfold State.unitDone
  simp only [ht]
  exact if_pos (by rw [hphase, decide_eq_true hfail]; rfl)

/-- The core whose part has ended. -/
def Core.partOver (c : Core) (ps : BitVec 3) : Core :=
  { c with part := none, pstate := ps, taint := [], cut := none, vxTry := 0, queue := [], faultWait := none }

/-- With no part waiting, the part of a core without a MIRROR partner ends in its shot. -/
theorem endPart_of_no_partner (hq : NoQueuedParts s) {k p : Nat} {r : ShotRef} (hpart : (s.coreK k).part = some (r, p))
    (hpartner : (s.coreK k).partner = none) (st : Half) (ps : BitVec 3) : s.endPart k st ps =
      ((s.modCchk (·.filter (fun x => x.2.1 ≠ k))).modCoreK k (·.partOver ps)).unitDone r p st := by
  have hrel : s.releasePartner k = s := by
    unfold State.releasePartner
    rw [hpartner]
  have hcore : NoQueuedParts ((s.modCchk (·.filter (fun x => x.2.1 ≠ k))).modCoreK k (·.partOver ps)) := hq
  unfold State.endPart
  simp only [hpart, hrel]
  exact (hcore.unitDone r p st).kickPrograms

/-- Past the parts that it ends, the reset of a core leaves memory alone. -/
theorem resetCore_hbm (s : State) (k : Nat) : (s.resetCore k).hbm = (s.failOn [k] stCoreReset).hbm := by
  have hrel : ((s.failOn [k] stCoreReset).releasePartner k).hbm = (s.failOn [k] stCoreReset).hbm := by
    unfold State.releasePartner
    split <;> rfl
  unfold State.resetCore
  dsimp only
  split
  · rfl
  · exact hrel

/-- Shot 5 of reel 7, a PROGRAM on core 0 of die 0 alone, which has committed 64 bytes of a destination at address 0. -/
def committedShot : Tracked :=
  { reel := 7, mode := 0, tenant := 0, job := 0, eval := false, phase := .running, running := [(0, 0)], dests := [(0, 0, 64)],
    shot := { opcode := 0x001, version := 1, len16 := 2, flags := 0, seq := 5, sref := 0, pred := none, chk := none,
              body := zeros 12 ++ leBytes 4 1 } }

/-- Ebtor runs, core 0 of die 0 runs the program, and block 0 has been written. -/
def programCommitted : State :=
  { glb := { active := 1 }, tracked := [committedShot], cores := [(0, { role := 0, pstate := 2, part := some (⟨7, 5⟩, 0) })],
    hbm := { slates := [(0, { kind := 1 })] } }

theorem programCommitted_noQueued : NoQueuedParts programCommitted := by
  unfold NoQueuedParts
  decide +kernel

/-- The shot once its one part has failed. -/
def failedShot : Tracked := committedShot.partDone 0 stCoreReset

/-- The reset has begun. -/
def resetBegun : State := programCommitted.modBoot (fun b => { b with rstBusy := true, rstWhat := some (4, 0, 0) })

/-- The part of core 0 has ended, and counts in its shot. -/
def partFailed : State :=
  ((resetBegun.modCchk (·.filter (fun x => x.2.1 ≠ 0))).modCoreK 0 (·.partOver 0)).modTracked ⟨7, 5⟩ (·.partDone 0 stCoreReset)

theorem failOn_ends_part : resetBegun.failOn [0] stCoreReset = resetBegun.endPart 0 stCoreReset 0 := by
  have hhit : (resetBegun.cores.filter (fun c => c.2.part.isSome &&
      ([0].contains c.1 || c.2.partner.any (fun p => [0].contains p.key)))).map (·.1) = [0] := by decide +kernel
  unfold State.failOn
  rw [hhit, List.foldl_cons, List.foldl_nil]

/-- The one part of the shot ends, so that the shot lands failed and its destination goes STALE. -/
theorem failOn_marks_destination : resetBegun.failOn [0] stCoreReset = partFailed.markStale 0 := by
  have hblocks : rangeBlocks ((failedShot.dests.filter (fun x => bit failedShot.failmask.toNat (failedShot.partOf x.1))).map (·.2)) = [0] := by
    decide +kernel
  rw [failOn_ends_part, endPart_of_no_partner (s := resetBegun) (r := ⟨7, 5⟩) (p := 0) programCommitted_noQueued rfl rfl,
    unitDone_marks (t := failedShot) rfl (by decide +kernel) (by decide +kernel), hblocks, List.foldl_cons, List.foldl_nil]
  rfl

theorem rstOpCore_marks_destination : ((rstOpCore 0 programCommitted).slate 0).stale = true := by
  have hhbm : (rstOpCore 0 programCommitted).hbm = (partFailed.markStale 0).hbm :=
    (resetCore_hbm resetBegun 0).trans (congrArg State.hbm failOn_marks_destination)
  unfold State.slate
  rw [hhbm]
  exact markStale_stale (by decide +kernel)

/-- Refutes O58: after OP CORE on a core whose part has committed to a destination, HBM is not as before, since the slate of the
destination is STALE. -/
theorem not_bootAndResets : ¬ Obligations.BootAndResets := by
  unfold Obligations.BootAndResets
  intro h
  obtain ⟨-, -, -, -, -, -, -, hwrites, -⟩ := h
  obtain ⟨-, -, hparts⟩ := hwrites programCommitted 0 rfl (by decide) (by decide) (by decide)
  obtain ⟨-, -, -, hcore⟩ := hparts (by decide) rfl programCommitted_noQueued
  obtain ⟨t, hexec, -, -, -, -, -, hhbm⟩ := hcore ⟨0, 0⟩ (by decide) (by decide)
  cases hexec
  have hstale := rstOpCore_marks_destination
  unfold State.slate at hstale
  rw [hhbm] at hstale
  exact absurd hstale (by decide)

end Sys2Proof.Machine
end

section
/-!
Firmware-update OPs (R474, R475, R478): what an OP begins with, how it ends, and what it commits.
-/
namespace Sys2Proof.Machine

/-! ## Banks -/

namespace Boot

variable (b : Boot) (k : Bool) (h : Option ImageHeader)

@[simp] theorem setImage_bank : (b.setImage k h).bank = b.bank := by cases k <;> rfl
@[simp] theorem setImage_fwuBusy : (b.setImage k h).fwuBusy = b.fwuBusy := by cases k <;> rfl
@[simp] theorem setImage_fwuOp : (b.setImage k h).fwuOp = b.fwuOp := by cases k <;> rfl
@[simp] theorem setImage_fwuResult : (b.setImage k h).fwuResult = b.fwuResult := by cases k <;> rfl
@[simp] theorem setImage_fwuActivating : (b.setImage k h).fwuActivating = b.fwuActivating := by cases k <;> rfl
@[simp] theorem setImage_quiescing : (b.setImage k h).quiescing = b.quiescing := by cases k <;> rfl
@[simp] theorem setImage_warmPending : (b.setImage k h).warmPending = b.warmPending := by cases k <;> rfl
@[simp] theorem setImage_stepping : (b.setImage k h).stepping = b.stepping := by cases k <;> rfl

theorem image_setImage_same : (b.setImage k h).image k = h := by cases k <;> rfl

theorem running_setImage_running : (b.setImage b.bank h).running = h := by
  rw [running, setImage_bank, image_setImage_same]

theorem other_setImage_other : (b.setImage (!b.bank) h).other = h := by
  cases hb : b.bank <;> simp [other, setImage, hb]

theorem running_setImage_other : (b.setImage (!b.bank) h).running = b.running := by
  cases hb : b.bank <;> simp [running, image, setImage, hb]

end Boot

/-! ## The end of an OP -/

/-- An OP has ended with an ERR code. -/
def Boot.opEnded (b : Boot) (err : BitVec 4) : Boot := { b with fwuErr := err, fwuBusy := false, fwuOp := 0, fwuResult := 0, fwuImage := none }

/-- From s to t an OP has begun that ends by FWU_OP_COMPLETE, and the running bank is the same. -/
structure OpBegun (s t : State) : Prop where
  busy : t.boot.fwuBusy = true
  quiet : t.boot.quiescing = false
  inactive : t.boot.fwuActivating = false
  bank : t.boot.bank = s.boot.bank

/-- OP c, its flash writing good or not, has ended with an ERR code in a state that has P. -/
def OpEnds (s : State) (c : Instr) (flash : Bool) (err : BitVec 4) (P : Boot → Prop) : Prop :=
  ∃ t u, exec c s = .next t ∧ t.boot.fwuBusy = true ∧ exec (.fwuOpComplete flash) t = .next u ∧ u.boot.fwuErr = err ∧ u.boot.fwuBusy = false ∧ u.boot.bank = s.boot.bank ∧ P u.boot

/-- An OP writes to flash when it ends: nothing has spoken against it, and it is no ACTIVATE. -/
def Boot.opWrites (b : Boot) : Bool := decide (b.fwuResult = 0) && decide (b.fwuOp ≠ 2)

variable {s t : State} {c : Instr} {err : BitVec 4} {P : Boot → Prop}

theorem fwuOpComplete_eq (hbegun : OpBegun s t) {writes : Bool} (h : t.boot.opWrites = writes) (flash : Bool) : fwuOpComplete flash t =
    t.modBoot (fun b => (if writes && flash then b.commitOp else b).opEnded (if writes && !flash then fwuFlash else t.boot.fwuResult)) := by
  subst h
  exact if_neg (by simp [hbegun.busy, hbegun.quiet, hbegun.inactive])

theorem opWrites_of_outcome {b : Boot} (h : b.fwuResult ≠ 0) : b.opWrites = false := by
  rw [Boot.opWrites, decide_eq_false h, Bool.false_and]

theorem opWrites_of_no_outcome {b : Boot} (hresult : b.fwuResult = 0) (hop : b.fwuOp ≠ 2) : b.opWrites = true := by
  rw [Boot.opWrites, decide_eq_true hresult, decide_eq_true hop, Bool.true_and]

theorem commitOp_bank (b : Boot) : b.commitOp.bank = b.bank := by
  unfold Boot.commitOp
  dsimp only
  split
  · exact Boot.setImage_bank ..
  · exact Boot.setImage_bank ..
  · exact Boot.setImage_bank ..
  · exact Boot.setImage_bank ..
  · rfl

/-- An OP that was to fail writes nothing, however good the flash. -/
theorem opEnds_of_outcome (hexec : exec c s = .next t) (hbegun : OpBegun s t) (hresult : t.boot.fwuResult = err) (herr : err ≠ 0)
    (hP : P (t.boot.opEnded err)) (flash : Bool) : OpEnds s c flash err P := by
  have hend : fwuOpComplete flash t = t.modBoot (·.opEnded err) := by
    rw [fwuOpComplete_eq hbegun (opWrites_of_outcome (hresult ▸ herr)), hresult]
    rfl
  exact ⟨t, _, hexec, hbegun.busy, congrArg Host.Outcome.next hend, rfl, rfl, hbegun.bank, hP⟩

theorem opEnds_of_flash_failure (hexec : exec c s = .next t) (hbegun : OpBegun s t) (hresult : t.boot.fwuResult = 0)
    (hop : t.boot.fwuOp ≠ 2) (hP : P (t.boot.opEnded 7)) : OpEnds s c false 7 P := by
  have hend : fwuOpComplete false t = t.modBoot (·.opEnded 7) := fwuOpComplete_eq hbegun (opWrites_of_no_outcome hresult hop) false
  exact ⟨t, _, hexec, hbegun.busy, congrArg Host.Outcome.next hend, rfl, rfl, hbegun.bank, hP⟩

theorem opEnds_of_commit (hexec : exec c s = .next t) (hbegun : OpBegun s t) (hresult : t.boot.fwuResult = 0)
    (hop : t.boot.fwuOp ≠ 2) (hP : P (t.boot.commitOp.opEnded 0)) : OpEnds s c true 0 P := by
  have hend : fwuOpComplete true t = t.modBoot (·.commitOp.opEnded 0) := by
    rw [fwuOpComplete_eq hbegun (opWrites_of_no_outcome hresult hop), hresult]
    rfl
  exact ⟨t, _, hexec, hbegun.busy, congrArg Host.Outcome.next hend, rfl, rfl, (commitOp_bank _).trans hbegun.bank, hP⟩

/-! ## The begin of an OP -/

theorem beginFwu_of_busy (h : s.boot.fwuBusy = true) (op : BitVec 4) (g : State → State) : s.beginFwu op g = s.rsv := if_pos h

/-- The OP is in progress, and nothing is known of its outcome. -/
def State.opBegun (s : State) (op : BitVec 4) : State := s.modBoot (fun b => { b with fwuBusy := true, fwuOp := op, fwuResult := 0 })

/-- The update registers hold no image that is new, and no bank has changed. -/
def Boot.SameImages (b c : Boot) : Prop :=
  c.bankA = b.bankA ∧ c.bankB = b.bankB ∧ c.fwuPending = b.fwuPending ∧ c.minSvn = b.minSvn

/-- An OP may begin (R474, R476). -/
structure OpMayBegin (s : State) : Prop where
  free : s.boot.fwuBusy = false
  ebtor : s.ebtor = true
  quiet : s.boot.quiescing = false
  inactive : s.boot.fwuActivating = false

section Begin

variable (h : OpMayBegin s)
include h

theorem OpMayBegin.beginFwu_eq (op : BitVec 4) (g : State → State) : s.beginFwu op g = g (s.opBegun op) := by
  unfold State.beginFwu
  rw [if_neg (by simp [h.free]), if_neg (by simp [h.ebtor])]
  rfl

theorem OpMayBegin.opBegun (op : BitVec 4) : OpBegun s (s.opBegun op) := ⟨rfl, h.quiet, h.inactive, rfl⟩

theorem OpMayBegin.outcome (op e : BitVec 4) : OpBegun s ((s.opBegun op).fwuOutcome e) := ⟨rfl, h.quiet, h.inactive, rfl⟩

/-- An OP that ends with the ERR code it was given at its begin leaves the images alone. -/
theorem opEnds_refused {op : BitVec 4} (hexec : exec c s = .next ((s.opBegun op).fwuOutcome err)) (herr : err ≠ 0) (flash : Bool) :
    OpEnds s c flash err s.boot.SameImages :=
  opEnds_of_outcome hexec (h.outcome op err) rfl herr ⟨rfl, rfl, rfl, rfl⟩ flash

/-- An OP that would commit what has P, and leaves the images alone when the flash fails. -/
theorem opEnds_commits {op : BitVec 4} (hexec : exec c s = .next (s.opBegun op)) (hop : op ≠ 2)
    (hP : P ((s.opBegun op).boot.commitOp.opEnded 0)) : OpEnds s c true 0 P ∧ OpEnds s c false 7 s.boot.SameImages :=
  ⟨opEnds_of_commit hexec (h.opBegun op) rfl hop hP, opEnds_of_flash_failure hexec (h.opBegun op) rfl hop ⟨rfl, rfl, rfl, rfl⟩⟩

/-! ## STAGE -/

/-- The header that STAGE writes: NEW, behind the running image (R475). -/
def State.stagedHeader (s : State) (i : ImageInfo) : ImageHeader :=
  { seq := ((s.boot.running.map (·.seq)).getD 0) + 1, version := i.version, svn := i.svn, state := 0, raise := i.raise, digests := i.digests,
    board := i.board }

/-- STAGE of a sound image has begun: the other bank is erased, and the header waits to be written. -/
def State.staging (s : State) (i : ImageInfo) : State :=
  (s.opBegun 1).modBoot (fun b => { b.setImage (!b.bank) none with fwuPending := false, fwuImage := some (s.stagedHeader i) })

variable {i : ImageInfo}

theorem fwuStage_unsound (hgood : (i.headerOk && i.sigOk && i.digestsOk) = false) : fwuStage i s = (s.opBegun 1).fwuOutcome 1 := by
  unfold fwuStage
  rw [h.beginFwu_eq, hgood]
  rfl

theorem fwuStage_old (hgood : (i.headerOk && i.sigOk && i.digestsOk) = true) (hsvn : i.svn.toNat < s.boot.minSvn.toNat) :
    fwuStage i s = (s.opBegun 1).fwuOutcome 2 := by
  unfold fwuStage
  rw [h.beginFwu_eq, hgood]
  exact if_pos hsvn

theorem fwuStage_stages (hgood : (i.headerOk && i.sigOk && i.digestsOk) = true) (hsvn : s.boot.minSvn.toNat ≤ i.svn.toNat) :
    fwuStage i s = s.staging i := by
  unfold fwuStage
  rw [h.beginFwu_eq, hgood]
  exact if_neg (Nat.not_lt.2 hsvn)

theorem staging_begun : OpBegun s (s.staging i) := by
  constructor
  · exact Boot.setImage_fwuBusy ..
  · exact (Boot.setImage_quiescing ..).trans h.quiet
  · exact (Boot.setImage_fwuActivating ..).trans h.inactive
  · exact Boot.setImage_bank ..

end Begin

variable (i : ImageInfo)

/-- What STAGE commits (R475). -/
def Boot.Staged (b : Boot) (h : ImageHeader) (c : Boot) : Prop := c.fwuPending = true ∧ c.running = b.running ∧ c.other = some h

/-- What is left of STAGE when the flash fails. -/
def Boot.NotStaged (b c : Boot) : Prop := c.running = b.running ∧ c.fwuPending = false ∧ c.other = none

theorem staging_running : (s.staging i).boot.running = s.boot.running := Boot.running_setImage_other (s.opBegun 1).boot none
theorem staging_op : (s.staging i).boot.fwuOp = 1 := Boot.setImage_fwuOp ..
theorem staging_other : (s.staging i).boot.other = none := Boot.other_setImage_other (s.opBegun 1).boot none

theorem staging_commits : s.boot.Staged (s.stagedHeader i) (s.staging i).boot.commitOp := by
  have hcommit : (s.staging i).boot.commitOp = { (s.staging i).boot.setImage (!(s.staging i).boot.bank) (s.staging i).boot.fwuImage with
      fwuPending := true, fwuImage := none } := by
    unfold Boot.commitOp
    rw [staging_op]
    rfl
  rw [hcommit]
  exact ⟨rfl, (Boot.running_setImage_other ..).trans (staging_running i), Boot.other_setImage_other ..⟩

/-! ## What the other OPs commit -/

/-- What CONFIRM commits of image h (R478). -/
def Boot.Confirmed (b : Boot) (h : ImageHeader) (c : Boot) : Prop :=
  c.running = some { h with state := 2 } ∧ c.trial = false ∧
  c.minSvn = if h.raise = true ∧ b.minSvn.toNat < h.svn.toNat then h.svn else b.minSvn

/-- What CANCEL commits of image h (R475). -/
def Boot.Cancelled (b : Boot) (h : ImageHeader) (c : Boot) : Prop :=
  c.fwuPending = false ∧ c.running = b.running ∧ c.other = some { h with state := 3 }

theorem confirm_commits {h : ImageHeader} (hrun : s.boot.running = some h) : s.boot.Confirmed h (s.opBegun 3).boot.commitOp := by
  have hrunning : (s.opBegun 3).boot.running = some h := hrun
  have hcommit : (s.opBegun 3).boot.commitOp = { (s.opBegun 3).boot.setImage (s.opBegun 3).boot.bank (some { h with state := 2 }) with
      trial := false,
      minSvn := if h.raise && decide (s.boot.minSvn.toNat < h.svn.toNat) then h.svn else s.boot.minSvn } := by
    unfold Boot.commitOp
    rw [show (s.opBegun 3).boot.fwuOp = 3 from rfl, hrunning]
    rfl
  rw [hcommit]
  exact ⟨Boot.running_setImage_running .., rfl, by simp⟩

/-- A header that goes behind the running image (R475). -/
def State.renumbered (s : State) (h : ImageHeader) : ImageHeader := { h with seq := ((s.boot.running.map (·.seq)).getD 0) + 1 }

theorem revert_commits {h : ImageHeader} (hother : s.boot.other = some h) : s.boot.Staged (s.renumbered h) (s.opBegun 4).boot.commitOp := by
  have hbank : (s.opBegun 4).boot.other = some h := hother
  have hcommit : (s.opBegun 4).boot.commitOp = { (s.opBegun 4).boot.setImage (!(s.opBegun 4).boot.bank)
      (some (s.renumbered h)) with fwuPending := true } := by
    unfold Boot.commitOp
    rw [show (s.opBegun 4).boot.fwuOp = 4 from rfl, hbank]
    rfl
  rw [hcommit]
  exact ⟨rfl, Boot.running_setImage_other .., Boot.other_setImage_other ..⟩

theorem cancel_commits {h : ImageHeader} (hother : s.boot.other = some h) : s.boot.Cancelled h (s.opBegun 5).boot.commitOp := by
  have hbank : (s.opBegun 5).boot.other = some h := hother
  have hcommit : (s.opBegun 5).boot.commitOp = { (s.opBegun 5).boot.setImage (!(s.opBegun 5).boot.bank) (some { h with state := 3 }) with
      fwuPending := false } := by
    unfold Boot.commitOp
    rw [show (s.opBegun 5).boot.fwuOp = 5 from rfl, hbank]
    rfl
  rw [hcommit]
  exact ⟨rfl, Boot.running_setImage_other .., Boot.other_setImage_other ..⟩

section Begin

variable (h : OpMayBegin s)
include h

/-! ## CONFIRM, REVERT, CANCEL and ACTIVATE -/

theorem fwuConfirm_confirms {g : ImageHeader} (hrun : s.boot.running = some g) (hstate : g.state = 1) : fwuConfirm s = s.opBegun 3 := by
  have hrunning : (s.opBegun 3).boot.running = some g := hrun
  unfold fwuConfirm
  rw [h.beginFwu_eq, hrunning]
  exact if_pos (by simp [hstate])

theorem fwuConfirm_refuses (hrun : ∀ g, s.boot.running = some g → g.state ≠ 1) : fwuConfirm s = (s.opBegun 3).fwuOutcome 8 := by
  have hrunning : (s.opBegun 3).boot.running.any (fun g => g.state == 1) = false :=
    (Option.any_eq_false ..).2 fun g hg => by simpa using hrun g hg
  unfold fwuConfirm
  rw [h.beginFwu_eq, hrunning]
  rfl

theorem fwuRevert_reverts {g : ImageHeader} (hother : s.boot.other = some g) (hvalid : g.valid = true) (hstate : g.state = 2) :
    fwuRevert s = s.opBegun 4 := by
  have hbank : (s.opBegun 4).boot.other = some g := hother
  unfold fwuRevert
  rw [h.beginFwu_eq, hbank]
  exact if_pos (by simp [hvalid, hstate])

theorem fwuRevert_refuses (hother : ∀ g, s.boot.other = some g → ¬ (g.valid = true ∧ g.state = 2)) :
    fwuRevert s = (s.opBegun 4).fwuOutcome 8 := by
  have hbank : (s.opBegun 4).boot.other.any (fun g => g.valid && g.state == 2) = false :=
    (Option.any_eq_false ..).2 fun g hg => by simpa using hother g hg
  unfold fwuRevert
  rw [h.beginFwu_eq, hbank]
  rfl

theorem fwuCancel_cancels (hpending : s.boot.fwuPending = true) : fwuCancel s = s.opBegun 5 := by
  unfold fwuCancel
  rw [h.beginFwu_eq]
  exact if_pos hpending

theorem fwuCancel_refuses (hpending : s.boot.fwuPending = false) : fwuCancel s = (s.opBegun 5).fwuOutcome 3 := by
  unfold fwuCancel
  rw [h.beginFwu_eq]
  exact if_neg (Bool.eq_false_iff.1 hpending)

/-- STAGE of a sound image that is not too old, the flash good or not (R475). -/
theorem opEnds_stage {i : ImageInfo} (hgood : (i.headerOk && i.sigOk && i.digestsOk) = true) (hsvn : s.boot.minSvn.toNat ≤ i.svn.toNat) :
    OpEnds s (.fwuStage i) true 0 (s.boot.Staged (s.stagedHeader i)) ∧ OpEnds s (.fwuStage i) false 7 s.boot.NotStaged := by
  have hexec : exec (.fwuStage i) s = .next (s.staging i) := congrArg Host.Outcome.next (fwuStage_stages h hgood hsvn)
  have hresult : (s.staging i).boot.fwuResult = 0 := Boot.setImage_fwuResult ..
  have hop : (s.staging i).boot.fwuOp ≠ 2 := by rw [staging_op]; decide
  exact ⟨opEnds_of_commit hexec (staging_begun h) hresult hop (staging_commits i),
    opEnds_of_flash_failure hexec (staging_begun h) hresult hop ⟨staging_running i, rfl, staging_other i⟩⟩

theorem opEnds_confirm {g : ImageHeader} (hrun : s.boot.running = some g) (hstate : g.state = 1) :
    OpEnds s .fwuConfirm true 0 (s.boot.Confirmed g) ∧ OpEnds s .fwuConfirm false 7 s.boot.SameImages :=
  opEnds_commits h (c := .fwuConfirm) (congrArg Host.Outcome.next (fwuConfirm_confirms h hrun hstate)) (by decide) (confirm_commits hrun)

theorem opEnds_revert {g : ImageHeader} (hother : s.boot.other = some g) (hvalid : g.valid = true) (hstate : g.state = 2) :
    OpEnds s .fwuRevert true 0 (s.boot.Staged (s.renumbered g)) ∧ OpEnds s .fwuRevert false 7 s.boot.SameImages :=
  opEnds_commits h (c := .fwuRevert) (congrArg Host.Outcome.next (fwuRevert_reverts h hother hvalid hstate)) (by decide)
    (revert_commits hother)

theorem opEnds_cancel {g : ImageHeader} (hpending : s.boot.fwuPending = true) (hother : s.boot.other = some g) :
    OpEnds s .fwuCancel true 0 (s.boot.Cancelled g) ∧ OpEnds s .fwuCancel false 7 s.boot.SameImages :=
  opEnds_commits h (c := .fwuCancel) (congrArg Host.Outcome.next (fwuCancel_cancels h hpending)) (by decide) (cancel_commits hother)

/-- The loaders of the two banks, which ACTIVATE compares (R476). -/
def loaderOf (h : Option ImageHeader) : Option (BitVec 384) := h.map (fun h => h.digests.getD 0 0)

theorem fwuActivate_eq : fwuActivate s =
    if !s.boot.fwuPending then (s.opBegun 2).fwuOutcome 3
    else if loaderOf s.boot.other != loaderOf s.boot.running then (s.opBegun 2).fwuOutcome 4
    else ((s.opBegun 2).modBoot (fun b => { b with quiescing := true, switched := false })).openWindow := h.beginFwu_eq 2 _

theorem fwuActivate_of_no_pending (hpending : s.boot.fwuPending = false) : fwuActivate s = (s.opBegun 2).fwuOutcome 3 := by
  rw [fwuActivate_eq h, hpending]
  rfl

theorem fwuActivate_of_other_loader (hpending : s.boot.fwuPending = true) (hloader : loaderOf s.boot.other ≠ loaderOf s.boot.running) :
    fwuActivate s = (s.opBegun 2).fwuOutcome 4 := by
  rw [fwuActivate_eq h, hpending]
  exact if_pos (bne_iff_ne.2 hloader)

/-- Dispatch stops, and the window opens when no shot is tracked (R476). -/
theorem fwuActivate_quiesces (hpending : s.boot.fwuPending = true) (hloader : loaderOf s.boot.other = loaderOf s.boot.running) :
    (fwuActivate s).boot.fwuBusy = true ∧ (fwuActivate s).boot.quiescing = true ∧
    ((fwuActivate s).boot.fwuActivating = true ↔ s.tracked = []) := by
  have heq : fwuActivate s = ((s.opBegun 2).modBoot (fun b => { b with quiescing := true, switched := false })).openWindow := by
    rw [fwuActivate_eq h, hpending, hloader, bne_self_eq_false]
    rfl
  rw [heq]
  unfold State.openWindow
  split
  · next hopen => exact ⟨rfl, rfl, fun _ => List.isEmpty_iff.1 hopen, fun _ => rfl⟩
  · next hopen => exact ⟨rfl, rfl, fun hactive => absurd (h.inactive.symm.trans hactive) (by simp),
      fun hnone => absurd (List.isEmpty_iff.2 hnone) hopen⟩

end Begin
end Sys2Proof.Machine
end

section
/-!
The activation window (R442, R476, R477) and the takeover (R38, R39): the switch, its failure, and what the close of the window ends.
-/
namespace Sys2Proof.Machine

variable {s t u : State}

/-! ## Weight keys -/

theorem find?_filter_key_ne {α : Type} (l : List (Nat × α)) {j k : Nat} (h : k ≠ j) :
    (l.filter (fun e => e.1 ≠ j)).find? (fun e => e.1 == k) = l.find? (fun e => e.1 == k) := by
  rw [List.find?_filter]
  congr 1
  funext e
  by_cases he : e.1 = k <;> simp [he, h]

theorem find?_filter_key_same {α : Type} (l : List (Nat × α)) (k : Nat) :
    (l.filter (fun e => e.1 ≠ k)).find? (fun e => e.1 == k) = none := by
  rw [List.find?_filter]
  exact List.find?_eq_none.2 (by simp)

theorem wkey_revoke (s : State) (cause slot w : Nat) : (s.revoke cause slot).wkey w = if w = slot then none else s.wkey w := by
  unfold State.revoke
  split
  · split
    · next hw =>
      subst hw
      exact congrArg _ (find?_filter_key_same ..)
    · next hw => exact congrArg _ (find?_filter_key_ne _ hw)
  · next hnone =>
    split
    · next hw =>
      subst hw
      simpa using hnone
    · rfl

theorem wkey_foldl_revoke (cause w : Nat) (slots : List Nat) (s : State) :
    (slots.foldl (State.revoke · cause) s).wkey w = if w ∈ slots then none else s.wkey w := by
  induction slots generalizing s with
  | nil => rfl
  | cons slot slots ih =>
    rw [List.foldl_cons, ih, wkey_revoke]
    by_cases hw : w = slot <;> simp [hw]

theorem wkey_install_ne (s : State) (k : WKey) {slot w : Nat} (hw : w ≠ slot) : (s.install slot k).wkey w = s.wkey w := by
  show ((s.sec.wkeys.filter (fun e => e.1 ≠ slot) ++ [(slot, k)]).find? (fun e => e.1 == w)).map (·.2) = _
  rw [List.find?_append, find?_filter_key_ne _ hw, List.find?_singleton, if_neg (by simpa using Ne.symm hw), Option.or_none]
  rfl

/-- The slots that hold a sealed key (R433). -/
def State.sealedSlots (s : State) : List Nat := (s.sec.wkeys.filter (fun k => !k.2.bound)).map (·.1)

theorem mem_sealedSlots {w : Nat} (h : (s.wkey w).any (fun k => !k.bound) = true) : w ∈ s.sealedSlots := by
  obtain ⟨k, hk, hsealed⟩ := (Option.any_eq_true ..).1 h
  obtain ⟨e, hfind, rfl⟩ := Option.map_eq_some_iff.1 hk
  have hslot : e.1 = w := by simpa using List.find?_some hfind
  exact List.mem_map.2 ⟨e, List.mem_filter.2 ⟨List.mem_of_find?_eq_some hfind, hsealed⟩, hslot⟩

/-! ## What the close of a window changes -/

/-- From s to t neither boot, sessions nor tenants change, and no slot gains a key. -/
structure KeysEnd (s t : State) : Prop where
  boot : t.boot = s.boot
  sessions : t.sec.sessions = s.sec.sessions
  tenants : t.sec.tenants = s.sec.tenants
  noKey : ∀ w, s.wkey w = none → t.wkey w = none

namespace KeysEnd

theorem refl (s : State) : KeysEnd s s := ⟨rfl, rfl, rfl, fun _ => id⟩

theorem trans (h : KeysEnd s t) (k : KeysEnd t u) : KeysEnd s u :=
  ⟨k.boot.trans h.boot, k.sessions.trans h.sessions, k.tenants.trans h.tenants, fun w => k.noKey w ∘ h.noKey w⟩

theorem of_sec (hboot : t.boot = s.boot) (hsec : t.sec = s.sec) : KeysEnd s t := by
  refine ⟨hboot, by rw [hsec], by rw [hsec], fun w h => ?_⟩
  unfold State.wkey
  rw [hsec]
  exact h

theorem tenant (h : KeysEnd s t) (i : Nat) : t.tenant i = s.tenant i := congrArg (fun x => tget (fun _ => ({} : Tenant)) x i) h.tenants

theorem revoke (s : State) (cause slot : Nat) : KeysEnd s (s.revoke cause slot) := by
  have hframe : ∃ ks m, s.revoke cause slot = { s with sec := { s.sec with wkeys := ks }, mbox := m } := by
    unfold State.revoke
    split
    · exact ⟨_, _, rfl⟩
    · exact ⟨s.sec.wkeys, s.mbox, rfl⟩
  obtain ⟨ks, m, hrevoke⟩ := hframe
  exact ⟨by rw [hrevoke], by rw [hrevoke], by rw [hrevoke], fun w hw => by rw [wkey_revoke, hw, ite_self]⟩

theorem reloadBundle (s : State) (slot : Nat) : KeysEnd s (s.reloadBundle slot) := by
  unfold State.reloadBundle
  split
  · exact .refl s
  · next k hk =>
    split
    · exact .refl s
    · split
      · refine ⟨rfl, rfl, rfl, fun w hw => ?_⟩
        rw [wkey_install_ne _ _ (by rintro rfl; simp [hk] at hw), hw]
      · exact .refl s
      · exact .revoke ..

theorem freeRegion (s : State) (e : Nat) : KeysEnd s (s.freeRegion e) := by
  unfold State.freeRegion
  have hslates := foldl_keeps (R := KeysEnd) .refl .trans (g := fun s (x : Nat × Region) => s.unwrite (x.2.base / 4096) (x.2.len / 4096))
    (fun s _ => .of_sec rfl rfl) (s.sec.regions.filter (fun x => x.1 == e)) s
  exact hslates.trans ⟨rfl, rfl, rfl, fun _ => id⟩

theorem releasePending (s : State) : KeysEnd s s.releasePending := by
  unfold State.releasePending
  refine foldl_keeps .refl .trans (fun s e => ?_) _ s
  split
  · exact .refl s
  · exact .freeRegion s e

end KeysEnd

/-- What a tenant leaves before its slot closes (R429): its reels are flushed, its slots revoked, its regions wait for their release. -/
def State.tenantEnded (s : State) (t : BitVec 6) : State :=
  let reels := (s.reels.filter (fun r => r.2.tenant == t && r.2.en)).map (·.1)
  let s := reels.foldl (fun s n => ((s.modReel n (fun r => { r with en := false })).flushReel n).endWaits n) s
  let mine := s.sec.regions.filter (fun r => r.2.owner == t)
  let s := ((mine.filter (fun r => r.2.kind ≠ 0)).map (·.2.slot)).foldl (State.revoke · 4) s
  s.modSec (fun x => { x with releasing := (x.releasing ++ mine.map (·.1)).eraseDups })

theorem closeTenant_eq (s : State) (t : BitVec 6) : s.closeTenant t = ((s.tenantEnded t).modTenant t.toNat (fun _ => {})).releasePending := rfl

theorem tenantEnded_keysEnd (s : State) (t : BitVec 6) : KeysEnd s (s.tenantEnded t) := by
  unfold State.tenantEnded
  dsimp only
  have hreels := foldl_keeps (R := KeysEnd) .refl .trans
    (g := fun s n => ((s.modReel n (fun r => { r with en := false })).flushReel n).endWaits n) (fun s _ => .of_sec rfl rfl)
  have hkeys := foldl_keeps (R := KeysEnd) .refl .trans (g := (State.revoke · 4)) (fun s slot => .revoke s 4 slot)
  exact ((hreels _ s).trans (hkeys _ _)).trans ⟨rfl, rfl, rfl, fun _ => id⟩

/-- From s to t neither boot nor sessions change, no slot gains a key, and of the tenants those in ts have ended. -/
structure TenantsEnd (ts : List Nat) (s t : State) : Prop where
  boot : t.boot = s.boot
  sessions : t.sec.sessions = s.sec.sessions
  noKey : ∀ w, s.wkey w = none → t.wkey w = none
  tenant : ∀ i, t.tenant i = if i ∈ ts then {} else s.tenant i

theorem closeTenant_ends (s : State) (t : BitVec 6) : TenantsEnd [t.toNat] s (s.closeTenant t) := by
  have hended := tenantEnded_keysEnd s t
  have hpending := KeysEnd.releasePending ((s.tenantEnded t).modTenant t.toNat (fun _ => {}))
  rw [closeTenant_eq]
  refine ⟨hpending.boot.trans hended.boot, hpending.sessions.trans hended.sessions,
    fun w => hpending.noKey w ∘ hended.noKey w, fun i => ?_⟩
  rw [hpending.tenant]
  by_cases hi : i = t.toNat
  · subst hi
    simp
  · rw [State.modTenant_other _ _ _ hi, hended.tenant, if_neg (by simpa using hi)]

theorem foldl_closeTenant_ends (ts : List Nat) (hts : ∀ i ∈ ts, i < 64) (s : State) :
    TenantsEnd ts s (ts.foldl (fun s t => s.closeTenant (BitVec.ofNat 6 t)) s) := by
  induction ts generalizing s with
  | nil => exact ⟨rfl, rfl, fun _ => id, fun i => by simp⟩
  | cons n ts ih =>
    have hclose := closeTenant_ends s (BitVec.ofNat 6 n)
    have hrest := ih (fun i hi => hts i (List.mem_cons_of_mem n hi)) (s.closeTenant (BitVec.ofNat 6 n))
    have hn : (BitVec.ofNat 6 n).toNat = n := Nat.mod_eq_of_lt (hts n List.mem_cons_self)
    refine ⟨hrest.boot.trans hclose.boot, hrest.sessions.trans hclose.sessions, fun w => hrest.noKey w ∘ hclose.noKey w, fun i => ?_⟩
    rw [List.foldl_cons, hrest.tenant, hclose.tenant, hn]
    simp only [List.mem_cons, List.not_mem_nil, or_false]
    by_cases hi : i = n <;> simp only [hi, true_or, false_or, if_true, if_false, ite_self]

/-! ## The window -/

theorem closeWindow_of_no_reset (h : s.boot.warmPending = false) : s.closeWindow =
    s.modBoot (fun b => { b with fwuActivating := false, quiescing := false, switched := false }) := by
  unfold State.closeWindow
  exact if_neg (by simp [h])

theorem quiesce_times_out (hactive : s.boot.fwuActivating = false) (hquiet : s.boot.quiescing = true) :
    quiesce s = s.modBoot (fun b => { b with quiescing := false, fwuResult := 5 }) := by
  unfold quiesce
  rw [if_pos (by simp [hactive, hquiet])]
  rfl

/-- The image that runs on trial once the window has switched to it. -/
def ImageHeader.onTrial (h : ImageHeader) : ImageHeader := { h with state := 1, attempts := 1 }

theorem runStaged_eq {h : ImageHeader} (hpending : s.boot.fwuPending = true) (hother : s.boot.other = some h) :
    s.runStaged = ((s.modBoot (fun b => { b.setImage (!b.bank) (some h.onTrial) with
      bank := !b.bank, fwuPending := false, trial := true })).measure h.onTrial).writeContKey h.onTrial := by
  unfold State.runStaged
  rw [hother]
  exact if_neg (by simp [hpending])

/-- The control dies have changed places: the former standby is active. -/
def State.cdsSwitched (s : State) : State :=
  ((s.modCd (1 - s.activeCd) (fun c => { c with ok := true })).modCd s.activeCd (fun c => { c with ok := false })).modGlb
    (fun g => { g with active := if s.activeCd = 0 then 2 else 1 })

theorem activationSwitch_eq (hactive : s.boot.fwuActivating = true) (hswitched : s.boot.switched = false) (he : s.ebtor = true) :
    activationSwitch s = s.cdsSwitched.runStaged.modBoot (fun b => { b with switched := true }) :=
  if_pos (by simp [hactive, hswitched, he])

theorem activationSwitch_runs_staged {h : ImageHeader} (hactive : s.boot.fwuActivating = true) (hswitched : s.boot.switched = false)
    (he : s.ebtor = true) (hpending : s.boot.fwuPending = true) (hother : s.boot.other = some h) : let t := activationSwitch s
    t.glb.active = (if s.glb.active = 2 then 1 else 2) ∧ t.glb.takeovers = s.glb.takeovers ∧ t.boot.running = some h.onTrial ∧
    t.boot.fwuPending = false ∧ t.boot.switched = true ∧
    t.glb.contKey = contKeyOf s.boot.stepping h.version (h.digests.getD 2 0) (h.digests.getD 3 0) := by
  have heq := activationSwitch_eq hactive hswitched he
  rw [runStaged_eq (s := s.cdsSwitched) hpending hother] at heq
  intro t
  rw [show t = _ from heq]
  refine ⟨?_, rfl, Boot.image_setImage_same .., rfl, rfl, ?_⟩
  · show (if (if s.glb.active = 2 then 1 else 0) = 0 then (2 : BitVec 2) else 1) = _
    split <;> rfl
  · show contKeyOf (s.boot.setImage (!s.boot.bank) (some h.onTrial)).stepping _ _ _ = _
    rw [Boot.setImage_stepping]
    rfl

/-- R477: the window closes on the image that ran before it, and the staged one is INVALID. -/
theorem actFail_closes (hactive : s.boot.fwuActivating = true) (hswitched : s.boot.switched = false) (hwarm : s.boot.warmPending = false) :
    actFail s = s.modBoot (fun b => { b.setImage (!b.bank) (b.other.map (fun h => { h with state := 3 })) with
      fwuPending := false, fwuResult := fwuActFail, fwuActivating := false, quiescing := false, switched := false }) := by
  unfold actFail
  rw [if_pos (by simp [hactive, hswitched]), closeWindow_of_no_reset ((Boot.setImage_warmPending ..).trans hwarm)]
  rfl

/-- Tenants that end with the window (R442). -/
def State.tenantsNotKept (s : State) : List Nat :=
  (List.range 64).filter (fun t => decide (0 < t) && (s.tenant t).opened && !(s.tenant t).keep)

/-- The close of the window before the tenants end: sealed slots are revoked, sessions have ended, bundles are loaded again. -/
def State.keysReloaded (s : State) : State :=
  ((s.sealedSlots.foldl (State.revoke · 3) s).modSec (fun x => { x with sessions := [] })).reloadBundles

/-- The tenants that do not outlive the window have ended. -/
def State.tenantsClosed (s : State) : State := s.tenantsNotKept.foldl (fun s t => s.closeTenant (BitVec.ofNat 6 t)) s

/-- ACTIVATED is posted, and both control dies are back. -/
def State.cdsBack (s : State) : State :=
  ((s.post 31 (eventWord 3 (s.glb.contKey.toNat % 2 ^ 32))).modCd 0 (fun c => { c with ok := true })).modCd 1 (fun c => { c with ok := true })

/-- The close of the window but for the window's own registers. -/
def State.windowEnded (s : State) : State := s.keysReloaded.tenantsClosed.cdsBack

theorem activationWindowClose_eq (hactive : s.boot.fwuActivating = true) (hswitched : s.boot.switched = true) :
    activationWindowClose s = s.windowEnded.closeWindow := if_pos (by simp [hactive, hswitched])

/-- What has ended once the keys are loaded again. -/
structure KeysReloaded (s t : State) : Prop where
  boot : t.boot = s.boot
  sessions : t.sec.sessions = []
  tenants : t.sec.tenants = s.sec.tenants
  noKey : ∀ w, (s.wkey w).any (fun k => !k.bound) = true → t.wkey w = none

theorem keysReloaded_reloads (s : State) : KeysReloaded s s.keysReloaded := by
  have hrevoke : KeysEnd s (s.sealedSlots.foldl (State.revoke · 3) s) :=
    foldl_keeps (R := KeysEnd) .refl .trans (fun s slot => .revoke s 3 slot) _ s
  have hreload (u : State) : KeysEnd u u.reloadBundles := foldl_keeps (R := KeysEnd) .refl .trans .reloadBundle _ u
  have hlast := hreload ((s.sealedSlots.foldl (State.revoke · 3) s).modSec (fun x => { x with sessions := [] }))
  refine ⟨hlast.boot.trans hrevoke.boot, hlast.sessions, hlast.tenants.trans hrevoke.tenants, fun w hw => hlast.noKey w ?_⟩
  exact (wkey_foldl_revoke 3 w s.sealedSlots s).trans (if_pos (mem_sealedSlots hw))

theorem tenantsClosed_ends (s : State) : TenantsEnd s.tenantsNotKept s s.tenantsClosed :=
  foldl_closeTenant_ends _ (fun _ hi => List.mem_range.1 (List.mem_filter.1 hi).1) s

/-- A tenant is open after the window when it was and is kept (R442). -/
theorem tenantsClosed_opened {i : Nat} (hpos : 0 < i) (hlt : i < 64) :
    (s.tenantsClosed.tenant i).opened = ((s.tenant i).opened && (s.tenant i).keep) := by
  have hmem : i ∈ s.tenantsNotKept ↔ (s.tenant i).opened = true ∧ (s.tenant i).keep = false := by
    simp [State.tenantsNotKept, hpos, hlt]
  rw [(tenantsClosed_ends s).tenant]
  cases ho : (s.tenant i).opened <;> cases hk : (s.tenant i).keep <;> simp [hmem, ho, hk]

theorem cdsBack_ok (s : State) : (s.cdsBack.cd 0).ok = true ∧ (s.cdsBack.cd 1).ok = true := by
  unfold State.cdsBack
  constructor
  · rw [State.modCd_other _ _ _ (by decide), State.modCd_same]
  · rw [State.modCd_same]

theorem cdsBack_keysEnd (s : State) : KeysEnd s s.cdsBack := .of_sec rfl rfl

/-- What the close of the window ends (R442), but for the window's own registers. -/
structure WindowEnded (s t : State) : Prop where
  boot : t.boot = s.boot
  sessions : t.sec.sessions = []
  noKey : ∀ w, (s.wkey w).any (fun k => !k.bound) = true → t.wkey w = none
  opened : ∀ i, 0 < i → i < 64 → (t.tenant i).opened = ((s.tenant i).opened && (s.tenant i).keep)
  cds : (t.cd 0).ok = true ∧ (t.cd 1).ok = true

theorem windowEnded_ends (s : State) : WindowEnded s s.windowEnded := by
  have hkeys := keysReloaded_reloads s
  have htenants := tenantsClosed_ends s.keysReloaded
  have hback := cdsBack_keysEnd s.keysReloaded.tenantsClosed
  refine ⟨hback.boot.trans (htenants.boot.trans hkeys.boot), hback.sessions.trans (htenants.sessions.trans hkeys.sessions),
    fun w hw => hback.noKey w (htenants.noKey w (hkeys.noKey w hw)), fun i hpos hlt => ?_,
    cdsBack_ok _⟩
  have hsame : s.keysReloaded.tenant i = s.tenant i := congrArg (fun x => tget (fun _ => ({} : Tenant)) x i) hkeys.tenants
  exact (congrArg Tenant.opened (hback.tenant i)).trans (hsame ▸ tenantsClosed_opened hpos hlt)

theorem WindowEnded.closes (h : WindowEnded s u) (hwarm : s.boot.warmPending = false) : let t := u.closeWindow
    t.boot.fwuActivating = false ∧ t.boot.quiescing = false ∧ t.sec.sessions = [] ∧
    (∀ w, (s.wkey w).any (fun k => !k.bound) = true → t.wkey w = none) ∧
    (∀ i, 0 < i → i < 64 → (t.tenant i).opened = ((s.tenant i).opened && (s.tenant i).keep)) ∧
    (t.cd 0).ok = true ∧ (t.cd 1).ok = true := by
  rw [closeWindow_of_no_reset (by rw [h.boot, hwarm])]
  exact ⟨rfl, rfl, h.sessions, h.noKey, h.opened, h.cds⟩

/-! ## The takeover -/

theorem failWaiting_eq (s : State) (n : Nat) : ∃ o, s.failWaiting n = { s with out := o }.modCd n (fun c => { c with waiting := [] }) :=
  ⟨_, congrArg (State.modCd · n (fun c => { c with waiting := [] })) (foldl_emit (fun w : Nat × Nat => .entropy w.1 stEntropyNotReady) _ s)⟩

/-- The control die that fell silent, with its waiting requests ended. -/
def State.cdOut (s : State) (n : Nat) : State := (s.failWaiting n).modCd n (fun c => { c with ok := false })

/-- From s to t control die n is out, and beside it nothing but messages changes. -/
structure CdOut (n : Nat) (s t : State) : Prop where
  frame : ∃ cds o, t = { s with cds := cds, out := o }
  ok : (t.cd n).ok = false
  waiting : (t.cd n).waiting = []
  other : ∀ m, m ≠ n → t.cd m = s.cd m

theorem cdOut_out (s : State) (n : Nat) : CdOut n s (s.cdOut n) := by
  obtain ⟨o, ho⟩ := failWaiting_eq s n
  unfold State.cdOut
  rw [ho]
  refine ⟨⟨_, _, rfl⟩, by rw [State.modCd_same], by rw [State.modCd_same, State.modCd_same], fun m hm => ?_⟩
  rw [State.modCd_other _ _ _ hm, State.modCd_other _ _ _ hm]
  rfl

theorem takeover_to_standby (he : s.ebtor = true) (hok : (s.cd (1 - s.activeCd)).ok = true) (hne : 1 - s.activeCd ≠ s.activeCd) : takeover s =
    ((s.cdOut s.activeCd).modGlb (fun g => { g with active := if 1 - s.activeCd = 0 then 1 else 2, takeovers := satInc g.takeovers })).modBoot
      (fun x => { x with switched := false }) := by
  have hstandby : ((s.cdOut s.activeCd).cd (1 - s.activeCd)).ok = true := by rw [(cdOut_out ..).other _ hne, hok]
  unfold takeover
  rw [if_neg (by simp [he])]
  exact if_pos hstandby

theorem takeover_of_no_standby (he : s.ebtor = true) (hok : (s.cd (1 - s.activeCd)).ok = false) (hne : 1 - s.activeCd ≠ s.activeCd) :
    takeover s = ((s.cdOut s.activeCd).modGlb (fun g => { g with active := 0 })).modPwr (fun p => { p with valveHigh := true }) := by
  have hstandby : ¬ ((s.cdOut s.activeCd).cd (1 - s.activeCd)).ok = true := by rw [(cdOut_out ..).other _ hne, hok]; decide
  unfold takeover
  rw [if_neg (by simp [he])]
  exact if_neg hstandby

theorem standby_ne_active (s : State) : 1 - s.activeCd ≠ s.activeCd := by
  unfold State.activeCd
  split <;> decide

/-- The number of the die that takes over, as GLB_CD_STATUS ACTIVE writes it. -/
theorem standby_code (s : State) : (if 1 - s.activeCd = 0 then 1 else 2 : BitVec 2) = if s.activeCd = 0 then 2 else 1 := by
  unfold State.activeCd
  split <;> rfl

/-! ## JTAG (R493) -/

/-- The port with an instruction, which drives the balls or not. -/
def State.jtagAt (s : State) (n : Nat) (drive : Bool) : State := { s with jtag := { s.jtag with ir := n, driving := drive } }

theorem jtagInstruction_idcode {v : Nat} (h : s.idcode = v) (d : Dword) (balls : List (Nat × Bool)) :
    jtagInstruction 1 d balls s = ((s.jtagAt 1 false).emit (.tdo (BitVec.ofNat 64 v))).tick := by
  have hcode : (s.jtagAt 1 false).idcode = v := h
  subst hcode
  rfl

theorem idcode_of_a1 (h : s.boot.stepping = 0xA1) : s.idcode = 0x14E4BB47 := by
  simp [State.idcode, h]

theorem idcode_of_b0 (h : s.boot.stepping = 0xB0) : s.idcode = 0x24E4BB47 := by
  simp [State.idcode, h]

theorem instrument_of_production (h : s.sec.lifecycle = 1) (i : Nat) :
    s.instrument i = if Config.isMonitor i then Config.instrument i else 0 := by
  unfold State.instrument
  cases hm : Config.isMonitor i <;> simp [h]

end Sys2Proof.Machine
end

section
/-!
The obligation on firmware update, the takeover and the JTAG port.
-/
namespace Sys2Proof.Machine

/-- Settles O59: each OP by how it begins and ends, then the window, the takeover and the port. -/
theorem firmwareUpdateTakeoverAndJtag : Obligations.FirmwareUpdateTakeoverAndJtag := by
  unfold Obligations.FirmwareUpdateTakeoverAndJtag
  refine ⟨fun s hbusy => ?busy, fun s hfree he hquiet hactive => ?ops, fun s hactive hquiet => ?quiesce, fun s hactive hwarm => ?window,
    fun s he => ?takeover, fun s d bs => ?jtag⟩
  case busy =>
    have hrsv (op : BitVec 4) (g : State → State) : (.next (s.beginFwu op g) : Out State) = .next s.rsv :=
      congrArg Host.Outcome.next (beginFwu_of_busy hbusy op g)
    exact ⟨fun _ => hrsv 1 _, hrsv 2 _, hrsv 3 _, hrsv 4 _, hrsv 5 _⟩
  case ops =>
    have h : OpMayBegin s := ⟨hfree, he, hquiet, hactive⟩
    refine ⟨fun img => ⟨fun hgood => ?_, fun hgood hsvn => ?_, fun hgood hsvn => ?_⟩, fun hrun => ?_, fun g hrun hstate => ?_,
      fun hother => ?_, fun g hother hvalid hstate => ?_, fun hpending => ⟨?_, ?_⟩, fun hpending g hother => ?_,
      fun hpending g o hrun hother => ⟨fun hloader => ?_, fun hloader => ?_⟩⟩
    · exact opEnds_refused h (congrArg Host.Outcome.next (fwuStage_unsound h hgood)) (by decide)
    · exact opEnds_refused h (congrArg Host.Outcome.next (fwuStage_old h hgood hsvn)) (by decide)
    · exact opEnds_stage h hgood hsvn
    · exact opEnds_refused h (congrArg Host.Outcome.next (fwuConfirm_refuses h hrun)) (by decide)
    · exact opEnds_confirm h hrun hstate
    · exact opEnds_refused h (congrArg Host.Outcome.next (fwuRevert_refuses h hother)) (by decide)
    · exact opEnds_revert h hother hvalid hstate
    · exact opEnds_refused h (congrArg Host.Outcome.next (fwuCancel_refuses h hpending)) (by decide)
    · exact opEnds_refused h (congrArg Host.Outcome.next (fwuActivate_of_no_pending h hpending)) (by decide)
    · exact (opEnds_cancel h hpending hother).1
    · have hloaders : loaderOf s.boot.other ≠ loaderOf s.boot.running := by
        rw [hother, hrun]
        exact fun heq => hloader (Option.some.inj heq)
      exact opEnds_refused h (congrArg Host.Outcome.next (fwuActivate_of_other_loader h hpending hloaders)) (by decide)
    · have hloaders : loaderOf s.boot.other = loaderOf s.boot.running := by
        rw [hother, hrun]
        exact congrArg some hloader
      exact ⟨_, rfl, fwuActivate_quiesces h hpending hloaders⟩
  case quiesce => exact congrArg Host.Outcome.next (quiesce_times_out hactive hquiet)
  case window =>
    refine ⟨fun h hswitched he hpending hother => ⟨_, rfl, activationSwitch_runs_staged hactive hswitched he hpending hother⟩,
      fun hswitched => ?_, fun hswitched => ?_⟩
    · refine ⟨_, congrArg Host.Outcome.next (actFail_closes hactive hswitched hwarm), rfl, rfl, rfl, ?_, ?_, rfl, rfl⟩
      · exact Boot.running_setImage_other ..
      · exact Boot.other_setImage_other ..
    · exact ⟨_, congrArg Host.Outcome.next (activationWindowClose_eq hactive hswitched), (windowEnded_ends s).closes hwarm⟩
  case takeover =>
    have hne := standby_ne_active s
    have hout := cdOut_out s s.activeCd
    obtain ⟨cds, o, hframe⟩ := hout.frame
    refine ⟨fun hok => ⟨_, congrArg Host.Outcome.next (takeover_to_standby he hok hne), standby_code s, ?_, rfl, hout.ok, hout.waiting,
      ?_, ?_, ?_, ?_⟩, fun hok => ⟨_, congrArg Host.Outcome.next (takeover_of_no_standby he hok hne), rfl, rfl, ?_⟩⟩
    all_goals simp [hframe]
  case jtag =>
    refine ⟨rfl, fun h => ?_, fun h => ?_, ⟨_, rfl, rfl, rfl⟩, rfl, fun h => ?_⟩
    · exact congrArg Host.Outcome.next (jtagInstruction_idcode (idcode_of_a1 h) d bs)
    · exact congrArg Host.Outcome.next (jtagInstruction_idcode (idcode_of_b0 h) d bs)
    · exact congrArg (fun x => Host.Outcome.next ((s.jtagAt 4 false).emit (.tdo x))) (instrument_of_production h d.toNat)

end Sys2Proof.Machine
end
